-- ==== Sys2Proof/Word.lean ====
section
/-! DEFINITION. The word types of the VX160 (R1, R2): bytes, scalars, FP32 bit patterns and descriptors. -/

namespace Sys2Proof

/-- One byte (R2). -/
abbrev Byte := BitVec 8

/-- A 32-bit lane, flag or FP32 bit pattern. -/
abbrev W32 := BitVec 32

/-- A scalar register, a control register or a slot word. -/
abbrev W64 := BitVec 64

/-- The 64 bytes of a stream descriptor (R36) or of a task record (R246), little-endian. -/
abbrev W512 := BitVec 512

end Sys2Proof
end

