-- ==== Sys2Proof/Config.lean ====
section
/-! DEFINITION. What an implementation fixes, and the values the spec leaves free: opaque constants with no body, so
that no proof can lean on one. -/

namespace Sys2Proof

/-- The value the machine supplies where the spec says undefined (R5): the counter of the state makes each one fresh.
Assumption 3. -/
opaque Config.freeValue : Nat → W64

/-- The package number within the pod (R25). Assumption 13. -/
opaque Config.pkg : BitVec 12

/-- SHAKE256 with 512 bits of output (R349). Assumption 5. -/
opaque Config.shake256 : List Byte → W512

/-- The ML-DSA-65 signature under the package's identity key, which is never readable (R350). Assumption 5. -/
opaque Config.sign : List Byte → BitVec 26472

/-- The digest of the image that a boot step starts: image B when the flag is set (R349, R403). Assumption 5. -/
opaque Config.imageDigest : Nat → Bool → W512

/-- The capacity in bytes of the expander that a CXL port trains with (R348). Assumption 13. -/
opaque Config.expander : Nat → Nat

/-- Whether a host link trains as CXL 3.x Type 2 (R347). Assumption 13. -/
opaque Config.linkCxl : Nat → Bool

end Sys2Proof
end

