-- ==== Sys2Proof/Syntax.lean ====
section
/-! DEFINITION. The syntax: the slot frame and the seven formats (R46 to R54), the operands of events, and the one
inductive `Instr` with a constructor for every row of the opcode table. The fields of a format are kept whole, the
unused ones too (R47), so that no bit of a slot word is lost. -/

namespace Sys2Proof

/-- Bits 55:47 of a slot word (R46). -/
structure Frame where
  takeL : Bool
  takeR : Bool
  giveL : Bool
  giveR : Bool
  inst : Bool
  pred : BitVec 3
  pneg : Bool
deriving DecidableEq, Repr

/-- Format A (R48). -/
structure OpA where
  dst : BitVec 6
  a : BitVec 6
  b : BitVec 6
  fn : BitVec 10
  width : BitVec 2
  rsv : BitVec 17
deriving DecidableEq, Repr

/-- Format I (R49); `sel` are bits 34:33 and `lit` is the L bit. -/
structure OpI where
  dst : BitVec 6
  a : BitVec 6
  sel : BitVec 2
  lit : Bool
  imm : BitVec 32
deriving DecidableEq, Repr

/-- Format C (R50). -/
structure OpC where
  cond : BitVec 3
  a : BitVec 6
  b : BitVec 6
  disp : BitVec 32
deriving DecidableEq, Repr

/-- Format M (R51). -/
structure OpM where
  data : BitVec 6
  base : BitVec 6
  index : BitVec 6
  scale : BitVec 2
  size : BitVec 3
  amo : BitVec 4
  disp : BitVec 20
deriving DecidableEq, Repr

/-- Format V (R52). -/
structure OpV where
  vd : BitVec 5
  va : BitVec 5
  vb : BitVec 5
  vc : BitVec 5
  type : BitVec 4
  rnd : BitVec 3
  ovf : BitVec 2
  fn : BitVec 6
  imm : BitVec 12
deriving DecidableEq, Repr

/-- Format E (R53). -/
structure OpE where
  dA : BitVec 5
  dB : BitVec 5
  dC : BitVec 5
  acc : BitVec 3
  chan : BitVec 3
  fn : BitVec 6
  mods : BitVec 20
deriving DecidableEq, Repr

/-- Format Y (R54). -/
structure OpY where
  x : BitVec 6
  y : BitVec 6
  z : BitVec 6
  fn : BitVec 9
  imm : BitVec 20
deriving DecidableEq, Repr

/-- What a far target or the host answers to a delivered access (R208, R343, R344): it comes from outside the package. -/
inductive FarAns where
  /-- The access was performed; `data` is what a read returns. -/
  | done (data : BitVec 128) (poison : Bool)
  /-- The target refused the request (R343). -/
  | refused
  /-- The target is down and the access is lost (R344). -/
  | lost
deriving DecidableEq, Repr

/-- The cause and the detail of a trap that an event delivers (R352). -/
structure TrapArg where
  cause : BitVec 8
  eslot : BitVec 2
  einfo : W64
deriving DecidableEq, Repr

/-- The fields of a task queue entry that its owner writes (R248). -/
structure QueueArg where
  ring : Nat
  lgsize : Nat
  prio : Nat
  enabled : Bool
  preempt : Bool
  stagemask : BitVec 16
  coremask : BitVec 160
deriving DecidableEq, Repr

/-- The fields of a submission queue descriptor that software writes, and whether state is written back to RUN (R240). -/
structure SqArg where
  ring : Nat
  lgsize : Nat
  vector : Nat
  run : Bool
deriving DecidableEq, Repr

/-- What the PF assigns to a function: a task queue, a submission queue, or the CXL.mem range (R339, R347). -/
inductive AsgKind where
  | taskQueue (n : Nat)
  | subQueue (n : Nat)
  | cxlMem (base size : Nat)
deriving DecidableEq, Repr

/-- A function context (R338). -/
structure FuncCtx where
  s2root : Nat := 0
  asidtab : Nat := 0
  asidbase : Nat := 0
  asidcount : Nat := 0
  defasid : BitVec 12 := 0
  supasid : BitVec 12 := 0
  tkey : BitVec 32 := 0
  enabled : Bool := false
  poolbase : Nat := 0
  poolpages : Nat := 0
  quota : Nat := 0
  nodebase : Nat := 0
  nodecount : Nat := 0
  slice : Nat := 0
  hostwin : Nat := 0
  hostwinsize : Nat := 0
  tvec : BitVec 64 := 0
  edgering : BitVec 64 := 0
  tagquota : Nat := 0
  jpage : Nat := 0
  jrec : Nat := 0
deriving DecidableEq, Repr

/-- The kind of an access from outside the package: a read, a write, an atomic with its operation code of R75, a
compare and swap, or a bounded increment. -/
inductive ExtKind where
  | read
  | write (data : BitVec 128)
  | amo (op : BitVec 4) (x : W64)
  | cas (expected new : BitVec 128)
  | bnd (inc bound : W64)
deriving DecidableEq, Repr

/-- What a signal carries from its sender: path value, latest-edge reference and HLC stamp (R312). -/
structure Sig where
  path : Nat := 0
  ref : W64 := 0
  stamp : W64 := 0
deriving DecidableEq, Repr

/-- An arrival of another package at a pod barrier: the package, and the values that its flit header carries (R261, R312). -/
structure PodFrom where
  pkg : Nat
  sig : Sig := {}
deriving DecidableEq, Repr

/-- A request that another package sends to this one (R342, R343), with the values that its flit header carries (R312). -/
structure FarReq where
  source : Nat
  inc : W32
  tkey : W32
  offset : Nat
  size : Nat
  kind : ExtKind
  poison : Bool
  sig : Sig := {}
deriving DecidableEq, Repr

/-- An entry of the export table (R343). -/
structure ExportEntry where
  base : Nat := 0
  func : Nat := 0
  w : Bool := false
  r : Bool := false
  tkey : BitVec 32 := 0
  limit : Nat := 0
deriving DecidableEq, Repr

/-- A host access to the host window of function `vf`, or to the CXL.mem range, or with `bar0` to the registers of a function,
the PF being 64 (R346, R347). -/
structure HostAcc where
  link : Nat
  vf : Nat
  cxl : Bool
  offset : Nat
  size : Nat
  kind : ExtKind
  poison : Bool
  bar0 : Bool := false
deriving DecidableEq, Repr

/-- What a far mirror answers to the base die's fetch of a granule (R387, R389). -/
structure MirrorData where
  data : W512
  poison : Bool := false
deriving DecidableEq, Repr

/-- Where an error is found (R383). -/
inductive ErrSite where
  /-- A granule of HBM or of the second tier, by its physical address. -/
  | mem (pa : Nat)
  /-- A sector of L2, or a line of a core's L1 data: its granule's address, whether it was dirty, and the core. -/
  | cache (pa : Nat) (dirty : Bool) (l1 : Option Nat)
  /-- A line of a core's L1 instruction cache. -/
  | icache (c pa : Nat)
  /-- A granule of a core's stash. -/
  | stash (c off : Nat)
  /-- A lane of a vector register. -/
  | lane (c reg lane : Nat)
  /-- An accumulator element. -/
  | acc (c tile i j : Nat)
  /-- A sum of a Sorus entry. -/
  | sorus (c entry i : Nat)
  /-- An entry of the reply queue. -/
  | rq (c i : Nat)
  /-- A flag. -/
  | flag (c n : Nat)
  /-- A scalar, predicate, descriptor, control register, queue entry, token count, rule table, window map or TLB. -/
  | coreState (c : Nat)
  /-- A firmware image in flash. -/
  | flash
deriving DecidableEq, Repr

/-- What firmware writes under R404. -/
inductive LimitArg where
  | power (watts : Nat)
  | throttle (celsius : Nat)
  | ageLimit (pops : W32)
  | coreThreshold (n : Nat)
  | stackThreshold (n : Nat)
  | pageThreshold (n : Nat)
  /-- The classes of entries that raise interrupts, by bit. -/
  | interrupts (classes : BitVec 16)
deriving DecidableEq, Repr

/-- Every operation and event of the opcode table: a slot instruction with its frame and format, or an
event with the operands that name its agent and carry what comes from outside. -/
inductive Instr where
  /-- NOP (R43). -/
  | nop (raw : BitVec 56)
  /-- ADD (R107). -/
  | add (f : Frame) (o : OpA)
  /-- SUB (R107). -/
  | sub (f : Frame) (o : OpA)
  /-- MUL (R107). -/
  | mul (f : Frame) (o : OpA)
  /-- MULH (R107). -/
  | mulh (f : Frame) (o : OpA)
  /-- DIV (R109). -/
  | div (f : Frame) (o : OpA)
  /-- REM (R109). -/
  | rem (f : Frame) (o : OpA)
  /-- AND (R107). -/
  | and (f : Frame) (o : OpA)
  /-- OR (R107). -/
  | or (f : Frame) (o : OpA)
  /-- XOR (R107). -/
  | xor (f : Frame) (o : OpA)
  /-- ANDN (R107). -/
  | andn (f : Frame) (o : OpA)
  /-- SHL (R107). -/
  | shl (f : Frame) (o : OpA)
  /-- SHR (R107). -/
  | shr (f : Frame) (o : OpA)
  /-- SRA (R107). -/
  | sra (f : Frame) (o : OpA)
  /-- ROR (R107). -/
  | ror (f : Frame) (o : OpA)
  /-- MIN (R107). -/
  | min (f : Frame) (o : OpA)
  /-- MAX (R107). -/
  | max (f : Frame) (o : OpA)
  /-- CLZ (R108). -/
  | clz (f : Frame) (o : OpA)
  /-- CTZ (R108). -/
  | ctz (f : Frame) (o : OpA)
  /-- POPC (R108). -/
  | popc (f : Frame) (o : OpA)
  /-- BREV (R108). -/
  | brev (f : Frame) (o : OpA)
  /-- BSWAP (R108). -/
  | bswap (f : Frame) (o : OpA)
  /-- SEL (R110). -/
  | sel (f : Frame) (o : OpA)
  /-- SETC (R110). -/
  | setc (f : Frame) (o : OpA)
  /-- CMP (R110). -/
  | cmp (f : Frame) (o : OpC)
  /-- PAND (R111). -/
  | pand (f : Frame) (o : OpA)
  /-- POR (R111). -/
  | por (f : Frame) (o : OpA)
  /-- PXOR (R111). -/
  | pxor (f : Frame) (o : OpA)
  /-- PNOT (R111). -/
  | pnot (f : Frame) (o : OpA)
  /-- ADDI (R112). -/
  | addi (f : Frame) (o : OpI)
  /-- ANDI (R112). -/
  | andi (f : Frame) (o : OpI)
  /-- ORI (R112). -/
  | ori (f : Frame) (o : OpI)
  /-- XORI (R112). -/
  | xori (f : Frame) (o : OpI)
  /-- SHLI (R112). -/
  | shli (f : Frame) (o : OpI)
  /-- SHRI (R112). -/
  | shri (f : Frame) (o : OpI)
  /-- SRAI (R112). -/
  | srai (f : Frame) (o : OpI)
  /-- LI (R112). -/
  | li (f : Frame) (o : OpI)
  /-- LIH (R112). -/
  | lih (f : Frame) (o : OpI)
  /-- LEA (R113). -/
  | lea (f : Frame) (o : OpM)
  /-- LD (R221). -/
  | ld (f : Frame) (o : OpM)
  /-- ST (R221). -/
  | st (f : Frame) (o : OpM)
  /-- AMO (R222). -/
  | amo (f : Frame) (o : OpM)
  /-- CAS (R223). -/
  | cas (f : Frame) (o : OpM)
  /-- AMOBND (R224). -/
  | amobnd (f : Frame) (o : OpM)
  /-- PREF (R225). -/
  | pref (f : Frame) (o : OpM)
  /-- FFENCE (R227). -/
  | ffence (f : Frame) (o : OpY)
  /-- DRAIN (R226). -/
  | drain (f : Frame) (o : OpY)
  /-- DRAIN_ALL (R226). -/
  | drainAll (f : Frame) (o : OpY)
  /-- IFENCE (R228). -/
  | ifence (f : Frame) (o : OpY)
  /-- BIASFLIP_HOST (R229). -/
  | biasflipHost (f : Frame) (o : OpY)
  /-- BIASFLIP_DEV (R229). -/
  | biasflipDev (f : Frame) (o : OpY)
  /-- BR (R291). -/
  | br (f : Frame) (o : OpC)
  /-- BP (R291). -/
  | bp (f : Frame) (o : OpC)
  /-- JMP (R291). -/
  | jmp (f : Frame) (o : OpC)
  /-- JMPR (R291). -/
  | jmpr (f : Frame) (o : OpY)
  /-- CALL (R291). -/
  | call (f : Frame) (o : OpC)
  /-- CALLR (R291). -/
  | callr (f : Frame) (o : OpY)
  /-- RET (R291). -/
  | ret (f : Frame) (o : OpY)
  /-- LOOP (R291). -/
  | loop (f : Frame) (o : OpC)
  /-- FSET (R292). -/
  | fset (f : Frame) (o : OpY)
  /-- FADD (R292). -/
  | fadd (f : Frame) (o : OpY)
  /-- FRD (R292). -/
  | frd (f : Frame) (o : OpY)
  /-- FBIND (R293). -/
  | fbind (f : Frame) (o : OpY)
  /-- FBIND_NONE (R293). -/
  | fbindNone (f : Frame) (o : OpY)
  /-- BAR_TEAM (R295). -/
  | barTeam (f : Frame) (o : OpY)
  /-- BAR_DIE (R295). -/
  | barDie (f : Frame) (o : OpY)
  /-- BAR_PKG (R295). -/
  | barPkg (f : Frame) (o : OpY)
  /-- BAR_POD (R295). -/
  | barPod (f : Frame) (o : OpY)
  /-- RPOP (R296). -/
  | rpop (f : Frame) (o : OpY)
  /-- SQUASH (R264). -/
  | squash (f : Frame) (o : OpY)
  /-- WAITF (R294). -/
  | waitf (f : Frame) (o : OpY)
  /-- SPAWN (R298). -/
  | spawn (f : Frame) (o : OpY)
  /-- SPAWN_NB (R298). -/
  | spawnNb (f : Frame) (o : OpY)
  /-- FINISH (R299). -/
  | finish (f : Frame) (o : OpY)
  /-- FINISH_FAIL (R299). -/
  | finishFail (f : Frame) (o : OpY)
  /-- YIELD (R300). -/
  | yield (f : Frame) (o : OpY)
  /-- JOINADD (R301). -/
  | joinadd (f : Frame) (o : OpY)
  /-- TAGNEW (R302). -/
  | tagnew (f : Frame) (o : OpY)
  /-- TAGNEW_ROOT (R302). -/
  | tagnewRoot (f : Frame) (o : OpY)
  /-- CANCEL (R303). -/
  | cancel (f : Frame) (o : OpY)
  /-- CANCEL_WAIT (R303). -/
  | cancelWait (f : Frame) (o : OpY)
  /-- SELF (R304). -/
  | self (f : Frame) (o : OpY)
  /-- SLOPEN (R307). -/
  | slopen (f : Frame) (o : OpY)
  /-- SLOPEN_FEED (R307). -/
  | slopenFeed (f : Frame) (o : OpY)
  /-- SLPUB (R306). -/
  | slpub (f : Frame) (o : OpY)
  /-- SLTENT (R306). -/
  | sltent (f : Frame) (o : OpY)
  /-- SLCOMMIT (R306). -/
  | slcommit (f : Frame) (o : OpY)
  /-- SLREJECT (R306). -/
  | slreject (f : Frame) (o : OpY)
  /-- SLFORK (R306). -/
  | slfork (f : Frame) (o : OpY)
  /-- SLDROP (R306). -/
  | sldrop (f : Frame) (o : OpY)
  /-- SLQUERY (R306). -/
  | slquery (f : Frame) (o : OpY)
  /-- REVOKE (R308). -/
  | revoke (f : Frame) (o : OpY)
  /-- RESUME (R308). -/
  | resume (f : Frame) (o : OpY)
  /-- RSKIP (R308). -/
  | rskip (f : Frame) (o : OpY)
  /-- RPAUSE (R308). -/
  | rpause (f : Frame) (o : OpY)
  /-- RQUERY (R309). -/
  | rquery (f : Frame) (o : OpY)
  /-- DLD (R116). -/
  | dld (f : Frame) (o : OpY)
  /-- DST (R116). -/
  | dst (f : Frame) (o : OpY)
  /-- DSET (R117). -/
  | dset (f : Frame) (o : OpY)
  /-- DGET (R117). -/
  | dget (f : Frame) (o : OpY)
  /-- DADV (R118). -/
  | dadv (f : Frame) (o : OpY)
  /-- SFLUSH (R119). -/
  | sflush (f : Frame) (o : OpY)
  /-- SFLUSH_UNMAP (R119). -/
  | sflushUnmap (f : Frame) (o : OpY)
  /-- SDROP (R119). -/
  | sdrop (f : Frame) (o : OpY)
  /-- STEPMARK (R318). -/
  | stepmark (f : Frame) (o : OpY)
  /-- STEPEND (R319). -/
  | stepend (f : Frame) (o : OpY)
  /-- EDGERD (R320). -/
  | edgerd (f : Frame) (o : OpY)
  /-- VADD (R152). -/
  | vadd (f : Frame) (o : OpV)
  /-- VSUB (R152). -/
  | vsub (f : Frame) (o : OpV)
  /-- VMUL (R152). -/
  | vmul (f : Frame) (o : OpV)
  /-- VFMA (R152). -/
  | vfma (f : Frame) (o : OpV)
  /-- VFMS (R152). -/
  | vfms (f : Frame) (o : OpV)
  /-- VMIN (R152). -/
  | vmin (f : Frame) (o : OpV)
  /-- VMAX (R152). -/
  | vmax (f : Frame) (o : OpV)
  /-- VABS (R152). -/
  | vabs (f : Frame) (o : OpV)
  /-- VNEG (R152). -/
  | vneg (f : Frame) (o : OpV)
  /-- VRCP (R102). -/
  | vrcp (f : Frame) (o : OpV)
  /-- VRSQRT (R102). -/
  | vrsqrt (f : Frame) (o : OpV)
  /-- VSQRT (R102). -/
  | vsqrt (f : Frame) (o : OpV)
  /-- VEXP2 (R103). -/
  | vexp2 (f : Frame) (o : OpV)
  /-- VLOG2 (R104). -/
  | vlog2 (f : Frame) (o : OpV)
  /-- VCVT (R154). -/
  | vcvt (f : Frame) (o : OpV)
  /-- VCMP (R155). -/
  | vcmp (f : Frame) (o : OpV)
  /-- VSEL (R156). -/
  | vsel (f : Frame) (o : OpV)
  /-- VAND (R156). -/
  | vand (f : Frame) (o : OpV)
  /-- VOR (R156). -/
  | vor (f : Frame) (o : OpV)
  /-- VXOR (R156). -/
  | vxor (f : Frame) (o : OpV)
  /-- VSHL (R156). -/
  | vshl (f : Frame) (o : OpV)
  /-- VSHR (R156). -/
  | vshr (f : Frame) (o : OpV)
  /-- VSRA (R156). -/
  | vsra (f : Frame) (o : OpV)
  /-- VMOV (R156). -/
  | vmov (f : Frame) (o : OpV)
  /-- VRED (R159). -/
  | vred (f : Frame) (o : OpV)
  /-- VSCAN (R159). -/
  | vscan (f : Frame) (o : OpV)
  /-- VPERM (R160). -/
  | vperm (f : Frame) (o : OpV)
  /-- VBCAST (R160). -/
  | vbcast (f : Frame) (o : OpV)
  /-- VIOTA (R156). -/
  | viota (f : Frame) (o : OpV)
  /-- VINS (R160). -/
  | vins (f : Frame) (o : OpV)
  /-- VEXT (R160). -/
  | vext (f : Frame) (o : OpV)
  /-- KOP (R157). -/
  | kop (f : Frame) (o : OpV)
  /-- KPOPC (R157). -/
  | kpopc (f : Frame) (o : OpV)
  /-- VLD (R161). -/
  | vld (f : Frame) (o : OpV)
  /-- VST (R161). -/
  | vst (f : Frame) (o : OpV)
  /-- VLDG (R162). -/
  | vldg (f : Frame) (o : OpV)
  /-- VSTS (R162). -/
  | vsts (f : Frame) (o : OpV)
  /-- VSHORT (R164). -/
  | vshort (f : Frame) (o : OpV)
  /-- VRAND (R166). -/
  | vrand (f : Frame) (o : OpV)
  /-- VTOPK (R163). -/
  | vtopk (f : Frame) (o : OpV)
  /-- VNOP (R167). -/
  | vnop (f : Frame) (o : OpV)
  /-- MMA (R131). -/
  | mma (f : Frame) (o : OpE)
  /-- MZERO (R133). -/
  | mzero (f : Frame) (o : OpE)
  /-- MTBL (R134). -/
  | mtbl (f : Frame) (o : OpE)
  /-- MTBL_PROD (R135). -/
  | mtblProd (f : Frame) (o : OpE)
  /-- EPI (R139). -/
  | epi (f : Frame) (o : OpE)
  /-- EPIRED (R140). -/
  | epired (f : Frame) (o : OpE)
  /-- EPIFN (R138). -/
  | epifn (f : Frame) (o : OpE)
  /-- CPY (R233). -/
  | cpy (f : Frame) (o : OpE)
  /-- CPYG (R233). -/
  | cpyg (f : Frame) (o : OpE)
  /-- CPYS (R233). -/
  | cpys (f : Frame) (o : OpE)
  /-- CPYIDX (R234). -/
  | cpyidx (f : Frame) (o : OpE)
  /-- CPYFILL (R235). -/
  | cpyfill (f : Frame) (o : OpE)
  /-- CPYMIR (R236). -/
  | cpymir (f : Frame) (o : OpE)
  /-- SAQ (R172). -/
  | saq (f : Frame) (o : OpE)
  /-- SAMASK (R181). -/
  | samask (f : Frame) (o : OpE)
  /-- SRCFG (R192). -/
  | srcfg (f : Frame) (o : OpE)
  /-- SRABS_REG (R193). -/
  | srabsReg (f : Frame) (o : OpE)
  /-- SRABS_DESC (R193). -/
  | srabsDesc (f : Frame) (o : OpE)
  /-- SRMERGE (R194). -/
  | srmerge (f : Frame) (o : OpE)
  /-- SRMERGE_PAIR (R194). -/
  | srmergePair (f : Frame) (o : OpE)
  /-- SRREAD (R195). -/
  | srread (f : Frame) (o : OpE)
  /-- SRSET (R196). -/
  | srset (f : Frame) (o : OpE)
  /-- SRCLR (R196). -/
  | srclr (f : Frame) (o : OpE)
  /-- TRAP (R373). -/
  | trap (f : Frame) (o : OpY)
  /-- ERET (R374). -/
  | eret (f : Frame) (o : OpY)
  /-- CRD (R375). -/
  | crd (f : Frame) (o : OpY)
  /-- CWR (R375). -/
  | cwr (f : Frame) (o : OpY)
  /-- WFI (R377). -/
  | wfi (f : Frame) (o : OpY)
  /-- BRK (R362). -/
  | brk (f : Frame) (o : OpY)
  /-- CTXSAVE (R379). -/
  | ctxsave (f : Frame) (o : OpY)
  /-- CTXLOAD (R380). -/
  | ctxload (f : Frame) (o : OpY)
  /-- PERFRD (R321). -/
  | perfrd (f : Frame) (o : OpY)
  /-- BUNDLE_ISSUE (R27). -/
  | bundleIssue (c : Nat)
  /-- HEADER_WAIT (R44). -/
  | headerWait (c : Nat)
  /-- COMMAND_ISSUE (R31). -/
  | commandIssue (c q : Nat)
  /-- COMMAND_RETIRE (R31). -/
  | commandRetire (c a : Nat)
  /-- TOKEN_GIVE_GRANTED (R31). -/
  | tokenGiveGranted (c q : Nat)
  /-- TOKEN_DEADLOCK (R32). -/
  | tokenDeadlock (c : Nat)
  /-- WINDOW_FILL (R35). -/
  | windowFill (c g : Nat)
  /-- WINDOW_WRITEBACK (R35). -/
  | windowWriteback (c g : Nat)
  /-- OPERAND_FETCH (R125). -/
  | operandFetch (c port : Nat)
  /-- STREAM_FAULT (R335). -/
  | streamFault (c port : Nat)
  /-- LOAD_RETURN (R221). -/
  | loadReturn (c i : Nat)
  /-- PERFORM (R202). -/
  | perform (c : Nat)
  /-- DELIVER (R202). -/
  | deliver (c target : Nat) (ans : FarAns)
  /-- LOGICAL_TIME_REBASE (R215). -/
  | logicalTimeRebase (amount : Nat)
  /-- FIRING (R282). -/
  | firing (c q : Nat)
  /-- FIRING_RETIRE (R284). -/
  | firingRetire (c q : Nat)
  /-- TRAP_ENTRY (R355). -/
  | trapEntry (c : Nat) (t : TrapArg)
  /-- ASYNC_TRAP_TAKEN (R353). -/
  | asyncTrapTaken (c : Nat)
  /-- WAITF_TIMEOUT (R294). -/
  | waitfTimeout (c : Nat)
  /-- WAIT_RELEASE (R259). -/
  | waitRelease (c : Nat)
  /-- WFI_WAKE (R377). -/
  | wfiWake (c : Nat)
  /-- DOORBELL (R240). -/
  | doorbell (sq tail : Nat)
  /-- LAUNCH (R243). -/
  | launch (sq : Nat)
  /-- FENCE (R244). -/
  | fence (sq : Nat)
  /-- FENCE_EVALUATE (R244). -/
  | fenceEvaluate (sq : Nat)
  /-- SIGNAL (R245). -/
  | signal (sq : Nat)
  /-- COPY (R245). -/
  | copy (sq : Nat)
  /-- MARK (R245). -/
  | mark (sq : Nat)
  /-- SQ_STATE_WRITE (R240). -/
  | sqStateWrite (sq : Nat) (e : SqArg)
  /-- TASK_QUEUE_ENTRY_WRITE (R248). -/
  | taskQueueEntryWrite (vf q : Nat) (e : QueueArg)
  /-- POP (R249). -/
  | pop (c : Nat)
  /-- CONTEXT_RESTORE (R371). -/
  | contextRestore (c : Nat)
  /-- PREEMPTION (R251). -/
  | preemption (q : Nat)
  /-- TIME_SLICE (R251). -/
  | timeSlice (c : Nat)
  /-- HARDWARE_SAVE (R369). -/
  | hardwareSave (c : Nat)
  /-- SPAWN_FULL (R253). -/
  | spawnFull (c : Nat)
  /-- SPAWN_RETRY (R253). -/
  | spawnRetry (c : Nat)
  /-- CONTINUATION_ENQUEUE (R254). -/
  | continuationEnqueue (i : Nat)
  /-- CANCEL_SWEEP (R257). -/
  | cancelSweep (q : Nat)
  /-- POD_CANCEL (R257). -/
  | podCancel (vf : Nat) (group : W32)
  /-- CANCEL_RUN_STOP (R257). -/
  | cancelRunStop (c : Nat)
  /-- TAG_RELEASE (R257). -/
  | tagRelease (t : Nat)
  /-- BARRIER_RELEASE (R261). -/
  | barrierRelease (b : Nat)
  /-- POD_BARRIER_ARRIVAL (R261). -/
  | podBarrierArrival (group : W32) (x : PodFrom)
  /-- BARRIER_BROKEN (R263). -/
  | barrierBroken (b : Nat)
  /-- FROND_RELEASE (R275). -/
  | frondRelease (ot : Nat)
  /-- SAQ_COMPLETE (R177). -/
  | saqComplete (c : Nat)
  /-- LAUTER_MERGE (R176). -/
  | lauterMerge (c row level e : Nat)
  /-- STAGE2_FAULT (R336). -/
  | stage2Fault (c : Nat)
  /-- FAULT_RING_ANSWER (R336). -/
  | faultRingAnswer (handle action : Nat)
  /-- WARM_RESET (R399). -/
  | warmReset (late : List Nat)
  /-- BOOT_STEP (R403). -/
  | bootStep (ok : Bool)
  /-- PRECISE_STOP (R322). -/
  | preciseStop (c : Nat)
  /-- ACCESS (R202). -/
  | access (c a : Nat) (write : Bool) (n : Nat)
  /-- FUNCTION_CONTEXT_WRITE (R338). -/
  | functionContextWrite (vf : Nat) (x : FuncCtx)
  /-- FUNCTION_DISABLE (R339). -/
  | functionDisable (vf : Nat)
  /-- FUNCTION_ENABLE (R339). -/
  | functionEnable (vf : Nat)
  /-- QUEUE_ASSIGNMENT (R339). -/
  | queueAssignment (k : AsgKind) (vf : Nat)
  /-- FUNCTION_RESET (R341). -/
  | functionReset (vf : Nat)
  /-- FAR_REQUEST (R343). -/
  | farRequest (r : FarReq)
  /-- EXPORT_TABLE_WRITE (R343). -/
  | exportTableWrite (vf e : Nat) (x : ExportEntry)
  /-- TARGET_DOWN (R344). -/
  | targetDown (pkg : Nat)
  /-- TARGET_UP (R344). -/
  | targetUp (pkg : Nat) (inc : W32)
  /-- HOST_ACCESS (R346). -/
  | hostAccess (a : HostAcc)
  /-- ATTESTATION_REPORT (R350). -/
  | attestationReport (vf : Option Nat) (nonce : W512)
  /-- CORRECTED_ERROR (R383). -/
  | correctedError (site : ErrSite)
  /-- UNCORRECTABLE_ERROR (R385). -/
  | uncorrectableError (site : ErrSite)
  /-- SCRUB (R384). -/
  | scrub (unit : Nat)
  /-- MIRROR_REPAIR (R389). -/
  | mirrorRepair (granule : Nat) (data : Option MirrorData)
  /-- QUARANTINE_RELEASE (R391). -/
  | quarantineRelease (page : Nat)
  /-- MIRROR_REGISTRATION (R389). -/
  | mirrorRegistration (frame mirror : Nat)
  /-- CORE_FAILURE (R398). -/
  | coreFailure (c : Nat)
  /-- FLIT_REPLAY (R394). -/
  | flitReplay (port : Nat)
  /-- PORT_LANE_LOSS (R394). -/
  | portLaneLoss (port : Nat) (failed : Bool)
  /-- ROUTE_LOSS_TIMEOUT (R394). -/
  | routeLossTimeout (pkg : Nat)
  /-- DIE_BOUNDARY_ERROR (R394). -/
  | dieBoundaryError (boundary : Nat)
  /-- COLD_RESET (R407). -/
  | coldReset
  /-- CORE_FENCE (R407). -/
  | coreFence (c : Nat)
  /-- CORE_RELEASE (R407). -/
  | coreRelease (c : Nat)
  /-- POWER_ON (R349). -/
  | powerOn
  /-- THERMAL_TRIP (R404). -/
  | thermalTrip
  /-- POWER_CLAMP (R14). -/
  | powerClamp (c positions : Nat)
  /-- LIMITS_WRITE (R404). -/
  | limitsWrite (l : LimitArg)
  /-- POD_TABLE_WRITE (R342). -/
  | podTableWrite (pkg : Nat) (up : Bool) (inc : W32) (route : Nat)
  /-- PRECISE_STOP_ARM (R322). -/
  | preciseStopArm (c cycle : Nat)
  /-- PRECISE_STOP_RELEASE (R322). -/
  | preciseStopRelease (c : Nat)
  /-- ERROR_LOG_INTERRUPT (R406). -/
  | errorLogInterrupt (source : Nat)
  /-- EXPANDER_FAILURE (R348). -/
  | expanderFailure (port : Nat)
  /-- HOST_SNOOP (R347). -/
  | hostSnoop (line : Nat)
  /-- POWER_LOSS (R382). -/
  | powerLoss
  /-- REENABLING (R402). -/
  | reenabling (part : Nat)
deriving DecidableEq, Repr

end Sys2Proof
end

