-- ==== Sys2Proof/WellFormed.lean ====
section
/-! DEFINITION. Which instructions are well formed: the selector bits name the constructor, the sub-operation is one
the tables list, no field that the instruction uses holds a reserved code (R61 to R63, R73 to R81), and the numbers
that events name are within the machine. -/

namespace Sys2Proof

/-- Type codes F, I and all of R151. -/
def typeF (t : BitVec 4) : Bool := t.toNat ≤ 2
/-- The integer types of R151. -/
def typeI (t : BitVec 4) : Bool := decide (6 ≤ t.toNat) && decide (t.toNat ≤ 11)
/-- "all" of R151. -/
def typeAll (t : BitVec 4) : Bool := decide (t.toNat ≤ 4) || typeI t

/-- Elements in a 32-bit lane (R142). DESIGN CHOICE, assumption 77: a type that VCVT or VCMP does not accept counts as one element
a lane in the check of part and sub (R79). -/
def perLane (t : BitVec 4) : Nat :=
  match t.toNat with
  | 1 => 2
  | 2 => 2
  | 7 => 2
  | 10 => 2
  | 3 => 4
  | 4 => 4
  | 8 => 4
  | 11 => 4
  | _ => 1

/-- The bits that select a form of a grouped opcode name this form (R73 to R77). -/
def selOk : Instr → Bool
  | .clz _ o => decide (o.fn.toNat % 8 = 0)
  | .ctz _ o => decide (o.fn.toNat % 8 = 1)
  | .popc _ o => decide (o.fn.toNat % 8 = 2)
  | .brev _ o => decide (o.fn.toNat % 8 = 3)
  | .bswap _ o => decide (o.fn.toNat % 8 = 4)
  | .pand _ o => decide (o.fn.toNat % 4 = 0)
  | .por _ o => decide (o.fn.toNat % 4 = 1)
  | .pxor _ o => decide (o.fn.toNat % 4 = 2)
  | .pnot _ o => decide (o.fn.toNat % 4 = 3)
  | .andi _ o => decide (o.sel.toNat = 0)
  | .ori _ o => decide (o.sel.toNat = 1)
  | .xori _ o => decide (o.sel.toNat = 2)
  | .shli _ o => decide (o.imm.toNat / 256 % 4 = 0)
  | .shri _ o => decide (o.imm.toNat / 256 % 4 = 1)
  | .srai _ o => decide (o.imm.toNat / 256 % 4 = 2)
  | .li _ o => decide (o.a.toNat = 0)
  | .lih _ o => decide (o.a.toNat = 1)
  | .drain _ o => decide (o.fn.toNat = 0)
  | .drainAll _ o => decide (o.fn.toNat = 1)
  | .biasflipHost _ o => decide (o.fn.toNat = 0)
  | .biasflipDev _ o => decide (o.fn.toNat = 1)
  | .fbind _ o => decide (o.fn.toNat < 3)
  | .fbindNone _ o => decide (o.fn.toNat = 3)
  | .barTeam _ o => decide (o.fn.toNat = 0)
  | .barDie _ o => decide (o.fn.toNat = 1)
  | .barPkg _ o => decide (o.fn.toNat = 2)
  | .barPod _ o => decide (o.fn.toNat = 3)
  | .spawn _ o => decide (o.fn.toNat = 0)
  | .spawnNb _ o => decide (o.fn.toNat = 1)
  | .finish _ o => decide (o.fn.toNat = 0)
  | .finishFail _ o => decide (o.fn.toNat = 1)
  | .tagnew _ o => decide (o.fn.toNat = 0)
  | .tagnewRoot _ o => decide (o.fn.toNat = 1)
  | .cancel _ o => decide (o.fn.toNat = 0)
  | .cancelWait _ o => decide (o.fn.toNat = 1)
  | .slopen _ o => decide (o.fn.toNat = 0)
  | .slopenFeed _ o => decide (o.fn.toNat = 1)
  | .revoke _ o => decide (o.fn.toNat = 0)
  | .resume _ o => decide (o.fn.toNat = 1)
  | .rskip _ o => decide (o.fn.toNat = 2)
  | .rpause _ o => decide (o.fn.toNat = 3)
  | .rquery _ o => decide (o.fn.toNat = 4)
  | .sflush _ o => decide (o.fn.toNat = 0)
  | .sflushUnmap _ o => decide (o.fn.toNat = 1)
  | .mtbl _ o => decide (o.fn.toNat = 0)
  | .mtblProd _ o => decide (o.fn.toNat = 1)
  | .srabsReg _ o => decide (o.fn.toNat = 0)
  | .srabsDesc _ o => decide (o.fn.toNat = 1)
  | .srmerge _ o => decide (o.fn.toNat = 0)
  | .srmergePair _ o => decide (o.fn.toNat = 1)
  | .srread _ o => decide (o.fn.toNat = 0)
  | .srset _ o => decide (o.fn.toNat = 1)
  | .srclr _ o => decide (o.fn.toNat = 2)
  | _ => true

/-- VCVT's fn: a source type of "all" and a part below the element ratio (R151, R154). -/
def cvtFnOk (o : OpV) : Bool :=
  let s : BitVec 4 := o.fn.extractLsb' 0 4
  let a := perLane s
  let b := perLane o.type
  let p := (o.fn.extractLsb' 4 2).toNat
  typeAll s && decide (p < if b ≥ a then b / a else a / b)

/-- VCMP's fn: a listed condition and a sub below the elements per lane (R151, R155). -/
def cmpFnOk (o : OpV) : Bool :=
  decide ((o.fn.extractLsb' 0 3).toNat ≤ 5) && decide ((o.fn.extractLsb' 3 2).toNat < perLane o.type)
    && !o.fn.getLsbD 5

/-- R61, check 1: the fn value is one the instruction's tables list, where it has an fn table (R73, R76 to R78). -/
def fnOk : Instr → Bool
  | .mulh _ o => decide (o.fn.toNat % 4 ≤ 1)
  | .div _ o => decide (o.fn.toNat % 4 ≤ 1)
  | .rem _ o => decide (o.fn.toNat % 4 ≤ 1)
  | .min _ o => decide (o.fn.toNat % 4 ≤ 1)
  | .max _ o => decide (o.fn.toNat % 4 ≤ 1)
  | .fset _ o => decide (o.fn.toNat ≤ 1)
  | .fadd _ o => decide (o.fn.toNat ≤ 1)
  | .frd _ o => decide (o.fn.toNat = 0)
  | .waitf _ o => decide (o.fn.toNat ≤ 3)
  | .self _ o => decide (o.fn.toNat ≤ 4)
  | .slpub _ o => decide (o.fn.toNat = 0)
  | .sltent _ o => decide (o.fn.toNat = 0)
  | .slcommit _ o => decide (o.fn.toNat = 0)
  | .slreject _ o => decide (o.fn.toNat = 0)
  | .slfork _ o => decide (o.fn.toNat = 0)
  | .sldrop _ o => decide (o.fn.toNat = 0)
  | .slquery _ o => decide (o.fn.toNat ≤ 8)
  | .dset _ o => decide (o.fn.toNat ≤ 24) || (decide (32 ≤ o.fn.toNat) && decide (o.fn.toNat ≤ 39))
  | .dget _ o => decide (o.fn.toNat ≤ 24) || (decide (32 ≤ o.fn.toNat) && decide (o.fn.toNat ≤ 39))
  | .edgerd _ o => decide (o.fn.toNat ≤ 3)
  | .vadd _ o => decide (o.fn.toNat ≤ 1)
  | .vsub _ o => decide (o.fn.toNat ≤ 1)
  | .vmul _ o => decide (o.fn.toNat ≤ 1)
  | .vabs _ o => decide (o.fn.toNat ≤ 1)
  | .vneg _ o => decide (o.fn.toNat ≤ 1)
  | .vcvt _ o => cvtFnOk o
  | .vcmp _ o => cmpFnOk o
  | .vshl _ o => decide (o.fn.toNat ≤ 1)
  | .vshr _ o => decide (o.fn.toNat ≤ 1)
  | .vsra _ o => decide (o.fn.toNat ≤ 1)
  | .vmov _ o => decide (o.fn.toNat ≤ 1)
  | .vred _ o => decide (o.fn.toNat ≤ 5)
  | .vscan _ o => decide (o.fn.toNat ≤ 2)
  | .kop _ o => decide (o.fn.toNat ≤ 4)
  | .vfma _ o => decide (o.fn.toNat = 0)
  | .vfms _ o => decide (o.fn.toNat = 0)
  | .vmin _ o => decide (o.fn.toNat = 0)
  | .vmax _ o => decide (o.fn.toNat = 0)
  | .vrcp _ o => decide (o.fn.toNat = 0)
  | .vrsqrt _ o => decide (o.fn.toNat = 0)
  | .vsqrt _ o => decide (o.fn.toNat = 0)
  | .vexp2 _ o => decide (o.fn.toNat = 0)
  | .vlog2 _ o => decide (o.fn.toNat = 0)
  | .vsel _ o => decide (o.fn.toNat = 0)
  | .vand _ o => decide (o.fn.toNat = 0)
  | .vor _ o => decide (o.fn.toNat = 0)
  | .vxor _ o => decide (o.fn.toNat = 0)
  | .vperm _ o => decide (o.fn.toNat = 0)
  | .vbcast _ o => decide (o.fn.toNat = 0)
  | .viota _ o => decide (o.fn.toNat = 0)
  | .vins _ o => decide (o.fn.toNat = 0)
  | .vext _ o => decide (o.fn.toNat = 0)
  | .kpopc _ o => decide (o.fn.toNat = 0)
  | .vld _ o => decide (o.fn.toNat = 0)
  | .vst _ o => decide (o.fn.toNat = 0)
  | .vldg _ o => decide (o.fn.toNat = 0)
  | .vsts _ o => decide (o.fn.toNat = 0)
  | .vshort _ o => decide (o.fn.toNat = 0)
  | .vrand _ o => decide (o.fn.toNat = 0)
  | .vtopk _ o => decide (o.fn.toNat = 0)
  | .vnop _ o => decide (o.fn.toNat = 0)
  | .epired _ o => decide (o.fn.toNat ≤ 3)
  | _ => true

/-- Format A (R48): width 1x is reserved. -/
def widthOk (w : BitVec 2) : Bool := decide (w.toNat ≤ 1)

/-- Sizes and amo codes of a memory form (R75, R218). -/
def sizeOk (o : OpM) (lo hi amo : Nat) : Bool :=
  decide (lo ≤ o.size.toNat) && decide (o.size.toNat ≤ hi) && decide (o.amo.toNat ≤ amo)

/-- Format V: the type is accepted and the rounding code is not reserved (R151, R169, R80). -/
def vecOk (acc : BitVec 4 → Bool) (o : OpV) : Bool := acc o.type && decide (o.rnd.toNat ≤ 4)

/-- A type field that the form does not use (R79). -/
def typeAny (_ : BitVec 4) : Bool := true

/-- F and I (R151). -/
def typeFI (t : BitVec 4) : Bool := typeF t || typeI t

/-- F and the signed integers (R151, VABS and VNEG). -/
def typeFS (t : BitVec 4) : Bool := typeF t || (decide (6 ≤ t.toNat) && decide (t.toNat ≤ 8))

/-- R61, check 2: no reserved code in a type, rnd, width, size, cond or amo field that the instruction uses, and no
type that it does not accept. -/
def fieldOk : Instr → Bool
  | .add _ o => widthOk o.width
  | .sub _ o => widthOk o.width
  | .mul _ o => widthOk o.width
  | .mulh _ o => widthOk o.width
  | .div _ o => widthOk o.width
  | .rem _ o => widthOk o.width
  | .and _ o => widthOk o.width
  | .or _ o => widthOk o.width
  | .xor _ o => widthOk o.width
  | .andn _ o => widthOk o.width
  | .shl _ o => widthOk o.width
  | .shr _ o => widthOk o.width
  | .sra _ o => widthOk o.width
  | .ror _ o => widthOk o.width
  | .min _ o => widthOk o.width
  | .max _ o => widthOk o.width
  | .clz _ o => widthOk o.width
  | .ctz _ o => widthOk o.width
  | .popc _ o => widthOk o.width
  | .brev _ o => widthOk o.width
  | .bswap _ o => widthOk o.width
  | .sel _ o => widthOk o.width
  | .setc _ o => widthOk o.width && decide (o.fn.toNat % 8 ≤ 6)
  | .cmp _ o => decide (o.cond.toNat ≤ 6)
  | .pand _ o => widthOk o.width
  | .por _ o => widthOk o.width
  | .pxor _ o => widthOk o.width
  | .pnot _ o => widthOk o.width
  | .addi _ o => widthOk o.sel
  | .shli _ o => widthOk o.sel
  | .shri _ o => widthOk o.sel
  | .srai _ o => widthOk o.sel
  | .li _ o => widthOk o.sel
  | .lih _ o => widthOk o.sel
  | .ld _ o => sizeOk o 0 4 1
  | .st _ o => sizeOk o 0 4 0
  | .amo _ o => sizeOk o 2 3 8
  | .cas _ o => sizeOk o 2 4 0
  | .amobnd _ o => sizeOk o 2 3 0
  | .br _ o => decide (o.cond.toNat ≤ 6)
  | .bp _ o => decide (o.cond.toNat ≤ 1)
  | .vadd _ o => vecOk typeFI o
  | .vsub _ o => vecOk typeFI o
  | .vmul _ o => vecOk typeFI o
  | .vfma _ o => vecOk typeF o
  | .vfms _ o => vecOk typeF o
  | .vmin _ o => vecOk typeFI o
  | .vmax _ o => vecOk typeFI o
  | .vabs _ o => vecOk typeFS o
  | .vneg _ o => vecOk typeFS o
  | .vrcp _ o => vecOk typeF o
  | .vrsqrt _ o => vecOk typeF o
  | .vsqrt _ o => vecOk typeF o
  | .vexp2 _ o => vecOk typeF o
  | .vlog2 _ o => vecOk typeF o
  | .vcvt _ o => vecOk typeAll o
  | .vcmp _ o => vecOk typeAll o
  | .vsel _ o => vecOk typeAny o
  | .vand _ o => vecOk typeAny o
  | .vor _ o => vecOk typeAny o
  | .vxor _ o => vecOk typeAny o
  | .vshl _ o => vecOk typeI o
  | .vshr _ o => vecOk typeI o
  | .vsra _ o => vecOk typeI o
  | .vmov _ o => vecOk (if o.fn.toNat = 1 then typeI else typeAll) o
  | .vred _ o => vecOk (if 3 ≤ o.fn.toNat then typeI else typeFI) o
  | .vscan _ o => vecOk typeFI o
  | .vperm _ o => vecOk typeAny o
  | .vbcast _ o => vecOk typeAll o
  | .viota _ o => vecOk typeI o
  | .vins _ o => vecOk typeAll o
  | .vext _ o => vecOk typeAll o
  | .kop _ o => vecOk typeAny o
  | .kpopc _ o => vecOk typeAny o
  | .vld _ o => vecOk typeAny o
  | .vst _ o => vecOk typeAny o
  | .vldg _ o => vecOk typeAny o
  | .vsts _ o => vecOk typeAny o
  | .vshort _ o => vecOk (fun t => decide (t.toNat ≤ 1)) o
  | .vrand _ o => vecOk (fun t => decide (t.toNat = 0) || decide (t.toNat = 9)) o
  | .vtopk _ o => vecOk (fun t => decide (t.toNat = 0) || decide (t.toNat = 6) || decide (t.toNat = 9)) o
  | .vnop _ o => vecOk typeAny o
  | .epi _ o => decide ((o.mods.extractLsb' 15 3).toNat ≤ 4)
  | .epired _ o => decide ((o.mods.extractLsb' 15 3).toNat ≤ 4)
  | .saq _ o => decide ((o.mods.extractLsb' 18 2).toNat ≤ 2)
  | _ => true

/-- A global core number (R9). -/
def coreOk (c : Nat) : Bool := decide (c < 160)

/-- An engine's queue number (R30). -/
def queueOk (q : Nat) : Bool := decide (q < 6)

/-- A function number (R338). -/
def funcOk (v : Nat) : Bool := decide (v < 64)

/-- An agent code of an engine or a channel (R310). -/
def agentOk (a : Nat) : Bool := (decide (1 ≤ a) && decide (a ≤ 6)) || (decide (8 ≤ a) && decide (a ≤ 15))

/-- The numbers an event names are within the machine: cores, queues, functions, links, ports and packages. -/
def eventOk : Instr → Bool
  | .bundleIssue c => coreOk c
  | .headerWait c => coreOk c
  | .commandIssue c q => coreOk c && queueOk q
  | .commandRetire c a => coreOk c && agentOk a
  | .tokenGiveGranted c q => coreOk c && queueOk q
  | .tokenDeadlock c => coreOk c
  | .windowFill c g => coreOk c && decide (g < 65536)
  | .windowWriteback c g => coreOk c && decide (g < 65536)
  | .operandFetch c p => coreOk c && decide (p < 9)
  | .streamFault c p => coreOk c && decide (p < 9)
  | .loadReturn c _ => coreOk c
  | .perform c => coreOk c
  | .deliver c t _ => coreOk c && decide (t < 4098)
  | .firing c q => coreOk c && queueOk q
  | .firingRetire c q => coreOk c && queueOk q
  | .trapEntry c _ => coreOk c
  | .asyncTrapTaken c => coreOk c
  | .waitfTimeout c => coreOk c
  | .waitRelease c => coreOk c
  | .wfiWake c => coreOk c
  | .doorbell q _ => decide (q < 1024)
  | .launch q => decide (q < 1024)
  | .fence q => decide (q < 1024)
  | .fenceEvaluate q => decide (q < 1024)
  | .signal q => decide (q < 1024)
  | .copy q => decide (q < 1024)
  | .mark q => decide (q < 1024)
  | .sqStateWrite q _ => decide (q < 1024)
  | .taskQueueEntryWrite v q _ => funcOk v && decide (q < 256)
  | .pop c => coreOk c
  | .contextRestore c => coreOk c
  | .preemption q => decide (q < 256)
  | .timeSlice c => coreOk c
  | .hardwareSave c => coreOk c
  | .spawnFull c => coreOk c
  | .spawnRetry c => coreOk c
  | .cancelSweep q => decide (q < 256)
  | .podCancel v _ => funcOk v
  | .cancelRunStop c => coreOk c
  | .tagRelease t => decide (t < 65536)
  | .podBarrierArrival _ x => decide (x.pkg < 4096)
  | .saqComplete c => coreOk c
  | .lauterMerge c r _ _ => coreOk c && decide (r < 64)
  | .stage2Fault c => coreOk c
  | .functionContextWrite v _ => funcOk v
  | .functionDisable v => funcOk v
  | .functionEnable v => funcOk v
  | .queueAssignment (.taskQueue n) v => decide (n < 256) && funcOk v
  | .queueAssignment (.subQueue n) v => decide (n < 1024) && funcOk v
  | .queueAssignment (.cxlMem _ _) v => funcOk v
  | .functionReset v => funcOk v
  | .farRequest r => decide (r.source < 4096)
  | .exportTableWrite v e _ => funcOk v && decide (e < 512)
  | .targetDown p => decide (p < 4096)
  | .targetUp p _ => decide (p < 4096)
  | .hostAccess a => decide (a.link < 2) && funcOk a.vf
  | .coreFailure c => coreOk c
  | .flitReplay p => decide (p < 24)
  | .portLaneLoss p _ => decide (p < 24)
  | .routeLossTimeout p => decide (p < 4096)
  | .coreFence c => coreOk c
  | .coreRelease c => coreOk c
  | .powerClamp c _ => coreOk c
  | .podTableWrite p _ _ r => decide (p < 4096) && decide (r < 24)
  | .preciseStopArm c _ => coreOk c
  | .preciseStop c => coreOk c
  | .preciseStopRelease c => coreOk c
  | .expanderFailure p => decide (p < 4)
  | .access c a _ _ => coreOk c && agentOk a
  | _ => true

/-- A well-formed instruction. -/
def wellFormed (i : Instr) : Bool := selOk i && fnOk i && fieldOk i && eventOk i

end Sys2Proof
end

