-- ==== Sys2Proof/Decode.lean ====
section
/-! DEFINITION. Decoding a slot word (R41 to R54, R61, R63, R70 to R81), total on all words and rejecting by name, and
the encoder written from the same tables. -/

namespace Sys2Proof

/-- Bits 63:56 (R46). -/
def opcodeOf (w : W64) : Nat := (w.extractLsb' 56 8).toNat

/-- Bits 55:47 (R46). -/
def frameOf (w : W64) : Frame :=
  { takeL := w.getLsbD 55, takeR := w.getLsbD 54, giveL := w.getLsbD 53, giveR := w.getLsbD 52,
    inst := w.getLsbD 51, pred := w.extractLsb' 48 3, pneg := w.getLsbD 47 }

/-- Bits 46:0 (R46). -/
def bodyOf (w : W64) : BitVec 47 := w.extractLsb' 0 47

/-- Format A (R48). -/
def opAOf (b : BitVec 47) : OpA :=
  { dst := b.extractLsb' 41 6, a := b.extractLsb' 35 6, b := b.extractLsb' 29 6, fn := b.extractLsb' 19 10,
    width := b.extractLsb' 17 2, rsv := b.extractLsb' 0 17 }

/-- Format I (R49, R74). -/
def opIOf (b : BitVec 47) : OpI :=
  { dst := b.extractLsb' 41 6, a := b.extractLsb' 35 6, sel := b.extractLsb' 33 2, lit := b.getLsbD 32,
    imm := b.extractLsb' 0 32 }

/-- Format C (R50). -/
def opCOf (b : BitVec 47) : OpC :=
  { cond := b.extractLsb' 44 3, a := b.extractLsb' 38 6, b := b.extractLsb' 32 6, disp := b.extractLsb' 0 32 }

/-- Format M (R51). -/
def opMOf (b : BitVec 47) : OpM :=
  { data := b.extractLsb' 41 6, base := b.extractLsb' 35 6, index := b.extractLsb' 29 6,
    scale := b.extractLsb' 27 2, size := b.extractLsb' 24 3, amo := b.extractLsb' 20 4, disp := b.extractLsb' 0 20 }

/-- Format V (R52). -/
def opVOf (b : BitVec 47) : OpV :=
  { vd := b.extractLsb' 42 5, va := b.extractLsb' 37 5, vb := b.extractLsb' 32 5, vc := b.extractLsb' 27 5,
    type := b.extractLsb' 23 4, rnd := b.extractLsb' 20 3, ovf := b.extractLsb' 18 2, fn := b.extractLsb' 12 6,
    imm := b.extractLsb' 0 12 }

/-- Format E (R53). -/
def opEOf (b : BitVec 47) : OpE :=
  { dA := b.extractLsb' 42 5, dB := b.extractLsb' 37 5, dC := b.extractLsb' 32 5, acc := b.extractLsb' 29 3,
    chan := b.extractLsb' 26 3, fn := b.extractLsb' 20 6, mods := b.extractLsb' 0 20 }

/-- Format Y (R54). -/
def opYOf (b : BitVec 47) : OpY :=
  { x := b.extractLsb' 41 6, y := b.extractLsb' 35 6, z := b.extractLsb' 29 6, fn := b.extractLsb' 20 9,
    imm := b.extractLsb' 0 20 }

/-- The instruction that the opcode and its selector name (R70, R73 to R77), before any other check; none for a
reserved opcode or a selector that the group does not list (R63). -/
def pick (w : W64) : Option Instr :=
  let f := frameOf w
  let b := bodyOf w
  match opcodeOf w with
  | 0x00 => some (.nop (w.extractLsb' 0 56))
  | 0x01 => some (.add f (opAOf b))
  | 0x02 => some (.sub f (opAOf b))
  | 0x03 => some (.mul f (opAOf b))
  | 0x04 => some (.mulh f (opAOf b))
  | 0x05 => some (.div f (opAOf b))
  | 0x06 => some (.rem f (opAOf b))
  | 0x07 => some (.and f (opAOf b))
  | 0x08 => some (.or f (opAOf b))
  | 0x09 => some (.xor f (opAOf b))
  | 0x0A => some (.andn f (opAOf b))
  | 0x0B => some (.shl f (opAOf b))
  | 0x0C => some (.shr f (opAOf b))
  | 0x0D => some (.sra f (opAOf b))
  | 0x0E => some (.ror f (opAOf b))
  | 0x0F => some (.min f (opAOf b))
  | 0x10 => some (.max f (opAOf b))
  | 0x11 =>
    let o := opAOf b
    if o.fn.toNat % 8 = 0 then some (.clz f o) else
    if o.fn.toNat % 8 = 1 then some (.ctz f o) else
    if o.fn.toNat % 8 = 2 then some (.popc f o) else
    if o.fn.toNat % 8 = 3 then some (.brev f o) else
    if o.fn.toNat % 8 = 4 then some (.bswap f o) else
    none
  | 0x12 => some (.sel f (opAOf b))
  | 0x13 => some (.setc f (opAOf b))
  | 0x14 => some (.cmp f (opCOf b))
  | 0x15 =>
    let o := opAOf b
    if o.fn.toNat % 4 = 0 then some (.pand f o) else
    if o.fn.toNat % 4 = 1 then some (.por f o) else
    if o.fn.toNat % 4 = 2 then some (.pxor f o) else
    if o.fn.toNat % 4 = 3 then some (.pnot f o) else
    none
  | 0x16 => some (.addi f (opIOf b))
  | 0x17 =>
    let o := opIOf b
    if o.sel.toNat = 0 then some (.andi f o) else
    if o.sel.toNat = 1 then some (.ori f o) else
    if o.sel.toNat = 2 then some (.xori f o) else
    none
  | 0x18 =>
    let o := opIOf b
    if o.imm.toNat / 256 % 4 = 0 then some (.shli f o) else
    if o.imm.toNat / 256 % 4 = 1 then some (.shri f o) else
    if o.imm.toNat / 256 % 4 = 2 then some (.srai f o) else
    none
  | 0x19 =>
    let o := opIOf b
    if o.a.toNat = 0 then some (.li f o) else
    if o.a.toNat = 1 then some (.lih f o) else
    none
  | 0x1A => some (.lea f (opMOf b))
  | 0x20 => some (.ld f (opMOf b))
  | 0x21 => some (.st f (opMOf b))
  | 0x22 => some (.amo f (opMOf b))
  | 0x23 => some (.cas f (opMOf b))
  | 0x24 => some (.amobnd f (opMOf b))
  | 0x25 => some (.pref f (opMOf b))
  | 0x26 => some (.ffence f (opYOf b))
  | 0x27 =>
    let o := opYOf b
    if o.fn.toNat = 0 then some (.drain f o) else
    if o.fn.toNat = 1 then some (.drainAll f o) else
    none
  | 0x28 => some (.ifence f (opYOf b))
  | 0x29 =>
    let o := opYOf b
    if o.fn.toNat = 0 then some (.biasflipHost f o) else
    if o.fn.toNat = 1 then some (.biasflipDev f o) else
    none
  | 0x30 => some (.br f (opCOf b))
  | 0x31 => some (.bp f (opCOf b))
  | 0x32 => some (.jmp f (opCOf b))
  | 0x34 => some (.call f (opCOf b))
  | 0x37 => some (.loop f (opCOf b))
  | 0x33 => some (.jmpr f (opYOf b))
  | 0x35 => some (.callr f (opYOf b))
  | 0x36 => some (.ret f (opYOf b))
  | 0x38 => some (.fset f (opYOf b))
  | 0x39 => some (.fadd f (opYOf b))
  | 0x3A => some (.frd f (opYOf b))
  | 0x3B =>
    let o := opYOf b
    if o.fn.toNat < 3 then some (.fbind f o) else
    if o.fn.toNat = 3 then some (.fbindNone f o) else
    none
  | 0x3C =>
    let o := opYOf b
    if o.fn.toNat = 0 then some (.barTeam f o) else
    if o.fn.toNat = 1 then some (.barDie f o) else
    if o.fn.toNat = 2 then some (.barPkg f o) else
    if o.fn.toNat = 3 then some (.barPod f o) else
    none
  | 0x3D => some (.rpop f (opYOf b))
  | 0x3E => some (.squash f (opYOf b))
  | 0x3F => some (.waitf f (opYOf b))
  | 0x40 =>
    let o := opYOf b
    if o.fn.toNat = 0 then some (.spawn f o) else
    if o.fn.toNat = 1 then some (.spawnNb f o) else
    none
  | 0x41 =>
    let o := opYOf b
    if o.fn.toNat = 0 then some (.finish f o) else
    if o.fn.toNat = 1 then some (.finishFail f o) else
    none
  | 0x42 => some (.yield f (opYOf b))
  | 0x43 => some (.joinadd f (opYOf b))
  | 0x44 =>
    let o := opYOf b
    if o.fn.toNat = 0 then some (.tagnew f o) else
    if o.fn.toNat = 1 then some (.tagnewRoot f o) else
    none
  | 0x45 =>
    let o := opYOf b
    if o.fn.toNat = 0 then some (.cancel f o) else
    if o.fn.toNat = 1 then some (.cancelWait f o) else
    none
  | 0x46 => some (.self f (opYOf b))
  | 0x47 =>
    let o := opYOf b
    if o.fn.toNat = 0 then some (.slopen f o) else
    if o.fn.toNat = 1 then some (.slopenFeed f o) else
    none
  | 0x48 => some (.slpub f (opYOf b))
  | 0x49 => some (.sltent f (opYOf b))
  | 0x4A => some (.slcommit f (opYOf b))
  | 0x4B => some (.slreject f (opYOf b))
  | 0x4C => some (.slfork f (opYOf b))
  | 0x4D => some (.sldrop f (opYOf b))
  | 0x4F => some (.slquery f (opYOf b))
  | 0x4E =>
    let o := opYOf b
    if o.fn.toNat = 0 then some (.revoke f o) else
    if o.fn.toNat = 1 then some (.resume f o) else
    if o.fn.toNat = 2 then some (.rskip f o) else
    if o.fn.toNat = 3 then some (.rpause f o) else
    if o.fn.toNat = 4 then some (.rquery f o) else
    none
  | 0x50 => some (.dld f (opYOf b))
  | 0x51 => some (.dst f (opYOf b))
  | 0x52 => some (.dset f (opYOf b))
  | 0x53 => some (.dget f (opYOf b))
  | 0x54 => some (.dadv f (opYOf b))
  | 0x55 =>
    let o := opYOf b
    if o.fn.toNat = 0 then some (.sflush f o) else
    if o.fn.toNat = 1 then some (.sflushUnmap f o) else
    none
  | 0x56 => some (.sdrop f (opYOf b))
  | 0x57 => some (.stepmark f (opYOf b))
  | 0x58 => some (.stepend f (opYOf b))
  | 0x59 => some (.edgerd f (opYOf b))
  | 0x60 => some (.vadd f (opVOf b))
  | 0x61 => some (.vsub f (opVOf b))
  | 0x62 => some (.vmul f (opVOf b))
  | 0x63 => some (.vfma f (opVOf b))
  | 0x64 => some (.vfms f (opVOf b))
  | 0x65 => some (.vmin f (opVOf b))
  | 0x66 => some (.vmax f (opVOf b))
  | 0x67 => some (.vabs f (opVOf b))
  | 0x68 => some (.vneg f (opVOf b))
  | 0x69 => some (.vrcp f (opVOf b))
  | 0x6A => some (.vrsqrt f (opVOf b))
  | 0x6B => some (.vsqrt f (opVOf b))
  | 0x6C => some (.vexp2 f (opVOf b))
  | 0x6D => some (.vlog2 f (opVOf b))
  | 0x6E => some (.vcvt f (opVOf b))
  | 0x6F => some (.vcmp f (opVOf b))
  | 0x70 => some (.vsel f (opVOf b))
  | 0x71 => some (.vand f (opVOf b))
  | 0x72 => some (.vor f (opVOf b))
  | 0x73 => some (.vxor f (opVOf b))
  | 0x74 => some (.vshl f (opVOf b))
  | 0x75 => some (.vshr f (opVOf b))
  | 0x76 => some (.vsra f (opVOf b))
  | 0x77 => some (.vmov f (opVOf b))
  | 0x78 => some (.vred f (opVOf b))
  | 0x79 => some (.vscan f (opVOf b))
  | 0x7A => some (.vperm f (opVOf b))
  | 0x7B => some (.vbcast f (opVOf b))
  | 0x7C => some (.viota f (opVOf b))
  | 0x7D => some (.vins f (opVOf b))
  | 0x7E => some (.vext f (opVOf b))
  | 0x7F => some (.kop f (opVOf b))
  | 0x80 => some (.kpopc f (opVOf b))
  | 0x81 => some (.vld f (opVOf b))
  | 0x82 => some (.vst f (opVOf b))
  | 0x83 => some (.vldg f (opVOf b))
  | 0x84 => some (.vsts f (opVOf b))
  | 0x85 => some (.vshort f (opVOf b))
  | 0x86 => some (.vrand f (opVOf b))
  | 0x87 => some (.vtopk f (opVOf b))
  | 0x88 => some (.vnop f (opVOf b))
  | 0xA0 => some (.mma f (opEOf b))
  | 0xA1 => some (.mzero f (opEOf b))
  | 0xA2 =>
    let o := opEOf b
    if o.fn.toNat = 0 then some (.mtbl f o) else
    if o.fn.toNat = 1 then some (.mtblProd f o) else
    none
  | 0xA8 => some (.epi f (opEOf b))
  | 0xA9 => some (.epired f (opEOf b))
  | 0xAA => some (.epifn f (opEOf b))
  | 0xB0 => some (.cpy f (opEOf b))
  | 0xB1 => some (.cpyg f (opEOf b))
  | 0xB2 => some (.cpys f (opEOf b))
  | 0xB3 => some (.cpyidx f (opEOf b))
  | 0xB4 => some (.cpyfill f (opEOf b))
  | 0xB5 => some (.cpymir f (opEOf b))
  | 0xB8 => some (.saq f (opEOf b))
  | 0xB9 => some (.samask f (opEOf b))
  | 0xBC => some (.srcfg f (opEOf b))
  | 0xBD =>
    let o := opEOf b
    if o.fn.toNat = 0 then some (.srabsReg f o) else
    if o.fn.toNat = 1 then some (.srabsDesc f o) else
    none
  | 0xBE =>
    let o := opEOf b
    if o.fn.toNat = 0 then some (.srmerge f o) else
    if o.fn.toNat = 1 then some (.srmergePair f o) else
    none
  | 0xBF =>
    let o := opEOf b
    if o.fn.toNat = 0 then some (.srread f o) else
    if o.fn.toNat = 1 then some (.srset f o) else
    if o.fn.toNat = 2 then some (.srclr f o) else
    none
  | 0xC0 => some (.trap f (opYOf b))
  | 0xC1 => some (.eret f (opYOf b))
  | 0xC2 => some (.crd f (opYOf b))
  | 0xC3 => some (.cwr f (opYOf b))
  | 0xC4 => some (.wfi f (opYOf b))
  | 0xC5 => some (.brk f (opYOf b))
  | 0xC6 => some (.ctxsave f (opYOf b))
  | 0xC7 => some (.ctxload f (opYOf b))
  | 0xC8 => some (.perfrd f (opYOf b))
  | _ => none

/-- Why a word is no instruction: its trap cause by name (R61). -/
inductive DecodeFault where
  | illegalOpcode
  | illegalField
deriving DecidableEq, Repr

/-- R61, checks 1 and 2 in their order: opcode and fn, then field codes. -/
def decode (w : W64) : Except DecodeFault Instr :=
  match pick w with
  | none => .error .illegalOpcode
  | some i =>
    if !fnOk i then .error .illegalOpcode
    else if !fieldOk i then .error .illegalField
    else .ok i

/-- The instruction read from the bits the opcode table numbers: the slot word itself, the bits above `nbits` zero. -/
def decodeTableWord (nbits w : Nat) : Option Instr :=
  if nbits ≤ 64 then
    match decode (BitVec.ofNat 64 (w % 2 ^ nbits)) with
    | .ok i => some i
    | .error _ => none
  else none

/-- Nine bits of the frame (R46). -/
def frameBits (f : Frame) : BitVec 9 :=
  BitVec.ofBool f.takeL ++ BitVec.ofBool f.takeR ++ BitVec.ofBool f.giveL ++ BitVec.ofBool f.giveR ++
    BitVec.ofBool f.inst ++ f.pred ++ BitVec.ofBool f.pneg

/-- A slot word from opcode, frame and body (R46). -/
def wordOf (op : BitVec 8) (f : Frame) (b : BitVec 47) : W64 := op ++ frameBits f ++ b

/-- Format A (R48). -/
def bodyA (o : OpA) : BitVec 47 := o.dst ++ o.a ++ o.b ++ o.fn ++ o.width ++ o.rsv

/-- Format I (R49). -/
def bodyI (o : OpI) : BitVec 47 := o.dst ++ o.a ++ o.sel ++ BitVec.ofBool o.lit ++ o.imm

/-- Format C (R50). -/
def bodyC (o : OpC) : BitVec 47 := o.cond ++ o.a ++ o.b ++ o.disp

/-- Format M (R51). -/
def bodyM (o : OpM) : BitVec 47 := o.data ++ o.base ++ o.index ++ o.scale ++ o.size ++ o.amo ++ o.disp

/-- Format V (R52). -/
def bodyV (o : OpV) : BitVec 47 :=
  o.vd ++ o.va ++ o.vb ++ o.vc ++ o.type ++ o.rnd ++ o.ovf ++ o.fn ++ o.imm

/-- Format E (R53). -/
def bodyE (o : OpE) : BitVec 47 := o.dA ++ o.dB ++ o.dC ++ o.acc ++ o.chan ++ o.fn ++ o.mods

/-- Format Y (R54). -/
def bodyY (o : OpY) : BitVec 47 := o.x ++ o.y ++ o.z ++ o.fn ++ o.imm

/-- The slot word of an instruction, from the encoding tables (R46 to R54, R70 to R78); an event has none. -/
def encode : Instr → Option W64
  | .nop raw => some ((0#8 ++ raw).cast rfl)
  | .add f o => some (wordOf 0x01 f (bodyA o))
  | .sub f o => some (wordOf 0x02 f (bodyA o))
  | .mul f o => some (wordOf 0x03 f (bodyA o))
  | .mulh f o => some (wordOf 0x04 f (bodyA o))
  | .div f o => some (wordOf 0x05 f (bodyA o))
  | .rem f o => some (wordOf 0x06 f (bodyA o))
  | .and f o => some (wordOf 0x07 f (bodyA o))
  | .or f o => some (wordOf 0x08 f (bodyA o))
  | .xor f o => some (wordOf 0x09 f (bodyA o))
  | .andn f o => some (wordOf 0x0A f (bodyA o))
  | .shl f o => some (wordOf 0x0B f (bodyA o))
  | .shr f o => some (wordOf 0x0C f (bodyA o))
  | .sra f o => some (wordOf 0x0D f (bodyA o))
  | .ror f o => some (wordOf 0x0E f (bodyA o))
  | .min f o => some (wordOf 0x0F f (bodyA o))
  | .max f o => some (wordOf 0x10 f (bodyA o))
  | .clz f o => some (wordOf 0x11 f (bodyA o))
  | .ctz f o => some (wordOf 0x11 f (bodyA o))
  | .popc f o => some (wordOf 0x11 f (bodyA o))
  | .brev f o => some (wordOf 0x11 f (bodyA o))
  | .bswap f o => some (wordOf 0x11 f (bodyA o))
  | .sel f o => some (wordOf 0x12 f (bodyA o))
  | .setc f o => some (wordOf 0x13 f (bodyA o))
  | .cmp f o => some (wordOf 0x14 f (bodyC o))
  | .pand f o => some (wordOf 0x15 f (bodyA o))
  | .por f o => some (wordOf 0x15 f (bodyA o))
  | .pxor f o => some (wordOf 0x15 f (bodyA o))
  | .pnot f o => some (wordOf 0x15 f (bodyA o))
  | .addi f o => some (wordOf 0x16 f (bodyI o))
  | .andi f o => some (wordOf 0x17 f (bodyI o))
  | .ori f o => some (wordOf 0x17 f (bodyI o))
  | .xori f o => some (wordOf 0x17 f (bodyI o))
  | .shli f o => some (wordOf 0x18 f (bodyI o))
  | .shri f o => some (wordOf 0x18 f (bodyI o))
  | .srai f o => some (wordOf 0x18 f (bodyI o))
  | .li f o => some (wordOf 0x19 f (bodyI o))
  | .lih f o => some (wordOf 0x19 f (bodyI o))
  | .lea f o => some (wordOf 0x1A f (bodyM o))
  | .ld f o => some (wordOf 0x20 f (bodyM o))
  | .st f o => some (wordOf 0x21 f (bodyM o))
  | .amo f o => some (wordOf 0x22 f (bodyM o))
  | .cas f o => some (wordOf 0x23 f (bodyM o))
  | .amobnd f o => some (wordOf 0x24 f (bodyM o))
  | .pref f o => some (wordOf 0x25 f (bodyM o))
  | .ffence f o => some (wordOf 0x26 f (bodyY o))
  | .drain f o => some (wordOf 0x27 f (bodyY o))
  | .drainAll f o => some (wordOf 0x27 f (bodyY o))
  | .ifence f o => some (wordOf 0x28 f (bodyY o))
  | .biasflipHost f o => some (wordOf 0x29 f (bodyY o))
  | .biasflipDev f o => some (wordOf 0x29 f (bodyY o))
  | .br f o => some (wordOf 0x30 f (bodyC o))
  | .bp f o => some (wordOf 0x31 f (bodyC o))
  | .jmp f o => some (wordOf 0x32 f (bodyC o))
  | .call f o => some (wordOf 0x34 f (bodyC o))
  | .loop f o => some (wordOf 0x37 f (bodyC o))
  | .jmpr f o => some (wordOf 0x33 f (bodyY o))
  | .callr f o => some (wordOf 0x35 f (bodyY o))
  | .ret f o => some (wordOf 0x36 f (bodyY o))
  | .fset f o => some (wordOf 0x38 f (bodyY o))
  | .fadd f o => some (wordOf 0x39 f (bodyY o))
  | .frd f o => some (wordOf 0x3A f (bodyY o))
  | .fbind f o => some (wordOf 0x3B f (bodyY o))
  | .fbindNone f o => some (wordOf 0x3B f (bodyY o))
  | .barTeam f o => some (wordOf 0x3C f (bodyY o))
  | .barDie f o => some (wordOf 0x3C f (bodyY o))
  | .barPkg f o => some (wordOf 0x3C f (bodyY o))
  | .barPod f o => some (wordOf 0x3C f (bodyY o))
  | .rpop f o => some (wordOf 0x3D f (bodyY o))
  | .squash f o => some (wordOf 0x3E f (bodyY o))
  | .waitf f o => some (wordOf 0x3F f (bodyY o))
  | .spawn f o => some (wordOf 0x40 f (bodyY o))
  | .spawnNb f o => some (wordOf 0x40 f (bodyY o))
  | .finish f o => some (wordOf 0x41 f (bodyY o))
  | .finishFail f o => some (wordOf 0x41 f (bodyY o))
  | .yield f o => some (wordOf 0x42 f (bodyY o))
  | .joinadd f o => some (wordOf 0x43 f (bodyY o))
  | .tagnew f o => some (wordOf 0x44 f (bodyY o))
  | .tagnewRoot f o => some (wordOf 0x44 f (bodyY o))
  | .cancel f o => some (wordOf 0x45 f (bodyY o))
  | .cancelWait f o => some (wordOf 0x45 f (bodyY o))
  | .self f o => some (wordOf 0x46 f (bodyY o))
  | .slopen f o => some (wordOf 0x47 f (bodyY o))
  | .slopenFeed f o => some (wordOf 0x47 f (bodyY o))
  | .slpub f o => some (wordOf 0x48 f (bodyY o))
  | .sltent f o => some (wordOf 0x49 f (bodyY o))
  | .slcommit f o => some (wordOf 0x4A f (bodyY o))
  | .slreject f o => some (wordOf 0x4B f (bodyY o))
  | .slfork f o => some (wordOf 0x4C f (bodyY o))
  | .sldrop f o => some (wordOf 0x4D f (bodyY o))
  | .slquery f o => some (wordOf 0x4F f (bodyY o))
  | .revoke f o => some (wordOf 0x4E f (bodyY o))
  | .resume f o => some (wordOf 0x4E f (bodyY o))
  | .rskip f o => some (wordOf 0x4E f (bodyY o))
  | .rpause f o => some (wordOf 0x4E f (bodyY o))
  | .rquery f o => some (wordOf 0x4E f (bodyY o))
  | .dld f o => some (wordOf 0x50 f (bodyY o))
  | .dst f o => some (wordOf 0x51 f (bodyY o))
  | .dset f o => some (wordOf 0x52 f (bodyY o))
  | .dget f o => some (wordOf 0x53 f (bodyY o))
  | .dadv f o => some (wordOf 0x54 f (bodyY o))
  | .sflush f o => some (wordOf 0x55 f (bodyY o))
  | .sflushUnmap f o => some (wordOf 0x55 f (bodyY o))
  | .sdrop f o => some (wordOf 0x56 f (bodyY o))
  | .stepmark f o => some (wordOf 0x57 f (bodyY o))
  | .stepend f o => some (wordOf 0x58 f (bodyY o))
  | .edgerd f o => some (wordOf 0x59 f (bodyY o))
  | .vadd f o => some (wordOf 0x60 f (bodyV o))
  | .vsub f o => some (wordOf 0x61 f (bodyV o))
  | .vmul f o => some (wordOf 0x62 f (bodyV o))
  | .vfma f o => some (wordOf 0x63 f (bodyV o))
  | .vfms f o => some (wordOf 0x64 f (bodyV o))
  | .vmin f o => some (wordOf 0x65 f (bodyV o))
  | .vmax f o => some (wordOf 0x66 f (bodyV o))
  | .vabs f o => some (wordOf 0x67 f (bodyV o))
  | .vneg f o => some (wordOf 0x68 f (bodyV o))
  | .vrcp f o => some (wordOf 0x69 f (bodyV o))
  | .vrsqrt f o => some (wordOf 0x6A f (bodyV o))
  | .vsqrt f o => some (wordOf 0x6B f (bodyV o))
  | .vexp2 f o => some (wordOf 0x6C f (bodyV o))
  | .vlog2 f o => some (wordOf 0x6D f (bodyV o))
  | .vcvt f o => some (wordOf 0x6E f (bodyV o))
  | .vcmp f o => some (wordOf 0x6F f (bodyV o))
  | .vsel f o => some (wordOf 0x70 f (bodyV o))
  | .vand f o => some (wordOf 0x71 f (bodyV o))
  | .vor f o => some (wordOf 0x72 f (bodyV o))
  | .vxor f o => some (wordOf 0x73 f (bodyV o))
  | .vshl f o => some (wordOf 0x74 f (bodyV o))
  | .vshr f o => some (wordOf 0x75 f (bodyV o))
  | .vsra f o => some (wordOf 0x76 f (bodyV o))
  | .vmov f o => some (wordOf 0x77 f (bodyV o))
  | .vred f o => some (wordOf 0x78 f (bodyV o))
  | .vscan f o => some (wordOf 0x79 f (bodyV o))
  | .vperm f o => some (wordOf 0x7A f (bodyV o))
  | .vbcast f o => some (wordOf 0x7B f (bodyV o))
  | .viota f o => some (wordOf 0x7C f (bodyV o))
  | .vins f o => some (wordOf 0x7D f (bodyV o))
  | .vext f o => some (wordOf 0x7E f (bodyV o))
  | .kop f o => some (wordOf 0x7F f (bodyV o))
  | .kpopc f o => some (wordOf 0x80 f (bodyV o))
  | .vld f o => some (wordOf 0x81 f (bodyV o))
  | .vst f o => some (wordOf 0x82 f (bodyV o))
  | .vldg f o => some (wordOf 0x83 f (bodyV o))
  | .vsts f o => some (wordOf 0x84 f (bodyV o))
  | .vshort f o => some (wordOf 0x85 f (bodyV o))
  | .vrand f o => some (wordOf 0x86 f (bodyV o))
  | .vtopk f o => some (wordOf 0x87 f (bodyV o))
  | .vnop f o => some (wordOf 0x88 f (bodyV o))
  | .mma f o => some (wordOf 0xA0 f (bodyE o))
  | .mzero f o => some (wordOf 0xA1 f (bodyE o))
  | .mtbl f o => some (wordOf 0xA2 f (bodyE o))
  | .mtblProd f o => some (wordOf 0xA2 f (bodyE o))
  | .epi f o => some (wordOf 0xA8 f (bodyE o))
  | .epired f o => some (wordOf 0xA9 f (bodyE o))
  | .epifn f o => some (wordOf 0xAA f (bodyE o))
  | .cpy f o => some (wordOf 0xB0 f (bodyE o))
  | .cpyg f o => some (wordOf 0xB1 f (bodyE o))
  | .cpys f o => some (wordOf 0xB2 f (bodyE o))
  | .cpyidx f o => some (wordOf 0xB3 f (bodyE o))
  | .cpyfill f o => some (wordOf 0xB4 f (bodyE o))
  | .cpymir f o => some (wordOf 0xB5 f (bodyE o))
  | .saq f o => some (wordOf 0xB8 f (bodyE o))
  | .samask f o => some (wordOf 0xB9 f (bodyE o))
  | .srcfg f o => some (wordOf 0xBC f (bodyE o))
  | .srabsReg f o => some (wordOf 0xBD f (bodyE o))
  | .srabsDesc f o => some (wordOf 0xBD f (bodyE o))
  | .srmerge f o => some (wordOf 0xBE f (bodyE o))
  | .srmergePair f o => some (wordOf 0xBE f (bodyE o))
  | .srread f o => some (wordOf 0xBF f (bodyE o))
  | .srset f o => some (wordOf 0xBF f (bodyE o))
  | .srclr f o => some (wordOf 0xBF f (bodyE o))
  | .trap f o => some (wordOf 0xC0 f (bodyY o))
  | .eret f o => some (wordOf 0xC1 f (bodyY o))
  | .crd f o => some (wordOf 0xC2 f (bodyY o))
  | .cwr f o => some (wordOf 0xC3 f (bodyY o))
  | .wfi f o => some (wordOf 0xC4 f (bodyY o))
  | .brk f o => some (wordOf 0xC5 f (bodyY o))
  | .ctxsave f o => some (wordOf 0xC6 f (bodyY o))
  | .ctxload f o => some (wordOf 0xC7 f (bodyY o))
  | .perfrd f o => some (wordOf 0xC8 f (bodyY o))
  | _ => none

end Sys2Proof
end

