-- ==== Sys2Proof/Machine/SMap.lean ====
section
/-! DEFINITION. A sparse map from natural numbers, as plain data: a list of keys and values in one canonical form
(keys strictly rising, no entry equal to what an unlisted key reads as). Memory and every register file are such maps. -/

namespace Sys2Proof.Machine

/-- Keys with the values that differ from the value an unlisted key reads as. -/
abbrev SMap (V : Type) := List (Nat × V)

/-- What key `k` reads as; `d` is the reading of an unlisted key. -/
def SMap.get {V : Type} (d : Nat → V) : SMap V → Nat → V
  | [], k => d k
  | (a, v) :: t, k => if a = k then v else SMap.get d t k

/-- The map with `k` listed as `v`, the keys kept rising. -/
def SMap.insert {V : Type} : SMap V → Nat → V → SMap V
  | [], k, v => [(k, v)]
  | (a, x) :: t, k, v =>
    if k < a then (k, v) :: (a, x) :: t
    else if k = a then (k, v) :: t
    else (a, x) :: SMap.insert t k v

/-- The map without `k`. -/
def SMap.erase {V : Type} : SMap V → Nat → SMap V
  | [], _ => []
  | (a, x) :: t, k => if a = k then SMap.erase t k else (a, x) :: SMap.erase t k

/-- Writing `v` at `k`: the entry goes when `v` is what an unlisted `k` reads as. -/
def SMap.set {V : Type} [DecidableEq V] (d : Nat → V) (m : SMap V) (k : Nat) (v : V) : SMap V :=
  if v = d k then SMap.erase m k else SMap.insert m k v

/-- Every listed key is at least `lo`, keys rise, and no entry is redundant. -/
def SMap.wfFrom {V : Type} [DecidableEq V] (d : Nat → V) : Nat → SMap V → Bool
  | _, [] => true
  | lo, (a, v) :: t => decide (lo ≤ a) && !(decide (v = d a)) && SMap.wfFrom d (a + 1) t

/-- The canonical form. -/
def SMap.wf {V : Type} [DecidableEq V] (d : Nat → V) (m : SMap V) : Bool := SMap.wfFrom d 0 m

/-- Writing several entries, in order. -/
def SMap.setAll {V : Type} [DecidableEq V] (d : Nat → V) (m : SMap V) (l : List (Nat × V)) : SMap V :=
  l.foldl (fun m e => SMap.set d m e.1 e.2) m

end Sys2Proof.Machine
end

