-- ==== Sys2Proof/Machine/Bits.lean ====
section
/-! DEFINITION. Bit fields, sign extension and byte order (R1, R2, R106). -/

namespace Sys2Proof.Machine

/-- Bits `lo` upwards of `x`, `w` of them: `x<lo+w-1:lo>` of R1. -/
abbrev bits {n : Nat} (x : BitVec n) (lo w : Nat) : BitVec w := x.extractLsb' lo w

/-- A field read as a natural number. -/
def field {n : Nat} (x : BitVec n) (lo w : Nat) : Nat := (x.extractLsb' lo w).toNat

/-- A field read as a signed number. -/
def sfield {n : Nat} (x : BitVec n) (lo w : Nat) : Int := (x.extractLsb' lo w).toInt

/-- One bit of R1. -/
def bit {n : Nat} (x : BitVec n) (i : Nat) : Bool := x.getLsbD i

/-- `x` with `w` bits from `lo` upwards replaced by the low bits of `v`. -/
def setField {n : Nat} (x : BitVec n) (lo w : Nat) (v : Nat) : BitVec n :=
  (x &&& ~~~(((BitVec.allOnes n) >>> (n - w)) <<< lo)) ||| (BitVec.ofNat n (v % 2 ^ w) <<< lo)

/-- `sign_extend` and `wrap` of R106, as one step on words. -/
def sx {n : Nat} (m : Nat) (x : BitVec n) : BitVec m := x.signExtend m

/-- An integer reduced to `w` bits: `wrap` of R106. -/
def wrap (w : Nat) (x : Int) : BitVec w := BitVec.ofInt w x

/-- `wrap(x, 55)` of a natural number plus a signed step: a virtual address (R136). -/
def va55 (base : Nat) (off : Int) : Nat := (((base : Int) + off) % (2 ^ 55 : Int)).toNat

/-- Byte `i` of a word, little-endian (R2). -/
def byteOf {n : Nat} (x : BitVec n) (i : Nat) : Byte := x.extractLsb' (8 * i) 8

/-- The `k` low bytes of a word, least significant first (R2). -/
def toBytes {n : Nat} (k : Nat) (x : BitVec n) : List Byte := (List.range k).map (byteOf x)

/-- The number whose bytes, least significant first, are listed (R2). -/
def natOfBytes : List Byte → Nat
  | [] => 0
  | b :: t => b.toNat + 256 * natOfBytes t

/-- The word whose bytes, least significant first, are listed. -/
def ofBytes (n : Nat) (l : List Byte) : BitVec n := BitVec.ofNat n (natOfBytes l)

/-- `ceil(a / b)`. -/
def ceilDiv (a b : Nat) : Nat := (a + b - 1) / b

/-- Element `i` of a list, with a value for an index beyond it. -/
def nth {α : Type} (d : α) (l : List α) (i : Nat) : α := l.getD i d

/-- The list with element `i` replaced. -/
def replaceAt {α : Type} (l : List α) (i : Nat) (x : α) : List α := l.set i x

/-- The list without element `i`. -/
def dropAt {α : Type} (l : List α) (i : Nat) : List α := l.eraseIdx i

/-- Saturating increment of a 32-bit count (R21, R186). -/
def satInc (w : Nat) (x : BitVec w) : BitVec w := if x = BitVec.allOnes w then x else x + 1

end Sys2Proof.Machine
end

