-- ==== Sys2Proof/Machine/State.lean ====
section
/-! DEFINITION. Everything the spec gives the machine, as plain data: the 160 cores with their registers, engines,
queues and rules, and the package's memory, tables and journals. Register files and memory are canonical sparse maps. -/

namespace Sys2Proof.Machine

open Sys2Proof

/-- Why the machine stops with a fault. -/
inductive Fault where
  /-- Raised by `step` when the package has no power and nothing is due: it does nothing more until power returns
  (R382). Safe: the hardware does not go on either. -/
  | noPower
  /-- Raised by `step` when the package has tripped at its thermal limit and nothing is due: it stops until a cold
  reset (R404). Safe: the hardware does not go on either. -/
  | tripped
deriving DecidableEq, Repr

/-- Why the model gives no meaning. -/
inductive Refusal where
  /-- Raised by `exec` for an instruction whose meaning is not written yet. Safe: nothing can be proved of it. -/
  | notModelled (mnemonic : String)
deriving DecidableEq, Repr

/-- A value with its poison mark (R100). -/
structure PV (n : Nat) where
  bits : BitVec n := 0
  poison : Bool := false
deriving DecidableEq, Repr

/-- Element data that a command has read. -/
structure Got where
  opnd : Nat := 0
  key : Nat := 0
  part : Nat := 0
  size : Nat := 0
  val : W64 := 0
  poison : Bool := false
deriving DecidableEq, Repr

/-- A queue-routed command as pushed (R28, R332, R366). -/
structure Cmd where
  word : W64 := 0
  lit : W32 := 0
  asid : Nat := 0
  gen : Nat := 0
  /-- Its predicate was false: takes and gives only. -/
  tokenOnly : Bool := false
  /-- Captured descriptors in the order of the fields that name them. -/
  descs : List W512 := []
  /-- Block bytes that the operand fetcher has read before its issue (R125). -/
  early : List Got := []
  /-- cr.shortmass captured at push (R165). -/
  shortmass : W32 := 0
  /-- The values its pusher held at the push (R313). -/
  sig : Sig := {}
  /-- Its place among the core's pushes, by which DRAIN and FFENCE know what came before them (R206, R208). -/
  seq : Nat := 0
deriving DecidableEq, Repr

/-- Where an access of an engine lies: a virtual address, a stash offset, a physical address of a held Frond page, or a
byte of a slice of an open tensor (its record named by its physical address). -/
inductive Space where
  | va
  | stash
  | pa
  | slice (ot : Nat) (s : Nat)
deriving DecidableEq, Repr

/-- One element, or the part of one, that an event touches: `key` names the element within its operand, `part` the
byte of the element at which the part begins, `nib` is 1 or 2 for the low or high nibble of a cb4 byte. -/
structure Elem where
  key : Nat := 0
  part : Nat := 0
  addr : Nat := 0
  size : Nat := 0
  nib : Nat := 0
  /-- The stash offset at which a window holds it. -/
  soff : Nat := 0
  val : W64 := 0
  poison : Bool := false
deriving DecidableEq, Repr

/-- One event still to be made: its elements lie in one 16-byte granule of one space (R200). -/
structure Item where
  opnd : Nat := 0
  port : Nat := 0
  space : Space := .va
  /-- The captured descriptor of the window that the access goes through. -/
  win : Option W512 := none
  elems : List Elem := []
  write : Bool := false
deriving DecidableEq, Repr

/-- A pending asynchronous trap (R353); `port` is set for a port's fault (R335). -/
structure PTrap where
  cause : BitVec 8 := 0
  eslot : BitVec 2 := 0
  einfo : W64 := 0
  port : Option Nat := none
deriving DecidableEq, Repr

/-- A partial attention triple of one query row (R175); `absent` stands for no slice read. -/
structure Triple where
  absent : Bool := true
  m : PV 32 := {}
  l : PV 32 := {}
  o : List (PV 32) := []
deriving DecidableEq, Repr

/-- A node of the Lauter tree that holds its triple (R176). -/
structure TreeNode where
  row : Nat := 0
  level : Nat := 0
  pos : Nat := 0
  tri : Triple := {}
deriving DecidableEq, Repr

/-- A page that took the place of a cut one (R278): slices from `k` on read as pad but for what of the page has been written
since, as ranges counted in nibbles. -/
structure FreshPage where
  page : Nat := 0
  k : Nat := 0
  written : List (Nat × Nat) := []
deriving DecidableEq, Repr

/-- A Frond page that a SAQ holds (R174, R178): of V or of K, its index in the tensor, its frame, the slices that
were readable when it was taken, and what of it was unwritten. -/
structure HeldPage where
  v : Bool := false
  page : Nat := 0
  frame : Nat := 0
  low : Nat := 0
  vis : Nat := 0
  fresh : List FreshPage := []
deriving DecidableEq, Repr

/-- An active command: an issued command, a standing-rule firing or a SAQ (R201). -/
structure Active where
  /-- Its number in its core, by which far answers find it. -/
  id : Nat := 0
  cmd : Cmd := {}
  /-- Phases of its operation already performed. -/
  stage : Nat := 0
  /-- The rule slot of a firing. -/
  rule : Option Nat := none
  /-- The slice of a firing, or the slice that an append claimed. -/
  slice : Nat := 0
  /-- The firing performs the writes of RSKIP (R308). -/
  skip : Bool := false
  /-- Events still to be made, reads and then writes. -/
  reads : List Item := []
  writes : List Item := []
  got : List Got := []
  /-- The operation itself has been performed. -/
  ran : Bool := false
  /-- Number of accesses made, and of those of an MMA through OPB (R335). -/
  count : Nat := 0
  count2 : Nat := 0
  /-- The fault at which its port is halted, and the other port's of an MMA (R335). -/
  halted : Option PTrap := none
  halted2 : Option PTrap := none
  /-- A stage-2 fault's address, level and cause while it is halted by one (R336). -/
  s2 : Bool := false
  /-- Gives not yet granted at retirement. -/
  giveL : Bool := false
  giveR : Bool := false
  /-- Every access performed and the gives presented: only refused gives keep it. -/
  retiring : Bool := false
  /-- Range of a SAQ (R174). -/
  lo : Nat := 0
  hi : Nat := 0
  /-- Frames of the pages it holds (R178, R270). -/
  holds : List Nat := []
  pages : List HeldPage := []
  /-- Of a SAQ's K and V: the record's physical address, slices per page and bytes per slice, as it issued (R174, R178). -/
  geo : List (Nat × Nat × Nat) := []
  tree : List TreeNode := []
  /-- Far accesses that it waits for. -/
  farOut : Nat := 0
  /-- Cycles for which a firing of CPYIDX has waited on an empty RQ (R310). -/
  waited : Nat := 0
  /-- Issue position, and a VNOP's positions still to issue, for VXQ (R143, R358). -/
  pos : Nat := 0
  pend : Nat := 0
  /-- RQ entries due at its retirement (R33). -/
  rq : List (PV 64) := []
  /-- Publishes due at its retirement: record and slice (R269). -/
  pubs : List (Nat × Nat) := []
  /-- Traps that become pending at its retirement. -/
  traps : List PTrap := []
  /-- Elements that took the SAT value under TRAP, and whether one was a division by zero (R90, R352). -/
  fpN : Nat := 0
  fpDz : Bool := false
  /-- Bytes it has written not poisoned since its last poisoned write, per granule of memory (R385). -/
  clean : List (Nat × List Nat) := []
  /-- The rejection of its slice makes its publish void (R285). -/
  void : Bool := false
  /-- A copy's claim is made, or it has none to make (R232). -/
  begun : Bool := false
  /-- An append or a SAQ with pub: its written open descriptor stands on the one slice that it claimed (R177, R232). -/
  appending : Bool := false
deriving DecidableEq, Repr

/-- A vector result in flight (R144, R358): the lanes written, the position before which it lands, and its values.
`mask` marks a destination kN, whose bits stand in `bits`. -/
structure VRec where
  mask : Bool := false
  reg : Nat := 0
  lanes : W64 := 0
  due : Nat := 0
  vals : List (PV 32) := []
  bits : W64 := 0
  /-- Its lanes stay undefined until rewritten (R145). -/
  stuck : Bool := false
  /-- Its command has retired, so that the result stands in the register for other engines (R147, R193). -/
  landed : Bool := false
  /-- It stands in its register for the vector engine, and its command has still to retire (R359). -/
  stood : Bool := false
  /-- The command that made it. -/
  id : Nat := 0
deriving DecidableEq, Repr

/-- One of the six engines with its FIFO (R29). -/
structure Engine where
  queue : List Cmd := []
  active : List Active := []
  /-- Firings taken in a row (R283). -/
  streak : Nat := 0
  /-- SAQs abandoned at a trap entry, to be issued again first (R180). -/
  again : List Active := []
  /-- Cycles for which its head has been held on a refused take or an empty RQ (R310), and the FIFOs that refused; 12
  stands for the RQ. -/
  waited : Nat := 0
  refused : List Nat := []
deriving DecidableEq, Repr

/-- State of a rule slot (R281, codes of R309). -/
inductive RuleSt where
  | free | armed | firing | faulted | paused | revoked
deriving DecidableEq, Repr

/-- A request that waits for the firing in progress (R423). -/
inductive RulePend where
  | none | pause | revoke
deriving DecidableEq, Repr

/-- A standing rule (R280, R365). -/
structure Rule where
  st : RuleSt := .free
  cmd : Cmd := {}
  /-- Virtual and physical address of the source record. -/
  src : Nat := 0
  srcPa : Nat := 0
  cursor : Nat := 0
  cause : BitVec 8 := 0
  seq : Nat := 0
  /-- Virtual and physical address of the fed record (R284). -/
  feed : Option (Nat × Nat) := none
  fired : Bool := false
  last : Nat := 0
  revokeAt : Option Nat := none
  pend : RulePend := .none
  /-- An RSKIP is to be performed as its next firing: of this slice, and with its publish void once a rejection has reached
  that slice (R308). -/
  skip : Bool := false
  skipAt : Nat := 0
  skipVoid : Bool := false
  /-- Values of the RESUME or rejection that re-armed it below the limit (R313). -/
  rearm : Option Sig := none
deriving DecidableEq, Repr

/-- Poison map entry (R385). -/
structure Pz where
  poison : Bool := false
  media : Bool := false
deriving DecidableEq, Repr

/-- A dirty granule of a window: the physical granule it backs and the bytes memory holds (R35, R119). -/
structure Dirty where
  off : Nat := 0
  pa : Nat := 0
  old : W512 := 0
  oldPz : Pz := {}
deriving DecidableEq, Repr

/-- An entry of the window map (R114). -/
structure Win where
  /-- The descriptor whose mapping fields it holds. -/
  desc : W512 := 0
  asid : Nat := 0
  /-- The rule whose window it is and the slice it stands on (R270, R418). -/
  rule : Option Nat := none
  slice : Nat := 0
  /-- Stash granules filled. -/
  filled : List Nat := []
  dirty : List Dirty := []
deriving DecidableEq, Repr

/-- What a scalar access does at its event (R221 to R224, R116). -/
inductive AccKind where
  | ld (signed : Bool)
  | st
  | amo (op : BitVec 4)
  | cas
  | bnd
  | dld
  | dst
deriving DecidableEq, Repr

/-- A scalar access in the program buffer: `dst` is its register, `x` and `y` its data operands, `done` the bytes
already performed and `acc` the bytes returned so far. -/
structure Access where
  kind : AccKind := .st
  ea : Nat := 0
  size : Nat := 0
  dst : Nat := 0
  x : W512 := 0
  y : BitVec 128 := 0
  done : Nat := 0
  acc : List Byte := []
  poison : Bool := false
  poisonAt : Nat := 0
  /-- A part of it is on its way in a far queue, and the rest waits for it at the head of the buffer (R200). -/
  out : Bool := false
deriving DecidableEq, Repr

/-- The slice operations of R306. -/
inductive SlOp where
  | open | openFeed (slot : Nat) | pub | tent | commit | reject | fork | drop | query (field : Nat)
deriving DecidableEq, Repr

/-- An entry of the program buffer (R201): an access, a push, a wait, a fence, or an event of the instructions that
chapters 13 to 18 place there. -/
inductive Ev where
  | access (a : Access)
  | push (q : Nat) (cmd : Cmd)
  | fset (n : Nat) (v : W32)
  | fadd (n : Nat) (v : W32)
  | frd (n dst : Nat)
  | fbind (n kind va : Nat)
  | waitf (n cond : Nat) (v : W32) (timeout : Option Nat) (dst : Nat) (elapsed : Nat)
  | drain (chan : Option Nat)
  | ffence (dst : Nat) (mark : Option Nat)
  | ifence
  | biasflip (host : Bool) (ea : Nat)
  | bar (level ea dst : Nat) (arrived : Option Nat) (block : List Byte)
  | squash (gen : Nat)
  | spawn (nb : Bool) (ea q dst : Nat) (img : List Byte) (poison : Bool) (full : Option Nat)
  | joinadd (ea n : Nat)
  | tagnew (root : Bool) (parent : Nat) (group : W32) (dst : Nat)
  | cancel (wait : Bool) (tag : Nat) (done : Option (List Nat))
  | slice (op : SlOp) (ot z dst : Nat)
  | sflush (unmap : Bool) (d : W512)
  | sdrop (d : W512) (off : Option Nat)
  | stepmark (v : W64)
  | stepend (ea dst : Nat) (rep : Option (BitVec 256))
  | edgerd (word : Nat) (ref : W64) (dst st : Nat) (got : List W64)
  | wfi
  | yield
  | finish (fail : Bool)
  | ctxsave (ea : Nat) (img : Option (Nat × List Host.Cell)) (done : Nat)
  | ctxload (ea : Nat) (img : List Host.Cell) (done : Nat)
deriving DecidableEq, Repr

/-- A program buffer entry with the slot that made it. -/
structure BufItem where
  slot : Nat := 0
  word : W64 := 0
  ev : Ev := .ifence
  asid : Nat := 0
  /-- Issue of the next bundle waits until it leaves the buffer. -/
  holds : Bool := false
  /-- Registers that a higher slot of its bundle also writes, scalars by number and descriptors from 64 on: their values
  are discarded when they land (R58). -/
  dead : List Nat := []
  /-- It has been tried and waits, and the cycles for which it has waited. -/
  began : Bool := false
  waited : Nat := 0
  /-- The last command pushed or begun, or firing begun, and the number of far accesses forwarded, when it was first tried (R119,
  R206, R208, R262). -/
  mark : Nat := 0
  farMark : Nat := 0
  /-- It was issued at supervisor level, and how many traps deep. -/
  sup : Bool := false
  depth : Nat := 0
deriving DecidableEq, Repr

/-- Which register a returning value is written to. -/
inductive Dest where
  | s (n : Nat)
  | pair (n : Nat)
  | d (n : Nat)
deriving DecidableEq, Repr

/-- A value on its way to a register: it is written as a load writes (R221). -/
structure Ret where
  dest : Dest := .s 0
  val : W512 := 0
  /-- Registers whose value is discarded (R58). -/
  dead : List Nat := []
  /-- The trap taken in place of the write (R220). -/
  trap : Option PTrap := none
deriving DecidableEq, Repr

/-- A pop not yet completed (R296). -/
structure Pop where
  dst : Nat := 0
  dead : Bool := false
  /-- How many traps deep its RPOP was issued: it completes at that depth alone (R296). -/
  depth : Nat := 0
  /-- Its slot while its bundle is in issue (R58). -/
  slot : Nat := 0
deriving DecidableEq, Repr

/-- An entry of the reply queue with the values of its pusher (R33, R312). -/
structure RqEntry where
  val : PV 64 := {}
  sig : Sig := {}
  /-- The cycle in which AXQ pushed it: what VXQ pushes in that cycle goes before it. -/
  axq : Option Nat := none
deriving DecidableEq, Repr

/-- Who waits for a far access. -/
inductive FarWho where
  /-- The control core, with the entry of the program buffer that it left. -/
  | core (b : BufItem) (a : Access)
  /-- An engine (agent code 1 to 6) or a channel (8 to 15). -/
  | agent (a id : Nat) (item : Item)
  /-- The record image of the SPAWN, or a granule of the CTXLOAD's area, at the head of the buffer. -/
  | image
  /-- The base die's fetch of a mirrored page (R389), or an edge or report word that nobody waits for. -/
  | none
deriving DecidableEq, Repr

/-- An access in a far queue (R208). -/
structure FarItem where
  seq : Nat := 0
  pa : Nat := 0
  va : Nat := 0
  size : Nat := 0
  write : Bool := false
  atomic : Bool := false
  data : W512 := 0
  /-- The bytes of a write that it touches, counted from its first (R200). -/
  mask : W64 := BitVec.allOnes 64
  /-- Where it goes on, in the same queue, once it has crossed into another page (R200). -/
  cross : Option Nat := none
  poison : Bool := false
  inc : W32 := 0
  /-- What the request carries of its source: the package, the function and its tenant key (R342, R345). -/
  src : Nat := 0
  vf : Nat := 0
  tkey : W32 := 0
  /-- The values of the signal that it is, if it writes a flag or arrives at a barrier (R312). -/
  sig : Sig := {}
  who : FarWho := .none
deriving DecidableEq, Repr

/-- The registers the control core reads and writes (R15, R21): s, p and d files and the control registers. -/
structure Cr where
  status : W64 := 0
  cause : W64 := 0
  epc : W64 := 0
  eslot : W64 := 0
  einfo : W64 := 0
  tvec : W64 := 0
  save : W64 := 0
  warn : W64 := 0
  warncount : W64 := 0
  asid : W64 := 0
  shortmass : W64 := 0x3F733333
  spawnwait : W64 := 65536
  step : W64 := 0
  edgebase : W64 := 0
  farlost : W64 := 0
deriving DecidableEq, Repr

/-- Scalars, predicates, descriptors and control registers. -/
structure Regs where
  s : SMap W64 := []
  p : SMap Bool := []
  d : SMap W512 := []
  cr : Cr := {}
deriving DecidableEq, Repr

/-- A flag binding (R286): `kind` 0 none, 1 C, 2 P, 3 T, in the codes of R364; the record's virtual and physical
address. -/
structure Bind where
  kind : Nat := 0
  va : Nat := 0
  pa : Nat := 0
deriving DecidableEq, Repr

/-- The Sorus bank (R182): valid bits, counts and reciprocals per entry, sums at 256 × entry + dimension. -/
structure Sorus where
  valid : SMap Bool := []
  count : SMap W32 := []
  rcp : SMap W32 := []
  sum : SMap (PV 32) := []
  dim : Nat := 256
  ndot : Bool := false
  radius : W32 := 0
  cap : Nat := 256
  policy : Nat := 0
  drops : W32 := 0
deriving DecidableEq, Repr

/-- Register state of the engines (R15): lanes at 64 × register + lane, accumulators at 8192 × tile + 64 × i + j,
tables at 16 × table + entry, product table at 16 × a + b. -/
structure EngRegs where
  v : SMap (PV 32) := []
  k : SMap W64 := []
  acc : SMap (PV 32) := []
  tb : SMap (PV 16) := []
  prod : SMap (PV 64) := []
  act : SMap (PV 32) := []
  mask : SMap W64 := []
  sorus : Sorus := {}
deriving DecidableEq, Repr

/-- Where a core stands (R40). -/
inductive Phase where
  | idle
  /-- A record with a saved context has been popped (R371). -/
  | starting
  | running
  /-- FINISH has issued: the step at which it stands, whether it completes as FAILED, and its bundle's address. -/
  | finishing (step : Nat) (fail : Bool) (pc : Nat)
deriving DecidableEq, Repr

/-- The record that a core runs (R246, R395). -/
structure RunRec where
  record : W512 := 0
  queue : Nat := 0
  index : Nat := 0
  vf : Nat := 0
deriving DecidableEq, Repr

/-- Why a run is to be saved (R369, R352): codes 1, 2 and 3 of PREEMPT, a stage-2 hold and a disabled function. -/
inductive SaveReason where
  | preempt | slice | yield | stage2 | disable
deriving DecidableEq, Repr

/-- A stage-2 fault that holds a run (R336). -/
structure S2Fault where
  port : Nat := 0
  cause : BitVec 8 := 0
  /-- The level of the stage-2 entry that failed (R334). -/
  level : Nat := 0
  ipa : Nat := 0
  va : Nat := 0
  /-- The handle under which the PF answers, once it is reported. -/
  handle : Nat := 0
  /-- The answer 0 or 1 that came before the run was saved. -/
  answer : Option Nat := none
deriving DecidableEq, Repr

/-- What holds the bundle at issue (R310, R354). -/
inductive Stall where
  | none
  | header
  | queue (q : Nat)
  /-- The destinations of pops that the bundle reads. -/
  | rq (regs : List Nat)
  | other
  /-- It is to trap as it issues, once what R355 waits for is done. -/
  | trap
deriving DecidableEq, Repr

/-- Phase of a journal slot (R395). -/
inductive JPhase where
  | empty | running | done
deriving DecidableEq, Repr

/-- A journal slot (R395). -/
structure Journal where
  record : W512 := 0
  phase : JPhase := .empty
  queue : Nat := 0
  index : Nat := 0
  stamp : W64 := 0
deriving DecidableEq, Repr

/-- Path value and latest-edge reference of an agent (R311); a zero reference is none. -/
structure PathRef where
  path : Nat := 0
  ref : W64 := 0
deriving DecidableEq, Repr

/-- One core. -/
structure Core where
  regs : Regs := {}
  eng : EngRegs := {}
  pc : Nat := 0
  stage : Nat := 0
  phase : Phase := .idle
  run : RunRec := {}
  /-- The core holds a run's context (R357, R379). -/
  held : Bool := false
  prevVf : Option Nat := none
  -- flags
  f : SMap (PV 32) := []
  fsig : SMap Sig := []
  binds : SMap Bind := []
  -- rules and windows
  rules : SMap Rule := []
  installSeq : Nat := 0
  wins : List Win := []
  stash : SMap Byte := []
  stashPoison : SMap Bool := []
  stashMedia : SMap Bool := []
  -- queues and engines
  rq : List RqEntry := []
  pops : List Pop := []
  /-- Barrier releases that arrived while the run was away: slot, status and values (R371). -/
  owed : List (Nat × Nat × Sig) := []
  tokens : SMap (List Sig) := []
  engines : SMap Engine := []
  chans : SMap (List Active) := []
  actSeq : Nat := 0
  vpos : Nat := 0
  flight : List VRec := []
  -- program buffer
  buf : List BufItem := []
  /-- Waits that stand in the run's context while a handler runs (R354). -/
  parked : List BufItem := []
  rets : List Ret := []
  far : SMap (List FarItem) := []
  farSeq : Nat := 0
  farLost : Bool := false
  icache : SMap (Option (BitVec 256)) := []
  /-- The writes that its last IFENCE came after (R210). -/
  fenceTick : Nat := 0
  l1x : SMap Bool := []
  -- waits, edges and time
  /-- The bundle whose header wait has been satisfied. -/
  hdrOk : Option Nat := none
  stall : Stall := .none
  waited : Nat := 0
  paths : SMap PathRef := []
  qsig : SMap Sig := []
  chsig : SMap Sig := []
  chLast : Nat := 0
  popSig : Sig := {}
  /-- Its stamp on receipt of that entry (R317). -/
  popStamp : W64 := 0
  edgeSeq : Nat := 1
  hlc : W64 := 0
  counters : SMap W64 := []
  /-- Its 48-bit logical time (R214). -/
  ltime : Nat := 0
  deadlock : Nat := 0
  stop : Option Nat := none
  frozen : Bool := false
  -- traps and saves
  wake : Bool := false
  ptraps : List PTrap := []
  /-- Of the pending traps, the oldest that were pending when the last trap was taken: they wait for its ERET (R353). -/
  trapHold : Nat := 0
  /-- Those counts of the traps that the last one interrupted, the innermost first. -/
  holdStack : List Nat := []
  /-- At supervisor level, the traps taken whose ERET is still due. -/
  depth : Nat := 0
  stepDue : Option Nat := none
  save : Option SaveReason := none
  /-- The queue whose pre-emption decided the last save (R372). -/
  preemptBy : Nat := 0
  /-- Handles of contexts that this run's supervisor has saved and that none has loaded. -/
  outRests : List Nat := []
  s2fault : Option S2Fault := none
  cancelled : Bool := false
  drained : Bool := false
  /-- A function reset has asked for cr.farlost to be cleared before the next run (R341). -/
  farClear : Bool := false
  -- scheduling and recovery
  rr : SMap Nat := []
  journal : Journal := {}
  fenced : Bool := false
  clamp : Nat := 0
  sliceTime : Nat := 0
deriving DecidableEq, Repr

/-- A publish of a retired append that waits for an earlier claim (R269): its slice, its core and its values. -/
structure LatePub where
  slice : Nat := 0
  core : Nat := 0
  sig : Sig := {}
deriving DecidableEq, Repr

/-- The authoritative fields of an open tensor record (R266, R267); `st` 0 FREE, 1 LIVE, 2 RELEASING. -/
structure OT where
  st : Nat := 0
  root : Nat := 0
  depth : Nat := 1
  c : Nat := 0
  p : Nat := 0
  t : Nat := 0
  q : Nat := 0
  window : Nat := 0
  slicebytes : Nat := 0
  spp : Nat := 0
  type : Nat := 0
  sdim0 : Nat := 0
  sdim1 : Nat := 0
  sdim2 : Nat := 0
  owner : Nat := 0
  vf : Nat := 0
  mirrored : Bool := false
  /-- The feeding core and rule slot. -/
  feed : Option (Nat × Nat) := none
  mirror : Nat := 0
  mslots : Nat := 0
  mcursor : Nat := 0
  pages : Nat := 0
  holdlow : Nat := 0
  nrules : Nat := 0
  /-- Slices claimed by appends with pub that have not yet published, oldest first (R269). -/
  claims : List Nat := []
  /-- Publishes of retired appends that wait for an earlier claim (R269). -/
  late : List LatePub := []
  /-- Pages with M set and the slice at which each was cut (R278). -/
  cuts : List (Nat × Nat) := []
  fresh : List FreshPage := []
  /-- F of R284, for a fed tensor: one past the highest slice retired by its rule. -/
  filled : Nat := 0
  /-- Values of the last events that raised C and T (R312). -/
  csig : Sig := {}
  psig : Sig := {}
  tsig : Sig := {}
  /-- The events that raised C and T, oldest first: the counter's new value and the values carried (R313). -/
  clog : List (Nat × Sig) := []
  tlog : List (Nat × Sig) := []
deriving DecidableEq, Repr

/-- A branch tag (R256). -/
structure Tag where
  live : Bool := false
  cancelling : Bool := false
  parent : Option Nat := none
  depth : Nat := 0
  group : W32 := 0
  vf : Nat := 0
deriving DecidableEq, Repr

/-- A record that a queue holds for one core alone, before its head (R371). -/
structure HeldFor where
  core : Nat := 0
  record : W512 := 0
deriving DecidableEq, Repr

/-- A task queue (R248) with the values its records carry (R312), keyed by index. -/
structure TaskQ where
  vf : Option Nat := none
  ring : Nat := 0
  lgsize : Nat := 0
  prio : Nat := 0
  enabled : Bool := false
  preempt : Bool := false
  stagemask : BitVec 16 := 0
  coremask : BitVec 160 := 0
  head : Nat := 0
  tail : Nat := 0
  passed : Nat := 0
  sigs : SMap (Option Sig) := []
  heldFor : List HeldFor := []
deriving DecidableEq, Repr

/-- State of a submission queue (R240). -/
inductive SqState where
  | stopped | run | wait | error
deriving DecidableEq, Repr

/-- A submission queue with the progress of the packet at consumed (R240, R400). -/
structure SubQ where
  vf : Option Nat := none
  ring : Nat := 0
  lgsize : Nat := 4
  st : SqState := .stopped
  err : Nat := 0
  consumed : Nat := 0
  tail : Nat := 0
  vector : Nat := 0
  /-- The packet at consumed, once it has been parsed. -/
  pkt : Option W512 := none
  /-- Root records of the LAUNCH already enqueued. -/
  nextI : Nat := 0
  /-- Bytes of the COPY already written. -/
  copied : Nat := 0
  /-- Bytes of the COPY written in a row with data that are not poisoned (R385). -/
  good : Nat := 0
  /-- The condition table of the FENCE, once read. -/
  conds : Option (List (BitVec 128)) := none
deriving DecidableEq, Repr

/-- Why a record stands outside every queue (R336, R339). -/
inductive HeldWhy where
  | stage2 (f : S2Fault)
  | disabled
  | requeue
deriving DecidableEq, Repr

/-- A saved run whose record stands outside every queue; its place is its handle. -/
structure HeldRun where
  record : W512 := 0
  queue : Nat := 0
  vf : Nat := 0
  why : HeldWhy := .requeue
  /-- Requeue at the head, or at the tail. -/
  front : Bool := true
  /-- The core for which it is held (R371). -/
  core : Option Nat := none
  handle : Nat := 0
deriving DecidableEq, Repr

/-- A barrier in progress (R260 to R263). -/
structure Barrier where
  pa : Nat := 0
  group : W32 := 0
  level : Nat := 0
  vf : Nat := 0
  pmask : BitVec 160 := 0
  npkg : Nat := 0
  arrived : List Nat := []
  /-- Packages of the pod that have arrived; its own `vf` is that of the first local arrival. -/
  pods : List Nat := []
  broken : Bool := false
  /-- Arrivals after it broke. -/
  late : List Nat := []
  sig : Sig := {}
  slot : Nat := 0
deriving DecidableEq, Repr

/-- What this package sends to the others of its pod: a cancellation of a pod group (R257) and its own arrival at a pod
barrier (R261, R312). -/
inductive PodMsg where
  | cancel (vf : Nat) (group : W32)
  | arrive (group : W32) (g : Sig)
deriving DecidableEq, Repr

/-- A completion whose continuation waits for room in its queue (R254): the join block, its function and the
values the enqueue carries. -/
structure Cont where
  record : W512 := 0
  queue : Nat := 0
  vf : Nat := 0
  sig : Sig := {}
  /-- The core whose FINISH waits for it. -/
  core : Option Nat := none
deriving DecidableEq, Repr

/-- A mirror link of a pool page (R389): the far physical address of its first slice and the target's incarnation. -/
structure PageLink where
  pa : Nat := 0
  inc : W32 := 0
deriving DecidableEq, Repr

/-- A pod table entry (R342). -/
structure PodEntry where
  up : Bool := false
  inc : W32 := 0
deriving DecidableEq, Repr

/-- A Gwynlink port (R394). -/
structure Port where
  lanes : Nat := 8
  failed : Bool := false
deriving DecidableEq, Repr

/-- What the machine keeps of a saved context beside its area, under the hold handle of R366 (assumption 21): the
commands in progress of its engines and channels (R335, R351), the vector lanes left undefined (R145), its rules with
the holds of a firing that is to fire again, its abandoned SAQs with their holds (R178, R368), the instructions that
wait (R354), releases that arrived while it was away (R371), its pending traps (R353), and the values that its signals
carry (R312). -/
structure CtxRest where
  core : Nat := 0
  /-- Where its area stands, by its first byte, and the stamp that the area holds: by these a load finds it. -/
  place : Nat := 0
  stamp : W64 := 0
  engines : SMap (List Active) := []
  chans : SMap (List Active) := []
  /-- Block bytes that the operand fetcher has read for the commands that wait in MXQ (R125). -/
  early : List (List Got) := []
  saqs : List Active := []
  vrecs : List VRec := []
  stuck : List VRec := []
  rules : SMap Rule := []
  holds : List Nat := []
  winAsids : List Nat := []
  /-- The descriptors of its windows, whose oaxis the mapping fields of an area do not hold (R114). -/
  winDescs : List W512 := []
  items : List BufItem := []
  /-- Its pops, with the depth of each (R296). -/
  pops : List Pop := []
  phase : Phase := .running
  owed : List (Nat × Nat × Sig) := []
  ptraps : List PTrap := []
  trapHold : Nat := 0
  holdStack : List Nat := []
  depth : Nat := 0
  tokens : SMap (List Sig) := []
  rqSigs : List Sig := []
  fsig : SMap Sig := []
  qsig : SMap Sig := []
  chsig : SMap Sig := []
  chLast : Nat := 0
  popSig : Sig := {}
  /-- Handles of contexts that its supervisor has saved and that none has loaded. -/
  outs : List Nat := []
  /-- It has been loaded, so that its holds have passed to the core. -/
  used : Bool := false
deriving DecidableEq, Repr

/-- A fault ring entry (R336). -/
structure FaultEntry where
  vf : Nat := 0
  gcore : Nat := 0
  port : Nat := 0
  cause : BitVec 8 := 0
  /-- The level of the stage-2 entry that failed (R334). -/
  level : Nat := 0
  handle : Nat := 0
  ipa : Nat := 0
  va : Nat := 0
  stamp : W64 := 0
deriving DecidableEq, Repr

/-- An error log entry (R406). -/
structure LogEntry where
  stamp : W64 := 0
  cls : Nat := 0
  die : Nat := 0
  unit : Nat := 0
  count : Nat := 1
  pa : Nat := 0
  vf : Nat := 0xFF
  /-- The PF has been told of it by an interrupt. -/
  told : Bool := false
deriving DecidableEq, Repr

/-- A boot journal entry (R401): kind 1 START, 2 DONE, 3 ALT, 4 SKIP. -/
structure BootEntry where
  step : Nat := 0
  kind : Nat := 0
  boot : Nat := 0
  stamp : W64 := 0
deriving DecidableEq, Repr

/-- What the package answers (R402, R405). -/
inductive BootMode where
  | notReady | ready | recovery
deriving DecidableEq, Repr

/-- Boot state kept in flash (R401 to R403, R349): disabled parts are named by their boot step. -/
structure Boot where
  mode : BootMode := .ready
  step : Nat := 71
  number : Nat := 0
  journal : List BootEntry := []
  disabled : SMap Bool := []
  /-- Parts that are to be attempted again at the next boot, and where in the journal their new attempts begin (R402). -/
  retry : SMap Bool := []
  since : SMap Nat := []
  imageB : Bool := false
  kept : Bool := true
deriving DecidableEq, Repr

/-- Firmware's limits (R404). -/
structure Limits where
  power : Nat := 2800
  throttle : Nat := 110
  agelimit : W32 := 4096
  coreThr : Nat := 0
  stackThr : Nat := 0
  pageThr : Nat := 0
  /-- The classes of error log entries that raise interrupts, by bit. -/
  irqs : BitVec 16 := BitVec.allOnes 16
deriving DecidableEq, Repr

/-- A host link (R345, R347). -/
structure HostLink where
  cxl : Bool := false
  hlc : W64 := 0
  up : Bool := true
  /-- Its logical time (R214). -/
  ltime : Nat := 0
deriving DecidableEq, Repr

/-- An attestation report (R350), bytes 0 to 655 as a number and the signature's 3,309 bytes. -/
structure Report where
  vf : Nat := 0xFFFF
  body : BitVec 5248 := 0
  signature : BitVec 26472 := 0
deriving DecidableEq, Repr

/-- The next choice of the scheduler: the cycles that pass, and then an event, or the operation of an engine's
(1 to 6) or a channel's (8 to 15) active command. -/
inductive Turn where
  | ev (dt : Nat) (i : Instr)
  | engine (dt c a : Nat)
deriving DecidableEq, Repr

/-- In which part the performed instruction stands: a slot of the bundle in issue, or the `i`-th active command of an
agent. -/
inductive Role where
  | slot
  | agent (a i : Nat)
deriving DecidableEq, Repr

/-- The bundle in issue (R57): registers as they stood before it, the slot being performed with its word, lit32, gen,
the bundle's address, and the registers its slots have written. -/
structure SlotCtx where
  old : Regs := {}
  slot : Nat := 1
  word : W64 := 0
  lit : W32 := 0
  gen : Nat := 0
  pc : Nat := 0
  /-- Written so far: kind (0 s, 1 p, 2 d, 3 cr) and number, with the slot. -/
  wr : List (Nat × Nat × Nat) := []
  /-- Target of a taken transfer. -/
  target : Option Nat := none
  /-- TRAP's trap after the bundle. -/
  after : Option PTrap := none
  /-- ERET in slot 3 (R374). -/
  eret : Bool := false
  /-- CWRs of cr.warn and cr.warncount, by index, which stand over the bundle's own warnings. -/
  cwr : List (Nat × W64) := []
deriving DecidableEq, Repr

/-- The package. -/
structure State where
  -- memory
  mem : List Host.Cell := []
  poison : SMap Pz := []
  /-- Earlier contents of each sector, latest first, each with the count of writes that it was overwritten by, and that
  count: what a fetch may still see (R210). -/
  codeOld : SMap (List (Nat × BitVec 256)) := []
  codeTick : Nat := 0
  lost : SMap Bool := []
  quarantine : SMap Bool := []
  mirrors : SMap (Option Nat) := []
  links : SMap (Option PageLink) := []
  refs : SMap Nat := []
  savePages : SMap Bool := []
  /-- The 12 pages of a context saved by hardware, with its handle, by the frame of the first (R369). -/
  ctxPages : SMap (List Nat × Nat) := []
  /-- What is kept of saved contexts beside their areas, by handle. -/
  rests : SMap CtxRest := []
  nextHold : Nat := 1
  devHost : SMap Bool := []
  hostLines : SMap Bool := []
  -- the cores
  cores : SMap Core := []
  -- open tensors, tasks, tags, barriers
  ots : SMap OT := []
  tqs : SMap TaskQ := []
  /-- Queues whose pre-emption is to be decided again only at the next pop in the package (R251, R372). -/
  preemptWait : SMap Bool := []
  sqs : SMap SubQ := []
  tags : SMap Tag := []
  held : List HeldRun := []
  nextHandle : Nat := 1
  conts : List Cont := []
  barriers : List Barrier := []
  /-- Arrivals of other packages at a pod barrier that wait for a free slot: group, package and values (R260). -/
  podWaits : List (W32 × Nat × Sig) := []
  /-- Messages sent to the other packages of the pod. -/
  podOut : List PodMsg := []
  -- functions, far and host
  fctx : SMap FuncCtx := []
  fctxStatus : Nat := 0
  pod : SMap PodEntry := []
  ownInc : W32 := 0
  routes : SMap Nat := []
  exports : SMap ExportEntry := []
  hostLinks : SMap HostLink := []
  /-- The CXL.mem range: its function, IPA base and size (R347). -/
  cxlMem : Option (Nat × Nat × Nat) := none
  farSent : List FarItem := []
  /-- Writes sent to the host: the requester's function, address, bytes, data and poison (R345). -/
  hostOut : List (Nat × Nat × Nat × BitVec 128 × Bool) := []
  /-- Answers given to accesses from outside: the package or 4096 + link, a status (0 done, 1 refused, 2 unsupported),
  data and poison. -/
  replies : List (Nat × Nat × BitVec 128 × Bool) := []
  -- ports and expanders
  ports : SMap Port := []
  expanders : SMap Nat := []
  -- reporting
  faultRing : List FaultEntry := []
  /-- An entry of the fault ring has raised no interrupt yet (R404). -/
  faultDue : Bool := false
  errLog : List LogEntry := []
  corrected : SMap Nat := []
  uncorrected : SMap Nat := []
  lastIrq : SMap (Option Nat) := []
  msix : SMap Nat := []
  reports : List Report := []
  -- boot, power and limits
  boot : Boot := {}
  meas : SMap W512 := []
  limits : Limits := {}
  power : Bool := true
  tripped : Bool := false
  warmReq : Bool := false
  -- time
  now : Nat := 0
  /-- The latest timestamp given (R214). -/
  ltime : Nat := 0
  /-- Logical times of the 160 slice attention units, and at 160 + k of the atomic unit of base die k (R214). -/
  unitTimes : SMap Nat := []
  -- the model's own: the scheduler's choices, the instruction being performed, and the free-value counter
  agenda : List Turn := []
  cur : Nat := 0
  role : Role := .slot
  ctx : SlotCtx := {}
  free : Nat := 0
deriving DecidableEq, Repr

/-- What a byte of memory that nothing has written reads as: 0 (DESIGN CHOICE, assumption 12). -/
def memDefault : Nat → Byte := fun _ => 0

/-- The canonical form of memory: addresses strictly rising, no entry equal to the reading of an unlisted byte. -/
def Memory.wf (m : List Host.Cell) : Bool := SMap.wf memDefault m

/-- The machine right after reset: every field at the value the spec states for reset, and where it states none at
the value that assumptions 1 to 3 and 10 to 13 name. -/
def State.reset : State := {}

end Sys2Proof.Machine
end

