-- ==== Sys2Proof/Machine/Ops.lean ====
section
/-! DEFINITION. The named operations over cores and registers: the s, p and d files, control registers, warnings, free
values, signals and the HLC, flags, tokens, the reply queue, and taking and returning from a trap. -/

namespace Sys2Proof.Machine

open Sys2Proof

/-! ### Cores -/

/-- What an unlisted core holds: the reset values. -/
def coreDefault : Nat → Core := fun _ => {}

/-- Core `c`. -/
def getCore (s : State) (c : Nat) : Core := SMap.get coreDefault s.cores c

/-- `s` with core `c` replaced. -/
def setCore (s : State) (c : Nat) (k : Core) : State := { s with cores := SMap.set coreDefault s.cores c k }

/-- `s` with core `c` changed by `f`. -/
def onCore (s : State) (c : Nat) (f : Core → Core) : State := setCore s c (f (getCore s c))

/-- `s` with every listed core changed by `f`, which leaves an unlisted one as it is. -/
def eachCore (s : State) (f : Nat → Core → Core) : State :=
  (s.cores.map fun e => e.1).foldl (fun s c => onCore s c (f c)) s

/-- Logical time is a count of 48 bits (R214). -/
abbrev timeLimit : Nat := 2 ^ 48

/-- Every logical time of the package, changed by `f` (R214, R215). -/
def mapTimes (f : Nat → Nat) (s : State) : State :=
  let s := (List.range 160).foldl (fun s c => onCore s c fun k => { k with ltime := f k.ltime }) s
  let link := fun (s : State) (l : Nat) =>
    let x := SMap.get (fun _ => ({} : HostLink)) s.hostLinks l
    { s with hostLinks := SMap.set (fun _ => {}) s.hostLinks l { x with ltime := f x.ltime } }
  let unit := fun (s : State) (n : Nat) =>
    { s with unitTimes := SMap.set (fun _ => 0) s.unitTimes n (f (SMap.get (fun _ => 0) s.unitTimes n)) }
  { (List.range 172).foldl unit ((List.range 2).foldl link s) with ltime := f s.ltime }

/-- Agents that have stood idle advance their times to `n` at least, as R214 leaves to the implementation. -/
def catchUp (n : Nat) (s : State) : State := mapTimes (fun t => max t n) s

/-- THE REBASE (R215): every logical time is lowered by one amount, none of them being below it. -/
def rebaseTimes (n : Nat) (s : State) : State := mapTimes (fun t => t - n) (catchUp n s)

/-- The next timestamp: the times are rebased first where a count would reach 2^48 (R215). -/
def nextStamp (s : State) : State :=
  let s := if timeLimit ≤ s.ltime + 1 then rebaseTimes s.ltime s else s
  { s with ltime := s.ltime + 1 }

/-- The timestamp of an event of core `c`: later than every earlier one, so that timestamps follow the order of events;
the core's logical time advances to it (R214). -/
def stampEvent (s : State) (c : Nat) : State :=
  let s := nextStamp s
  onCore s c fun k => { k with ltime := s.ltime }

/-- The timestamp of an event that a host link brings (R214). -/
def stampLink (s : State) (l : Nat) : State :=
  let s := nextStamp s
  let x := SMap.get (fun _ => ({} : HostLink)) s.hostLinks l
  { s with hostLinks := SMap.set (fun _ => {}) s.hostLinks l { x with ltime := s.ltime } }

/-- The time of a slice attention unit or of a base die's atomic unit advances to the event that it performs (R214). -/
def stampUnit (s : State) (n : Nat) : State :=
  { s with unitTimes := SMap.set (fun _ => 0) s.unitTimes n s.ltime }

/-- The core whose instruction is being performed. -/
def cc (s : State) : Core := getCore s s.cur

/-- `s` with the current core changed. -/
def onCur (s : State) (f : Core → Core) : State := onCore s s.cur f

/-! ### Scalar, predicate and descriptor files (R15, R16) -/

/-- s[n]; s0 reads 0. -/
def rdS (r : Regs) (n : Nat) : W64 := if n = 0 then 0 else SMap.get (fun _ => 0) r.s n

/-- s[n] := v; a write to s0 is discarded. -/
def wrS (r : Regs) (n : Nat) (v : W64) : Regs :=
  if n = 0 then r else { r with s := SMap.set (fun _ => 0) r.s n v }

/-- p[n]; p0 is true. -/
def rdP (r : Regs) (n : Nat) : Bool := if n = 0 then true else SMap.get (fun _ => false) r.p n

/-- p[n] := v; a write to p0 is discarded. -/
def wrP (r : Regs) (n : Nat) (v : Bool) : Regs :=
  if n = 0 then r else { r with p := SMap.set (fun _ => false) r.p n v }

/-- d[n]. -/
def rdD (r : Regs) (n : Nat) : W512 := SMap.get (fun _ => 0) r.d n

/-- d[n] := v. -/
def wrD (r : Regs) (n : Nat) (v : W512) : Regs := { r with d := SMap.set (fun _ => 0) r.d n v }

/-- A scalar source of the slot in issue: as it stood before the bundle (R57). -/
def srcS (s : State) (n : BitVec 6) : W64 := rdS s.ctx.old n.toNat

/-- A predicate source of the slot in issue. -/
def srcP (s : State) (n : Nat) : Bool := rdP s.ctx.old n

/-- A descriptor source of the slot in issue. -/
def srcD (s : State) (n : Nat) : W512 := rdD s.ctx.old n

/-- The slot in issue writes register `n` of file `kind` (0 s, 1 p, 2 d, 3 cr): kept for R58. A write that is
discarded counts as none. -/
def noteWrite (s : State) (kind n : Nat) : State :=
  if (kind = 0 ∨ kind = 1) ∧ n = 0 then s
  else { s with ctx := { s.ctx with wr := s.ctx.wr ++ [(kind, n, s.ctx.slot)] } }

/-- The slot in issue writes a scalar. -/
def putS (s : State) (n : BitVec 6) (v : W64) : State :=
  noteWrite (onCur s fun k => { k with regs := wrS k.regs n.toNat v }) 0 n.toNat

/-- The slot in issue writes a predicate. -/
def putP (s : State) (n : Nat) (v : Bool) : State :=
  noteWrite (onCur s fun k => { k with regs := wrP k.regs n v }) 1 n

/-- The slot in issue writes a descriptor. -/
def putD (s : State) (n : Nat) (v : W512) : State :=
  noteWrite (onCur s fun k => { k with regs := wrD k.regs n v }) 2 n

/-- The slot executes: its predicate as it stood before the bundle (R46, R57). -/
def predOk (s : State) (f : Frame) : Bool := srcP s f.pred.toNat != f.pneg

/-- A control-core slot whose predicate is false has no effect at all (R28). -/
def whenPred (f : Frame) (s : State) (t : State) : State := if predOk s f then t else s

/-! ### Warnings (R24) -/

/-- W_RESERVED is bit 0 of cr.warn. -/
abbrev wReserved : Nat := 0
/-- W_SLOTWRITE. -/
abbrev wSlotwrite : Nat := 1
/-- W_TOKENS. -/
abbrev wTokens : Nat := 2
/-- W_INSTALL. -/
abbrev wInstall : Nat := 3
/-- W_FALLBACK. -/
abbrev wFallback : Nat := 4
/-- W_SLOWROW. -/
abbrev wSlowrow : Nat := 5

/-- A control-register file with warning bit `b` set and the event counted, saturating (R21, R24). -/
def crWarn (cr : Cr) (b : Nat) : Cr :=
  { cr with warn := cr.warn ||| ((1 : W64) <<< b),
            warncount := if cr.warncount = 0xFFFFFFFF then cr.warncount else cr.warncount + 1 }

/-- A warning event of core `c`. -/
def warnC (s : State) (c b : Nat) : State :=
  onCore s c fun k => { k with regs := { k.regs with cr := crWarn k.regs.cr b } }

/-- A warning event of the current core. -/
def warn (s : State) (b : Nat) : State := warnC s s.cur b

/-- A warning event when `p` holds. -/
def warnIf (s : State) (p : Bool) (b : Nat) : State := if p then warn s b else s

/-! ### Free values (R5) -/

/-- Where a search among `n` free things begins: the spec says that which one is taken is unspecified (R256), or does
not say (R276). Assumption 26. -/
def freeStart (s : State) (n : Nat) : Nat := if n = 0 then 0 else (Config.freeValue s.free).toNat % n

/-- A fresh free value and the state with the counter advanced. -/
def takeFree (s : State) : W64 × State := (Config.freeValue s.free, { s with free := s.free + 1 })

/-- What a stash granule holds once the window that filled it is gone: the spec states no value. Assumption 27. -/
def looseGranule (c : Nat) (s : State) (g : Nat) : State :=
  let bytes := (List.range 8).flatMap fun i => toBytes 8 (Config.freeValue (s.free + i))
  let cells := (List.range 64).zip bytes |>.map fun p => (64 * g + p.1, p.2)
  onCore { s with free := s.free + 9 } c fun k =>
    { k with stash := SMap.setAll (fun _ => 0) k.stash cells,
             stashPoison := SMap.set (fun _ => false) k.stashPoison g ((Config.freeValue (s.free + 8)).getLsbD 0) }

/-! ### Privilege and identity (R21, R23, R25) -/

/-- PL is supervisor. -/
def isSup (k : Core) : Bool := field k.regs.cr.status 0 2 = 1

/-- The VMID of the run (R330). -/
def vmid (k : Core) : Nat := k.run.vf

/-- The context of function `v` (R338). -/
def getFctx (s : State) (v : Nat) : FuncCtx := SMap.get (fun _ => {}) s.fctx v

/-- The ASID in force: the supervisor ASID at supervisor level, else cr.asid (R330). -/
def asidOf (s : State) (k : Core) : Nat :=
  if isSup k then (getFctx s (vmid k)).supasid.toNat else field k.regs.cr.asid 0 12

/-- cr.self (R25). -/
def crSelf (c : Nat) (k : Core) : W64 :=
  BitVec.ofNat 64 (Config.pkg.toNat * 2 ^ 32 + (k.stage % 16) * 2 ^ 16 + (c / 40) * 2 ^ 14 + (c / 8 % 5) * 2 ^ 11
    + (c % 8) * 2 ^ 8 + c % 256)

/-- The engines are frozen: PL is supervisor and the core holds a run's context (R357). -/
def enginesFrozen (k : Core) : Bool := isSup k && k.held

/-! ### Time, paths and the hybrid logical clock (R311, R312, R317) -/

/-- Ticks of 16 ns since the epoch: a cycle of the 3.3 GHz clock is 1/3.3 ns (R10, R317). -/
def tickOf (now : Nat) : Nat := now * 10 / 528

/-- phys of R317, in cycle `now`. -/
def physAt (now : Nat) : W64 := BitVec.ofNat 64 (tickOf now * 2 ^ 18)

/-- phys of R317. -/
def phys (s : State) : W64 := physAt s.now

/-- The greater of two stamps, as natural numbers. -/
def maxW (a b : W64) : W64 := if a.toNat ≤ b.toNat then b else a

/-- A local event of core `c` (R317). -/
def hlcLocal (s : State) (c : Nat) : State :=
  onCore s c fun k => { k with hlc := maxW (k.hlc + 1) (phys s) }

/-- A core's stamp on receipt of a signal with stamp `r` in cycle `now` (R317). -/
def recvStamp (now : Nat) (k : Core) (r : W64) : Core := { k with hlc := maxW (maxW k.hlc r) (physAt now) + 1 }

/-- Core `c` receives a signal with stamp `r` (R317). -/
def hlcRecv (s : State) (c : Nat) (r : W64) : State := onCore s c fun k => recvStamp s.now k r

/-- The path of agent `a` of a core. -/
def getPath (k : Core) (a : Nat) : PathRef := SMap.get (fun _ => {}) k.paths a

/-- The core with agent `a`'s path set. -/
def setPath (k : Core) (a : Nat) (p : PathRef) : Core := { k with paths := SMap.set (fun _ => {}) k.paths a p }

/-- 2^40 − 1: where path values saturate (R311). -/
def pathMax : Nat := 2 ^ 40 - 1

/-- The reference that names agent `a` of core `c` and no edge (R315). -/
def noEdgeRef (c a : Nat) : W64 := BitVec.ofNat 64 (Config.pkg.toNat * 2 ^ 52 + c * 2 ^ 44 + a * 2 ^ 40)

/-- What a signal of agent `a` of core `c` carries (R312). -/
def sigOf (s : State) (c a : Nat) : Sig :=
  let k := getCore s c
  let p := getPath k a
  { path := p.path, ref := if p.ref = 0 then noEdgeRef c a else p.ref, stamp := k.hlc }

/-- A signal of a host link: path 0 and no reference (R312). -/
def hostSig (s : State) (l : Nat) : Sig :=
  { path := 0, ref := 0, stamp := (SMap.get (fun _ => ({} : HostLink)) s.hostLinks l).hlc }

/-- Agent `a` adopts a signal when its path is not below the agent's own (R313). -/
def adopt (k : Core) (a : Nat) (g : Sig) : Core :=
  let p := getPath k a
  if p.path ≤ g.path then setPath k a { path := g.path, ref := g.ref } else k

/-- Counter `n` of a core (R321, R376). -/
def getCounter (k : Core) (n : Nat) : W64 := SMap.get (fun _ => 0) k.counters n

/-- Counter `n` raised by `d`. -/
def bump (k : Core) (n d : Nat) : Core :=
  { k with counters := SMap.set (fun _ => 0) k.counters n (getCounter k n + BitVec.ofNat 64 d) }

/-! ### Pending traps and waking (R353, R377) -/

/-- A trap becomes pending: a wake event (R377). -/
def pend (k : Core) (t : PTrap) : Core := { k with ptraps := k.ptraps ++ [t], wake := true }

/-- A trap becomes pending on core `c`. -/
def pendC (s : State) (c : Nat) (t : PTrap) : State := onCore s c fun k => pend k t

/-! ### Flags (R20, R259) -/

/-- A hold that cannot end while the engines are frozen raises TOKEN_DEADLOCK at once, unless one that may be taken now is
pending (R119, R357). -/
def stuckNow (k : Core) : Core :=
  if enginesFrozen k && !((k.ptraps.drop k.trapHold).any fun t => t.cause = 0x12) then pend k { cause := 0x12 } else k

/-- Flag `n` of a core. -/
def getFlag (k : Core) (n : Nat) : PV 32 := SMap.get (fun _ => {}) k.f n

/-- A write of flag `n` with what its signal carries: the flag, its last writer's values, and a wake event. -/
def setFlag (k : Core) (n : Nat) (v : PV 32) (g : Sig) : Core :=
  { k with f := SMap.set (fun _ => {}) k.f n v, fsig := SMap.set (fun _ => {}) k.fsig n g, wake := true }

/-- The values of the last write of flag `n`. -/
def flagSig (k : Core) (n : Nat) : Sig := SMap.get (fun _ => {}) k.fsig n

/-! ### Queues, engines, tokens and the reply queue (R29 to R33) -/

/-- Engine `q` of a core: 0 LDQ, 1 MXQ, 2 EPQ, 3 VXQ, 4 AXQ, 5 STQ. -/
def getEng (k : Core) (q : Nat) : Engine := SMap.get (fun _ => {}) k.engines q

/-- The core with engine `q` replaced. -/
def setEng (k : Core) (q : Nat) (e : Engine) : Core := { k with engines := SMap.set (fun _ => {}) k.engines q e }

/-- The copies of channel `h`, oldest first. -/
def getChan (k : Core) (h : Nat) : List Active := SMap.get (fun _ => []) k.chans h

/-- The core with channel `h` replaced. -/
def setChan (k : Core) (h : Nat) (l : List Active) : Core := { k with chans := SMap.set (fun _ => []) k.chans h l }

/-- Tokens of FIFO `i`, oldest first: rows 0 to 5 of R30 run to the right neighbour, rows 6 to 11 to the left. -/
def getTok (k : Core) (i : Nat) : List Sig := SMap.get (fun _ => []) k.tokens i

/-- The core with FIFO `i` replaced. -/
def setTok (k : Core) (i : Nat) (l : List Sig) : Core := { k with tokens := SMap.set (fun _ => []) k.tokens i l }

/-- The FIFO that queue `q` gives into with give.r: row `q` of R30. -/
def fifoGiveR (q : Nat) : Nat := q

/-- The FIFO that queue `q` takes from with take.l: its left neighbour's give.r. -/
def fifoTakeL (q : Nat) : Nat := (q + 5) % 6

/-- The FIFO that queue `q` gives into with give.l: rows 6 to 11 are given by MXQ, EPQ, VXQ, AXQ, STQ, LDQ. -/
def fifoGiveL (q : Nat) : Nat := 6 + (q + 5) % 6

/-- The FIFO that queue `q` takes from with take.r: its right neighbour's give.l. -/
def fifoTakeR (q : Nat) : Nat := 6 + q

/-- Agent code of queue `q` (R310). -/
def queueAgent (q : Nat) : Nat := q + 1

/-- A popped entry reaches its register, or its poison becomes a pending trap (R296). Its signal is received (R317), and
its values are kept where it is an entry that the bundle at issue waits for (R310). -/
def popInto (now : Nat) (k : Core) (p : Pop) (e : RqEntry) : Core :=
  let k := recvStamp now k e.sig.stamp
  let k := match k.stall with
    | .rq regs => if regs.contains p.dst then { k with popSig := e.sig, popStamp := k.hlc } else k
    | _ => k
  if e.val.poison then pend k { cause := 0x10, eslot := 0, einfo := 0 }
  else if p.dead then k
  else { k with regs := wrS k.regs p.dst e.val.bits }

/-- How many traps deep a core is. -/
def trapDepth (k : Core) : Nat := if isSup k then k.depth else 0

/-- An entry may be taken: one of AXQ not in the cycle of its push, in which an entry of VXQ may still come before it
(R33). -/
def rqTakable (now : Nat) (e : RqEntry) : Bool := e.axq ≠ some now

/-- The `i`-th element of a list, where it holds one, with the rest of the list. -/
def takeNth {α : Type} (l : List α) (i : Nat) : Option (α × List α) := (l[i]?).map fun x => (x, l.eraseIdx i)

/-- Pending pops take the entries that stand, in order (R33, R296): those of the core's present depth, each the entry
that its place among all pending pops gives it. -/
def servePops (now : Nat) : Nat → Core → Core
  | 0, k => k
  | n + 1, k =>
    let i := k.pops.findIdx fun p => decide (p.depth = trapDepth k)
    match takeNth k.pops i, takeNth k.rq i with
    | some (p, ps), some (e, es) =>
      if rqTakable now e then servePops now n (popInto now { k with pops := ps, rq := es } p e) else k
    | _, _ => k

/-- Every pop that may complete completes. -/
def serveAll (now : Nat) (k : Core) : Core := servePops now k.pops.length k

/-- The entries that AXQ has pushed in this cycle, at the end of the RQ. -/
def axqTail (now : Nat) (l : List RqEntry) : Nat := (l.reverse.takeWhile fun e => !rqTakable now e).length

/-- Entries are pushed onto the RQ: a wake event (R33, R377). What VXQ pushes comes before what AXQ has pushed in the same
cycle. -/
def pushRq (now : Nat) (axq : Bool) (k : Core) (e : RqEntry) : Core :=
  let n := if axq then k.rq.length else k.rq.length - axqTail now k.rq
  serveAll now
    { k with rq := k.rq.take n ++ { e with axq := if axq then some now else none } :: k.rq.drop n, wake := true }

/-! ### Traps (R352, R355, R374) -/

/-- cr.status fields (R23). -/
def stPL (st : W64) : Nat := field st 0 2
/-- PPL. -/
def stPPL (st : W64) : Nat := field st 2 2
/-- SS. -/
def stSS (st : W64) : Bool := bit st 4
/-- PSS. -/
def stPSS (st : W64) : Bool := bit st 5

/-- A status word from its fields. -/
def mkStatus (pl ppl : Nat) (ss pss : Bool) : W64 :=
  BitVec.ofNat 64 (pl + ppl * 4 + ss.toNat * 16 + pss.toNat * 32)

/-- The status after trap entry: PPL and PSS take PL and SS, PL becomes supervisor and SS is cleared (R355). -/
def trapStatus (st : W64) : W64 := mkStatus 1 (stPL st) false (stSS st)

/-- The status after ERET: PL and SS take PPL and PSS (R374). -/
def eretStatus (st : W64) : W64 := mkStatus (stPPL st) (stPPL st) (stPSS st) (stPSS st)

/-- The registers that trap entry writes (R355, step 4), with `epc` the address the trap's row of R352 names. -/
def trapRegs (cr : Cr) (t : PTrap) (epc : Nat) : Cr :=
  { cr with cause := t.cause.setWidth 64, epc := BitVec.ofNat 64 epc, eslot := t.eslot.setWidth 64,
            einfo := t.einfo, status := trapStatus cr.status }

/-- An entry that stands in the run's context while a handler runs (R354): a wait that may resume. A window
instruction whose wait ends in TOKEN_DEADLOCK resumes too (R119). -/
def parkable (cause : BitVec 8) (b : BufItem) : Bool :=
  match b.ev with
  | .waitf _ _ _ _ _ _ => true
  | .drain _ => true
  | .ffence _ _ => true
  | .spawn nb _ _ _ _ _ full => !nb && full.isSome
  | .wfi => true
  | .bar _ _ _ arrived _ => arrived.isSome
  | .finish _ => true
  | .sflush _ _ => b.began && cause = 0x12
  | .sdrop _ off => b.began && off.isNone && cause = 0x12
  | _ => false

/-- STEP's trap for a bundle (R352, R361). -/
def stepTrap (a : Nat) : PTrap := { cause := 0x16, einfo := BitVec.ofNat 64 a }

/-- The pending trap that is taken next: the oldest of those that may be taken, and of port faults the lowest port's
(R335, R353). -/
def nextTrap (k : Core) : Option PTrap :=
  match k.ptraps.drop k.trapHold with
  | [] => none
  | t :: l =>
    match t.port with
    | none => some t
    | some _ => some (l.foldl (fun (b : PTrap) (x : PTrap) =>
        match x.port, b.port with
        | some p, some q => if p < q then x else b
        | _, _ => b) t)

/-- The trap that is due at the present boundary: pending traps, and then STEP (R353). -/
def dueTrap (k : Core) : Option PTrap :=
  match nextTrap k with
  | some t => some t
  | none => k.stepDue.map stepTrap

/-- The control core has stopped issuing at a trap's point, and the trap is still to be taken (R355). -/
def entryWaits (k : Core) : Bool :=
  k.stall = .trap || (dueTrap k).any fun t => k.buf.all (parkable t.cause)

/-- The engines come to their stop, since a trap of the task level is to be taken (R356). -/
def entryDue (k : Core) : Bool := !isSup k && entryWaits k

/-- The engines come to their stop, since the run is to be saved: once no instruction is left that waits for them and completes
before the boundary (R354). -/
def saveDue (k : Core) : Bool := k.save.isSome && k.buf.all (parkable 0)

/-- A SAQ that has not begun its writes (R180). -/
def saqIdle (a : Active) : Bool :=
  decide (a.cmd.word.extractLsb' 56 8 = 0xB8#8) && !(a.ran && (decide (0 < a.count) || decide (a.writes = []))) && !a.retiring

/-- Vector commands and results stay as they are while the engines are frozen; a SAQ that has not begun its writes is
abandoned with its range and holds, to be issued again first (R180, R356). -/
def abandonSaqs (k : Core) : Core :=
  let e := getEng k 4
  setEng k 4 { e with active := e.active.filter fun a => !saqIdle a,
                      again := (e.active.filter saqIdle).map (fun a =>
    { a with stage := min 1 a.stage, reads := [], writes := [], got := [], ran := false, count := 0, tree := [],
             halted := none, halted2 := none, farOut := 0 }) ++ e.again }

/-- TAKING A TRAP (R355): the saved registers, the status and mode, and the fetch at cr.tvec. With cr.tvec 0 the run
ends as a cancellation of that run alone ends it, completing as FAILED (R360): the core is marked for that. -/
def takeTrap (k : Core) (t : PTrap) (epc : Nat) : Core :=
  if field k.regs.cr.tvec 5 50 = 0 then { k with cancelled := true, stall := .none, waited := 0 }
  else
    let k := bump k 64 1
    let k := if isSup k then k else abandonSaqs k
    { k with regs := { k.regs with cr := trapRegs k.regs.cr t epc },
             pc := field k.regs.cr.tvec 5 50 * 32, stall := .none, waited := 0, hdrOk := none, trapHold := k.ptraps.length,
             holdStack := if isSup k then k.trapHold :: k.holdStack else [], depth := if isSup k then k.depth + 1 else 1 }

/-- RETURN FROM A TRAP (R374): the status restored and the fetch at cr.epc<54:5>, and of the pending traps those held that
were held in the handler that it returns to (R353). -/
def returnTrap (k : Core) : Core :=
  let nested := decide (stPPL k.regs.cr.status = 1)
  { k with regs := { k.regs with cr := { k.regs.cr with status := eretStatus k.regs.cr.status } },
           pc := field k.regs.cr.epc 5 50 * 32, stepDue := none,
           trapHold := if nested then k.holdStack.headD 0 else 0, holdStack := if nested then k.holdStack.tail else [],
           depth := if nested then k.depth - 1 else 0 }

/-! ### Vector results in flight (R144) -/

/-- A result lands in its register. -/
def landRec (g : EngRegs) (r : VRec) : EngRegs :=
  if r.mask then
    { g with k := SMap.set (fun _ => 0) g.k r.reg ((SMap.get (fun _ => 0) g.k r.reg &&& ~~~r.lanes) ||| (r.bits &&& r.lanes)) }
  else
    let l := ((List.range 64).filter fun i => r.lanes.getLsbD i).map fun i => (64 * r.reg + i, r.vals.getD i {})
    { g with v := SMap.setAll (fun _ => {}) g.v l }

end Sys2Proof.Machine
end

