-- ==== Sys2Proof/Machine/Memory.lean ====
section
/-! DEFINITION. Memory at the order point: physical events with poison, recall and mirrors (R197 to R216, R385, R389),
the regions of R324, and the two-stage translation (R325 to R337). -/

namespace Sys2Proof.Machine

open Sys2Proof

/-! ### Bytes and poison -/

/-- The byte at a physical address. -/
def memByte (s : State) (a : Nat) : Byte := SMap.get memDefault s.mem a

/-- `n` bytes from `a`, lowest address first. -/
def memBytes (s : State) (a n : Nat) : List Byte := (List.range n).map fun i => memByte s (a + i)

/-- Bytes stored at ascending addresses from `a`. -/
def pokeBytes : List Host.Cell → Nat → List Byte → List Host.Cell
  | m, _, [] => m
  | m, a, b :: t => pokeBytes (SMap.set memDefault m a b) (a + 1) t

/-- Poison map entry of a 64-byte granule, by granule number. -/
def getPz (s : State) (g : Nat) : Pz := SMap.get (fun _ => {}) s.poison g

/-- The poison map with a granule's entry set. -/
def setPz (s : State) (g : Nat) (z : Pz) : State := { s with poison := SMap.set (fun _ => {}) s.poison g z }

/-- Some granule of the `n` bytes from `a` is poisoned. -/
def poisonedAt (s : State) (a n : Nat) : Bool :=
  (List.range ((a + n - 1) / 64 - a / 64 + 1)).any fun i => (getPz s (a / 64 + i)).poison

/-- An aligned 64-bit word of memory. -/
def rd64 (s : State) (a : Nat) : W64 := ofBytes 64 (memBytes s a 8)

/-- The entries of a table that are not zero, by address: each has a listed byte (R325; assumption 12). -/
def tableEntries (s : State) (t : Nat) : List Nat :=
  ((s.mem.filter fun e => decide (t ≤ e.1) && decide (e.1 < t + 65536)).map fun e => e.1 / 8 * 8).eraseDups

/-- A leaf at or below a stage-2 table maps the frame and has the mirror bit (R326). -/
def marksBelow (s : State) (fr : Nat) : Nat → List Nat → Bool
  | _, [] => false
  | t, sh :: rest => (tableEntries s t).any fun a =>
    let e := rd64 s a
    let at_ := field e 16 36 * 65536
    bit e 0 && if bit e 1 then bit e 55 && decide (at_ / 2 ^ sh = fr * 65536 / 2 ^ sh) else marksBelow s fr at_ rest

/-- Stage 2 of some function maps the frame with the mirror bit (R326, R389). -/
def isMarked (s : State) (fr : Nat) : Bool :=
  s.fctx.any fun e => marksBelow s fr (e.2.s2root / 65536 * 65536) [42, 29, 16]

/-- The registered mirror of a frame, by frame number (R389). -/
def mirrorReg (s : State) (fr : Nat) : Option Nat := SMap.get (fun _ => none) s.mirrors fr

/-- The mirror of a frame with the stage-2 mirror bit: the registered one (R389). -/
def mirrorOf (s : State) (fr : Nat) : Option Nat := (mirrorReg s fr).filter fun _ => isMarked s fr

/-- The mirror link of a pool page, by frame number (R389). -/
def linkOf (s : State) (fr : Nat) : Option PageLink := SMap.get (fun _ => none) s.links fr

/-- The frame is a lost page (R388). -/
def isLost (s : State) (fr : Nat) : Bool := SMap.get (fun _ => false) s.lost fr

/-- The pod table entry of a package (R342). -/
def getPod (s : State) (p : Nat) : PodEntry := SMap.get (fun _ => {}) s.pod p

/-! ### The error log (R404, R406) -/

/-- The unit of memory at a physical address: HBM stack 0 to 11, the LPDDR 12, a CXL port 13 to 16. -/
def memUnit (pa : Nat) : Nat :=
  match pa / 2 ^ 48 with
  | 0 => pa / 2 ^ 37
  | 1 => 12
  | _ => 13 + pa % 2 ^ 48 / 2 ^ 46

/-- The die of a unit of memory: three stacks to a die, the LPDDR under die 0, and a CXL port to each die (assumption 41). -/
def unitDie (u : Nat) : Nat := if u < 12 then u / 3 else u - 13

/-- The number by which a log entry names a unit of memory: a stack, 12 for the LPDDR, a CXL port (R406; assumption 41). -/
def unitCode (u : Nat) : Nat := if u < 13 then u else u - 13

/-- A log entry of memory at a physical address. -/
def memEntry (cls pa : Nat) : LogEntry := { cls := cls, die := unitDie (memUnit pa), unit := unitCode (memUnit pa), pa := pa }

/-- The source of an error log entry, as the interrupts count it: its class, its die and its unit (R404). -/
def logSource (x : LogEntry) : Nat := (x.cls * 256 + x.die) * 65536 + x.unit

/-- Cycles of 10 µs. -/
def irqGap : Nat := 33000

/-- The source has raised its interrupt less than 10 µs ago (R404). -/
def irqRecent (s : State) (source : Nat) : Bool :=
  match SMap.get (fun _ => none) s.lastIrq source with
  | some t => decide (s.now < t + irqGap)
  | none => false

/-- A further event of a source is counted in its first entry of a list (R404). -/
def coalesce (source : Nat) : List LogEntry → List LogEntry
  | [] => []
  | x :: l => if logSource x = source then { x with count := min (x.count + 1) (2 ^ 32 - 1) } :: l else x :: coalesce source l

/-- An error log entry is written (R406). While its source may raise no interrupt, a further event of the source adds to the
count of its latest entry (R404). -/
def logError (s : State) (x : LogEntry) : State :=
  if irqRecent s (logSource x) && s.errLog.any (fun y => decide (logSource y = logSource x)) then
    { s with errLog := (coalesce (logSource x) s.errLog.reverse).reverse }
  else { s with errLog := s.errLog ++ [{ x with stamp := phys s }] }

/-! ### Events on granules -/

/-- The log entry of a granule that is repaired from a mirror (R389). -/
def repairEntry (g : Nat) : LogEntry := memEntry 4 (g * 64)

/-- Some granule of a frame has media origin. -/
def hasMedia (s : State) (fr : Nat) : Bool := s.poison.any fun e => e.2.media && decide (e.1 / 1024 = fr)

/-- The marks of a granule whose data are good, or that carries poison from elsewhere: a lost page none of whose granules has
media origin any more is lost no longer (R385, R388). -/
def freshPz (s : State) (g : Nat) (poison : Bool) : State :=
  let s := setPz s g { poison := poison }
  if isLost s (g / 1024) && !hasMedia s (g / 1024) then
    { s with lost := SMap.set (fun _ => false) s.lost (g / 1024) false } else s

/-- The granule of the mirror that holds what granule `g` held, unless it was destroyed too (R389). -/
def repairSource (s : State) (g : Nat) : Option Nat :=
  let z := getPz s g
  if z.poison && z.media then
    ((mirrorOf s (g / 1024)).map fun m => m * 1024 + g % 1024).filter fun h => !(getPz s h).media
  else none

/-- A granule with media origin whose frame has a mirror is restored from it before the access, with the poison that a write
had carried to both, and with a log entry (R389). -/
def repairGranule (s : State) (g : Nat) : State :=
  match repairSource s g with
  | some h =>
    logError (freshPz { s with mem := pokeBytes s.mem (g * 64) (memBytes s (h * 64) 64) } g (getPz s h).poison) (repairEntry g)
  | none => s

/-- Bytes of one granule as a read of hardware's own finds them, without an event: from the mirror where the granule is to be
repaired, and none where it is poisoned (R381, R389; assumption 71). -/
def soundBytes (s : State) (a n : Nat) : Option (List Byte) :=
  let g := (repairSource s (a / 64)).getD (a / 64)
  if (getPz s g).poison then none else some (memBytes s (g * 64 + a % 64) n)

/-- An aligned 64-bit word read so. -/
def soundWord (s : State) (a : Nat) : Option W64 := (soundBytes s a 8).map (ofBytes 64)

/-- Another agent's access recalls the line: a dirty copy in a window other than `keep`, named by core and place, is
memory's from then on, and no L1 but that of core `l1` holds the line exclusively (R35, R214). -/
def recallCore (g : Nat) (keep : Option (Nat × Nat)) (l1 : Option Nat) (c : Nat) (k : Core) : Core :=
  let wins := (k.wins.zip (List.range k.wins.length)).map fun (w, i) =>
    if keep = some (c, i) then w else { w with dirty := w.dirty.filter fun d => d.pa / 64 != g }
  { k with wins := wins, l1x := if l1 = some c then k.l1x else SMap.set (fun _ => false) k.l1x g false }

/-- The recall over every core. -/
def recallLine (s : State) (g : Nat) (keep : Option (Nat × Nat)) (l1 : Option Nat) : State :=
  eachCore { s with hostLines := SMap.set (fun _ => false) s.hostLines g false } (recallCore g keep l1)

/-- Who makes an access: the window it goes through, and the core whose L1 it goes through. -/
structure Via where
  win : Option (Nat × Nat) := none
  l1 : Option Nat := none
deriving DecidableEq, Repr

/-- Host link `l` (R345). -/
def getLink (s : State) (l : Nat) : HostLink := SMap.get (fun _ => {}) s.hostLinks l

/-- The link of a host address trained as CXL 3.x Type 2, so that its pages may be in device bias (R212, R347). -/
def linkIsCxl (s : State) (pa : Nat) : Bool := (getLink s (pa / 2 ^ 48 % 2)).cxl

/-- What a memory outside the package answers to a read of `n` bytes, in one granule of 64: free values, and whether they come
with poison (R387). -/
def outsideRead (s : State) (n : Nat) : State × List Byte × Bool :=
  let words := (List.range ((n + 7) / 8)).map fun i => Config.freeValue (s.free + i)
  ({ s with free := s.free + words.length + 1 }, (words.flatMap fun w => toBytes 8 w).take n,
    (Config.freeValue (s.free + words.length)).getLsbD 0)

/-- A host line in device bias is taken from the host at its first access, through CXL.cache: its contents and their poison
come from outside (R212, R347, R387). -/
def ownHostLine (s : State) (g : Nat) : State :=
  if (g * 64 / 2 ^ 48 = 4 ∨ g * 64 / 2 ^ 48 = 5) ∧ linkIsCxl s (g * 64) ∧ SMap.get (fun _ => false) s.devHost g = false then
    let r := outsideRead s 64
    setPz { r.1 with mem := pokeBytes s.mem (g * 64) r.2.1, devHost := SMap.set (fun _ => false) s.devHost g true } g
      { poison := r.2.2 }
  else s

/-- What precedes every event on the granules of `n` bytes from `a`: repair, ownership of host lines and recall. -/
def prepare (s : State) (a n : Nat) (v : Via) : State :=
  (List.range ((a + n - 1) / 64 - a / 64 + 1)).foldl
    (fun s i => recallLine (ownHostLine (repairGranule s (a / 64 + i)) (a / 64 + i)) (a / 64 + i) v.win v.l1) s

/-- One read event of at most one sector: the state after it, the bytes and their poison. -/
def readPhys (s : State) (a n : Nat) (v : Via) : State × List Byte × Bool :=
  let s := prepare s a n v
  (s, memBytes s a n, poisonedAt s a n)

/-- Both poison bits of a granule cleared: one event or one command has written all 64 bytes with data that are not
poisoned (R385). -/
def clearPz (s : State) (g : Nat) : State := freshPz s g false

/-- Poison carried by a write sets the granule's mark; a write that is not poisoned clears the marks of each granule that it
covers whole and leaves the others (R385). -/
def markPoison (s : State) (a n : Nat) (poison : Bool) : State :=
  if poison then
    (List.range ((a + n - 1) / 64 - a / 64 + 1)).foldl
      (fun s i => setPz s (a / 64 + i) { getPz s (a / 64 + i) with poison := true }) s
  else (List.range ((a + n) / 64 - (a + 63) / 64)).foldl (fun s i => clearPz s ((a + 63) / 64 + i)) s

/-- Bytes stored with their poison (R385). -/
def storeBytes (s : State) (a : Nat) (bytes : List Byte) (poison : Bool) : State :=
  markPoison { s with mem := pokeBytes s.mem a bytes } a bytes.length poison

/-- The write performed again on the frame's mirror, poison with it (R389). -/
def mirrorWrite (s : State) (a : Nat) (bytes : List Byte) (poison : Bool) : State :=
  match mirrorOf s (a / 65536) with
  | some m => storeBytes s (m * 65536 + a % 65536) bytes poison
  | none => s

/-- The old contents of each sector that a write of `n` bytes at `a` touches are kept for the instruction fetches that may still
see them (R210). -/
def keepOld (s : State) (a n : Nat) : State :=
  { s with codeOld := (List.range ((a + n - 1) / 32 - a / 32 + 1)).foldl (fun m i =>
             let q := a / 32 + i
             SMap.set (fun _ => []) m q ((s.codeTick, ofBytes 256 (memBytes s (32 * q) 32)) :: SMap.get (fun _ => []) m q)) s.codeOld,
           codeTick := s.codeTick + 1 }

/-- A write to memory by whatever means: bytes, poison, mirror and mirror link (R385, R389). -/
def putMemory (s : State) (a : Nat) (bytes : List Byte) (poison : Bool) : State :=
  mirrorWrite (storeBytes { keepOld s a bytes.length with links := SMap.set (fun _ => none) s.links (a / 65536) none } a bytes poison)
    a bytes poison

/-- One write event (R200). -/
def writePhys (s : State) (a : Nat) (bytes : List Byte) (poison : Bool) (v : Via) : State :=
  putMemory (prepare s a bytes.length v) a bytes poison

/-- A frame's contents copied over another's, with their poison (R389). -/
def copyFrame (s : State) (frame mirror : Nat) : State :=
  let mine := (s.mem.filter fun e => decide (e.1 / 65536 = frame)).map fun e => (e.1 % 65536 + mirror * 65536, e.2)
  let bad := (s.poison.filter fun e => decide (e.1 / 1024 = frame) && e.2.poison).map fun e => e.1 % 1024 + mirror * 1024
  let t := { s with mem := mine.foldl (fun m e => SMap.set memDefault m e.1 e.2) (s.mem.filter fun e => decide (e.1 / 65536 ≠ mirror)),
                    poison := s.poison.filter fun e => decide (e.1 / 1024 ≠ mirror) }
  bad.foldl (fun s g => setPz s g { poison := true }) t

/-- A frame that hardware has written as a whole is written again on its mirror (R389). -/
def mirrorFrame (s : State) (frame : Nat) : State :=
  match mirrorOf s frame with
  | some m => copyFrame s frame m
  | none => s

/-- Both poison bits of a granule and of its mirror cleared (R385, R389). -/
def cleanPz (s : State) (g : Nat) : State :=
  let s := clearPz s g
  match mirrorOf s (g / 1024) with
  | some m => clearPz s (m * 1024 + g % 1024)
  | none => s

/-- The bytes of granule `g` that a command has written not poisoned, after a write of the bytes from `a`; a poisoned
write starts the count again (R385). -/
def addClean : List (Nat × List Nat) → Nat → Nat → Nat → Bool → List (Nat × List Nat)
  | [], g, a, n, poison => if poison then [(g, [])] else [(g, (List.range n).map fun i => a % 64 + i)]
  | (h, l) :: t, g, a, n, poison =>
    if h = g then
      (h, if poison then [] else l ++ ((List.range n).map fun i => a % 64 + i).filter fun b => !(l.contains b)) :: t
    else (h, l) :: addClean t g a n poison

/-- The bytes counted for a granule. -/
def cleanOf : List (Nat × List Nat) → Nat → List Nat
  | [], _ => []
  | (h, l) :: t, g => if h = g then l else cleanOf t g

/-- A write event of a command, with the count of R385 kept and the marks cleared when it completes the granule. The
bytes lie in one granule. -/
def writeCounted (s : State) (a : Nat) (bytes : List Byte) (poison : Bool) (v : Via)
    (clean : List (Nat × List Nat)) : State × List (Nat × List Nat) :=
  let s := writePhys s a bytes poison v
  let before := (cleanOf clean (a / 64)).length
  let clean := addClean clean (a / 64) a bytes.length poison
  if before < 64 ∧ (cleanOf clean (a / 64)).length = 64 then (cleanPz s (a / 64), clean) else (s, clean)

/-- A lost page is to be repaired first, from the far mirror that its link names (R389). -/
def needsRepair (s : State) (pa : Nat) : Bool :=
  isLost s (pa / 65536) && match linkOf s (pa / 65536) with
    | some l => (getPod s (l.pa / 2 ^ 38 % 4096)).up && decide ((getPod s (l.pa / 2 ^ 38 % 4096)).inc = l.inc)
    | none => false

/-! ### Regions (R324) -/

/-- The die of a boot step's part is disabled, or the part itself (R402, R403). -/
def partOff (s : State) (step : Nat) : Bool := SMap.get (fun _ => false) s.boot.disabled step

/-- Capacity of the expander on CXL port `n`: none unless trained at start-up (R348). -/
def expanderCap (s : State) (n : Nat) : Nat := SMap.get (fun _ => 0) s.expanders n

/-- The address exists: a populated part of a region that is not reserved. -/
def populated (s : State) (pa : Nat) : Bool :=
  match pa / 2 ^ 48 with
  | 0 =>
    let k := pa / 2 ^ 37
    decide (k < 12) && decide (pa % 2 ^ 37 < 64 * 10 ^ 9) && !partOff s (5 + k)
      && !(decide (3 ≤ k) && partOff s (1 + k / 3))
  | 1 => decide (pa % 2 ^ 48 < 2048 * 10 ^ 9) && !partOff s 18
  | 2 =>
    let n := pa % 2 ^ 48 / 2 ^ 46
    decide (pa % 2 ^ 46 < expanderCap s n) && !partOff s (19 + n)
  | 4 => true
  | 5 => !partOff s 68
  | 8 => true
  | 9 => true
  | 10 => true
  | 11 => true
  | 15 => decide (0xFFF0000000000 ≤ pa) && decide (pa < 0xFFF0000000000 + 160 * 65536)
  | _ => false

/-- HBM or the second tier of the package (R199). -/
def isPackageMem (s : State) (pa : Nat) : Bool := decide (pa / 2 ^ 48 ≤ 2) && populated s pa

/-- Far memory. -/
def isFar (pa : Nat) : Bool := decide (8 ≤ pa / 2 ^ 48) && decide (pa / 2 ^ 48 ≤ 11)

/-- The target package of a far address: bits 49:38. -/
def farTarget (pa : Nat) : Nat := pa / 2 ^ 38 % 4096

/-- Host memory. -/
def isHostMem (pa : Nat) : Bool := decide (pa / 2 ^ 48 = 4) || decide (pa / 2 ^ 48 = 5)

/-- A flag page (R20). -/
def isFlagPage (pa : Nat) : Bool := decide (pa / 2 ^ 48 = 15)

/-- An access of four aligned bytes at one of the 64 flags of a flag page: every other access to the page is refused, and
so the reserved rest of the page holds nothing (R20, R219; assumption 57). -/
def isFlagWord (pa n : Nat) : Bool := decide (n = 4) && decide (pa % 4 = 0) && decide (pa % 65536 < 256)

/-- The core and flag at an address of a flag page. -/
def flagAt (pa : Nat) : Nat × Nat := ((pa - 0xFFF0000000000) / 65536, pa % 65536 / 4)

/-- Number of the far queue of an address: the package, or 4096 and 4097 for the host links (R201). -/
def farQueue (pa : Nat) : Nat := if isHostMem pa then 4096 + pa / 2 ^ 48 % 2 else farTarget pa

/-- The 64 KiB frame of an address has a part in a range of `n` bytes from `base`, whose ends need not be those of frames
(R271). -/
def frameMeets (pa base n : Nat) : Bool :=
  decide (pa / 65536 * 65536 < base + n) && decide (base < pa / 65536 * 65536 + 65536) && decide (0 < n)

/-- The frame of an address has a part in the pool or the node area of a function. -/
def inPoolOf (x : FuncCtx) (pa : Nat) : Bool :=
  frameMeets pa x.poolbase (x.poolpages * 65536) || frameMeets pa x.nodebase (x.nodecount * 4096)

/-- The frame is another function's pool or node area, and every walk of function `v` refuses it (R337). -/
def poolForeign (s : State) (v pa : Nat) : Bool := s.fctx.any fun e => inPoolOf e.2 pa && decide (e.1 ≠ v)

/-- The frame at `pa` is refused to a walk of function `v` under an ASID: it lies in another function's pool or node area,
or in its own and the walk is not under the supervisor ASID (R337). -/
def poolRefused (s : State) (v asid : Nat) (pa : Nat) : Bool :=
  poolForeign s v pa || (s.fctx.any fun e => inPoolOf e.2 pa && decide (e.1 = v) && decide (asid ≠ e.2.supasid.toNat))

/-! ### The walk (R325 to R331) -/

/-- What a walk finds: a leaf entry with its address, its level and the bits it maps, a fault, or a fault at stage 2
of a table's own address. -/
inductive Leaf where
  | ok (ent : W64) (entAt level shift : Nat)
  | fault (cause : BitVec 8) (level : Nat)
  | stage2 (cause : BitVec 8) (ipa level : Nat)
deriving DecidableEq, Repr

/-- PAGE_FAULT. -/
abbrev cPage : BitVec 8 := 0x05
/-- ACCESS_FAULT. -/
abbrev cAccess : BitVec 8 := 0x06
/-- ENGINE_PERMISSION. -/
abbrev cEngine : BitVec 8 := 0x07

/-- Fields of an entry (R326). -/
def entV (e : W64) : Bool := bit e 0
/-- A leaf. -/
def entLeaf (e : W64) : Bool := bit e 1
/-- R, W and X. -/
def entR (e : W64) : Bool := bit e 2
/-- W. -/
def entW (e : W64) : Bool := bit e 3
/-- X. -/
def entX (e : W64) : Bool := bit e 4
/-- Memory type. -/
def entType (e : W64) : Nat := field e 8 2
/-- The frame or table address. -/
def entFrame (e : W64) : Nat := field e 16 36 * 65536
/-- The frame has a registered mirror, in a leaf of stage 2. -/
def entMirror (e : W64) : Bool := bit e 55
/-- Host bias, in a leaf of stage 1. -/
def entBias (e : W64) : Bool := bit e 54
/-- The permission of a port's emask bit (R327). -/
def entMask (e : W64) (b : Nat) : Bool := bit e (56 + b)

/-- The three levels with their shifts (R325). -/
def levels : List (Nat × Nat) := [(1, 42), (2, 29), (3, 16)]

/-- A large frame whose low bits are not zero, for a leaf at a level (R326). -/
def frameMisaligned (e : W64) (shift : Nat) : Bool := decide (entFrame e % 2 ^ shift ≠ 0)

/-- A walk down from a table: `loc` finds where a table lies, or faults; the entry read is invalid, malformed, a leaf
or the next table. -/
def walk (s : State) (loc : Nat → Nat → Leaf) (addr : Nat) : Nat → List (Nat × Nat) → Leaf
  | _, [] => .fault cAccess 3
  | table, (lv, sh) :: rest =>
    match loc (table + 8 * (addr / 2 ^ sh % 8192)) lv with
    | .fault c l => .fault c l
    | .stage2 c i l => .stage2 c i l
    | .ok _ at_ _ _ =>
      match soundWord s at_ with
      | none => .fault cAccess lv
      | some e =>
        if !entV e then .fault cPage lv
        else if entLeaf e then
          if entType e = 3 || frameMisaligned e sh then .fault cAccess lv else .ok e at_ lv sh
        else if lv = 3 then .fault cAccess 3
        else walk s loc addr (entFrame e) rest

/-- A stage-2 table lies where its entry says, in memory of the package (R199, R328). -/
def tableAt (s : State) (a lv : Nat) : Leaf :=
  if isPackageMem s a then .ok 0 a lv 0 else .fault cAccess lv

/-- The stage-2 walk of an intermediate address (R328). -/
def walk2 (s : State) (v ipa : Nat) : Leaf :=
  walk s (tableAt s) (ipa % 2 ^ 52) ((getFctx s v).s2root / 65536 * 65536) levels

/-- The physical address a leaf gives. -/
def leafPa (e : W64) (shift a : Nat) : Nat := entFrame e / 2 ^ shift * 2 ^ shift + a % 2 ^ shift

/-- A finished translation: the address, its memory type, its bias, the mirror bit and the two leaf entries with the bits
that the stage-1 leaf maps and the level of the stage-2 leaf (R328). -/
structure Trans where
  pa : Nat := 0
  mtype : Nat := 0
  host : Bool := false
  mirror : Bool := false
  shift : Nat := 16
  level : Nat := 3
  e1 : Option Nat := none
  e2 : Nat := 0
deriving DecidableEq, Repr

/-- What a translation finds: an address, a fault for the function with its level (R334), or a stage-2 fault for the
PF (R336). -/
inductive Xl where
  | ok (t : Trans)
  | fault (cause : BitVec 8) (level : Nat)
  | stage2 (cause : BitVec 8) (ipa level : Nat) (inWalk : Bool)
deriving DecidableEq, Repr

/-- Permissions at a leaf: reads need R, writes W, fetch X; then the emask bits (R217, R327). -/
def permFault (e : W64) (rd wr ex : Bool) (masks : List Nat) : Option (BitVec 8) :=
  if (rd && !entR e) || (wr && !entW e) || (ex && !entX e) then some cAccess
  else if masks.any fun b => !entMask e b then some cEngine
  else none

/-- The emask bit of a port (R327, R334): CC data and fetch share bit 56. -/
def portMask (port : Nat) : Nat :=
  match port with
  | 1 => 1
  | 2 => 2
  | 3 => 6
  | 4 => 7
  | 5 => 4
  | 6 => 3
  | 7 => 5
  | _ => 0

/-- Stage 2 of a translation, with the permissions the access needs (R328). -/
def stage2 (s : State) (v ipa : Nat) (rd wr ex : Bool) (masks : List Nat) : Xl :=
  match walk2 s v ipa with
  | .fault c l => .stage2 c ipa l false
  | .stage2 c i l => .stage2 c i l false
  | .ok e at_ lv sh =>
    let pa := leafPa e sh ipa
    if !populated s pa then .stage2 cAccess ipa lv false
    else
      let masks := if masks != [] && isFar pa then masks ++ [7] else masks
      match permFault e rd wr ex masks with
      | some c => .stage2 c ipa lv false
      | none => .ok { pa := pa, mtype := entType e, mirror := entMirror e, level := lv, e1 := none, e2 := at_ }

/-- A translation by stage 2 alone, of an intermediate address: every walk refuses another function's pool and node area
(R241, R328, R337). -/
def xlatIpa (s : State) (v ipa : Nat) (rd wr ex : Bool) (masks : List Nat) : Xl :=
  match stage2 s v ipa rd wr ex masks with
  | .ok t => if poolForeign s v t.pa then .stage2 cAccess ipa t.level false else .ok t
  | x => x

/-- A stage-1 table entry's place: its IPA translated by stage 2, in memory of the package (R199, R328). -/
def table1At (s : State) (v a lv : Nat) : Leaf :=
  match xlatIpa s v a true false false [] with
  | .ok t => if isPackageMem s t.pa && t.mtype != 2 then .ok 0 t.pa lv 0 else .fault cAccess lv
  | .fault c l => .fault c l
  | .stage2 c i l _ => .stage2 c i l

/-- The type of two leaves together (R328). -/
def combineType (a b : Nat) : Nat := if a = 2 ∨ b = 2 then 2 else if a = 0 ∨ b = 0 then 0 else 1

/-- The stage-1 level-1 table of an ASID (R331). -/
def asidRoot (s : State) (v asid : Nat) : Leaf :=
  let x := getFctx s v
  match table1At s v (x.asidtab + 16 * (asid - x.asidbase)) 0 with
  | .fault c _ => .fault c 0
  | .stage2 c i l => .stage2 c i l
  | .ok _ at_ _ _ =>
    match soundWord s at_ with
    | none => .fault cAccess 0
    | some e => if bit e 0 then .ok e at_ 0 0 else .fault cPage 0

/-- The translation of a virtual address for an access of a port (R325 to R337): `masks` empty for none. -/
def translate (s : State) (v asid va : Nat) (rd wr ex : Bool) (masks : List Nat) : Xl :=
  if 2 ^ 55 ≤ va then .fault cAccess 0
  else
    match asidRoot s v asid with
    | .fault c l => .fault c l
    | .stage2 c i l => .stage2 c i l true
    | .ok root _ _ _ =>
      match walk s (table1At s v) va (entFrame root) levels with
      | .fault c l => .fault c l
      | .stage2 c i l => .stage2 c i l true
      | .ok e at_ lv sh =>
        let ipa := leafPa e sh va
        match stage2 s v ipa false false false [] with
        | .fault c l => .fault c l
        | .stage2 c i l w => .stage2 c i l w
        | .ok t =>
          let masks := if isFar t.pa && masks != [] then masks ++ [7] else masks
          if poolRefused s v asid t.pa then .fault cAccess lv
          else
            match permFault e rd wr ex masks with
            | some c => .fault c lv
            | none =>
              match stage2 s v ipa rd wr ex masks with
              | .fault c l => .fault c l
              | .stage2 c i l w => .stage2 c i l w
              | .ok t =>
                .ok { t with mtype := combineType (entType e) t.mtype, shift := sh,
                             host := isHostMem t.pa && (entBias e || !linkIsCxl s t.pa), e1 := some at_ }

/-! ### Memory outside the package -/

/-- An address whose memory answers from outside: far memory, and the host memory of a link without CXL, which is always in
host bias. A leaf of stage 2 has no bias, and with CXL the page is taken in device bias (R212, R326; assumption 59). -/
def isOutside (s : State) (t : Trans) : Bool := isFar t.pa || (isHostMem t.pa && !linkIsCxl s t.pa)

/-- A far address whose target is down (R344). -/
def targetDown (s : State) (pa : Nat) : Bool := isFar pa && !(getPod s (farTarget pa)).up

/-- What a request of function `v` carries: the target's incarnation, the source package, the function, which is its requester
ID on a host link, and its tenant key (R342, R345). -/
def stampRequest (s : State) (v : Nat) (it : FarItem) : FarItem :=
  { it with inc := (getPod s (farTarget it.pa)).inc, src := Config.pkg.toNat, vf := v, tkey := (getFctx s v).tkey }

/-- A request that leaves the package at once. -/
def outRequest (s : State) (v : Nat) (it : FarItem) : State := { s with farSent := s.farSent ++ [stampRequest s v it] }

/-- One atomic OR into an entry (R329). -/
def orEntry (s : State) (a bits_ : Nat) : State :=
  match soundWord s a with
  | none => s
  | some e =>
    if (e &&& BitVec.ofNat 64 bits_) = BitVec.ofNat 64 bits_ then s
    else writePhys s a (toBytes 8 (e ||| BitVec.ofNat 64 bits_)) false {}

/-- A, and D for a write, set in each leaf that the access used (R329). -/
def touchLeaves (s : State) (t : Trans) (write : Bool) : State :=
  let b := if write then 0xC0 else 0x40
  let s := match t.e1 with
    | some a => orEntry s a b
    | none => s
  orEntry s t.e2 b

/-- cr.einfo of a translation fault (R334). -/
def xlInfo (port level : Nat) (write : Bool) (va : Nat) : W64 :=
  BitVec.ofNat 64 (port * 2 ^ 60 + level * 2 ^ 57 + write.toNat * 2 ^ 56 + va % 2 ^ 55)

/-- Addresses of the parts of an access: one event within a 32-byte sector, else one per 16-byte granule, ascending
(R200). -/
def splitAccess : Nat → Nat → Nat → List (Nat × Nat)
  | 0, _, _ => []
  | fuel + 1, a, n =>
    if n = 0 then []
    else
      let m := min n (16 - a % 16)
      (a, m) :: splitAccess fuel (a + m) (n - m)

/-- The events of a scalar access (R200). -/
def eventsOf (a n : Nat) : List (Nat × Nat) :=
  if a / 32 = (a + n - 1) / 32 ∧ n ≤ 16 then [(a, n)] else splitAccess n a n

end Sys2Proof.Machine
end

