-- ==== Sys2Proof/Machine/Scalar.lean ====
section
/-! DEFINITION. The scalar integer, selection, predicate, immediate and address instructions (R106 to R113). -/

namespace Sys2Proof.Machine

open Sys2Proof

/-- What a slot's meaning answers. -/
abbrev Out := Host.Outcome State Fault Refusal

/-- What stops a bundle at issue before any of its slots acts: a trap of the kind Issue, or a stage-2 fault, which the
function never sees (R336, R352). -/
inductive Block where
  | trap (t : PTrap)
  | s2 (f : S2Fault)
deriving DecidableEq, Repr

/-- A trap of the kind Issue, taken by the slot being performed: cr.epc holds the bundle's address and cr.eslot the
slot (R352). -/
def trapNow (s : State) (t : PTrap) : State :=
  onCur s fun k => takeTrap k { t with eslot := BitVec.ofNat 2 s.ctx.slot } s.ctx.pc

/-- `write_scalar` of a result formed on the width that the width field selects (R106). -/
def atWidth (width : BitVec 2) (g : (w : Nat) → BitVec w → BitVec w → BitVec w) (x y : W64) : W64 :=
  if width = 1 then (g 32 (x.setWidth 32) (y.setWidth 32)).signExtend 64 else g 64 x y

/-- A three-operand form of R107 or a bit-group form of R108. -/
def aluA (g : (w : Nat) → BitVec w → BitVec w → BitVec w) (f : Frame) (o : OpA) (s : State) : State :=
  whenPred f s (putS s o.dst (atWidth o.width g (srcS s o.a) (srcS s o.b)))

/-- A form with no 32-bit form: `.w` falls back to 64 bits (R106). -/
def alu64 (g : W64 → W64 → W64) (f : Frame) (o : OpA) (s : State) : State :=
  whenPred f s (putS s o.dst (g (srcS s o.a) (srcS s o.b)))

/-- `.n` of a form with a signed and a natural choice (R73). -/
def isNat (o : OpA) : Bool := o.fn.extractLsb' 0 2 = 1#2

/-- ADD (R107). -/
def execAdd (f : Frame) (o : OpA) (s : State) : Out := .next (aluA (fun _ x y => x + y) f o s)

/-- SUB (R107). -/
def execSub (f : Frame) (o : OpA) (s : State) : Out := .next (aluA (fun _ x y => x - y) f o s)

/-- MUL (R107). -/
def execMul (f : Frame) (o : OpA) (s : State) : Out := .next (aluA (fun _ x y => x * y) f o s)

/-- The high half of the exact product (R107). -/
def mulHigh (nat : Bool) (w : Nat) (x y : BitVec w) : BitVec w :=
  if nat then BitVec.ofNat w (x.toNat * y.toNat / 2 ^ w) else BitVec.ofInt w (x.toInt * y.toInt / (2 ^ w : Int))

/-- MULH (R107). -/
def execMulh (f : Frame) (o : OpA) (s : State) : Out := .next (aluA (mulHigh (isNat o)) f o s)

/-- The quotient truncated toward zero, wrapped (R109). -/
def divide (nat : Bool) (w : Nat) (x y : BitVec w) : BitVec w :=
  if nat then BitVec.ofNat w (x.toNat / y.toNat) else BitVec.ofInt w (x.toInt.tdiv y.toInt)

/-- The remainder, with the sign of the dividend (R107, R109). -/
def remainder (nat : Bool) (w : Nat) (x y : BitVec w) : BitVec w :=
  if nat then BitVec.ofNat w (x.toNat % y.toNat) else BitVec.ofInt w (x.toInt.tmod y.toInt)

/-- INT_DIVIDE_ZERO: the divisor is 0 on the bits that the operation reads (R109). -/
def divFault (f : Frame) (o : OpA) (s : State) : Option Block :=
  if predOk s f && decide (atWidth o.width (fun _ _ y => y) 0 (srcS s o.b) = 0) then
    some (.trap { cause := 0x17, einfo := srcS s o.a })
  else none

/-- A form that may be stopped as its bundle issues, before any slot acts. -/
def orBlock (s : State) (b : Option Block) (ok : State) : State :=
  match b with
  | some (.trap t) => trapNow s t
  | some (.s2 f) => onCur s fun k => { k with s2fault := some f }
  | none => ok

/-- PRIVILEGED: a supervisor-only instruction at task level, whatever its predicate (R61). -/
def supBlock (s : State) : Option Block :=
  if stPL s.ctx.old.cr.status = 1 then none else some (.trap { cause := 0x03, einfo := s.ctx.word })

/-- DIV (R109). -/
def execDiv (f : Frame) (o : OpA) (s : State) : Out :=
  .next (orBlock s (divFault f o s) (aluA (divide (isNat o)) f o s))

/-- REM (R109). -/
def execRem (f : Frame) (o : OpA) (s : State) : Out :=
  .next (orBlock s (divFault f o s) (aluA (remainder (isNat o)) f o s))

/-- AND (R107). -/
def execAnd (f : Frame) (o : OpA) (s : State) : Out := .next (alu64 (fun x y => x &&& y) f o s)

/-- OR (R107). -/
def execOr (f : Frame) (o : OpA) (s : State) : Out := .next (alu64 (fun x y => x ||| y) f o s)

/-- XOR (R107). -/
def execXor (f : Frame) (o : OpA) (s : State) : Out := .next (alu64 (fun x y => x ^^^ y) f o s)

/-- ANDN (R107). -/
def execAndn (f : Frame) (o : OpA) (s : State) : Out := .next (alu64 (fun x y => x &&& ~~~y) f o s)

/-- The shift amount: the low log2(w) bits of y (R107). -/
def shAmt (w : Nat) (y : BitVec w) : Nat := y.toNat % w

/-- SHL (R107). -/
def execShl (f : Frame) (o : OpA) (s : State) : Out := .next (aluA (fun w x y => x <<< shAmt w y) f o s)

/-- SHR (R107). -/
def execShr (f : Frame) (o : OpA) (s : State) : Out := .next (aluA (fun w x y => x >>> shAmt w y) f o s)

/-- SRA (R107). -/
def execSra (f : Frame) (o : OpA) (s : State) : Out := .next (aluA (fun w x y => x.sshiftRight (shAmt w y)) f o s)

/-- ROR (R107). -/
def execRor (f : Frame) (o : OpA) (s : State) : Out := .next (aluA (fun w x y => x.rotateRight (shAmt w y)) f o s)

/-- x′ ≤ y′ (R107). -/
def leBy (nat : Bool) {w : Nat} (x y : BitVec w) : Bool :=
  if nat then decide (x.toNat ≤ y.toNat) else decide (x.toInt ≤ y.toInt)

/-- MIN (R107). -/
def execMin (f : Frame) (o : OpA) (s : State) : Out :=
  .next (aluA (fun _ x y => if leBy (isNat o) x y then x else y) f o s)

/-- MAX (R107). -/
def execMax (f : Frame) (o : OpA) (s : State) : Out :=
  .next (aluA (fun _ x y => if leBy (isNat o) x y then y else x) f o s)

/-- Zero bits above the highest set bit (R108). -/
def countLead (w : Nat) (x : BitVec w) : Nat := ((List.range w).takeWhile fun i => !x.getLsbD (w - 1 - i)).length

/-- Zero bits below the lowest set bit (R108). -/
def countTrail (w : Nat) (x : BitVec w) : Nat := ((List.range w).takeWhile fun i => !x.getLsbD i).length

/-- Set bits (R108). -/
def popCount (w : Nat) (x : BitVec w) : Nat := ((List.range w).filter fun i => x.getLsbD i).length

/-- CLZ (R108). -/
def execClz (f : Frame) (o : OpA) (s : State) : Out :=
  .next (aluA (fun w x _ => BitVec.ofNat w (countLead w x)) f o s)

/-- CTZ (R108). -/
def execCtz (f : Frame) (o : OpA) (s : State) : Out :=
  .next (aluA (fun w x _ => BitVec.ofNat w (countTrail w x)) f o s)

/-- POPC (R108). -/
def execPopc (f : Frame) (o : OpA) (s : State) : Out :=
  .next (aluA (fun w x _ => BitVec.ofNat w (popCount w x)) f o s)

/-- x with bit i moved to bit w − 1 − i (R108). -/
def bitReverse (w : Nat) (x : BitVec w) : BitVec w :=
  BitVec.ofNat w (((List.range w).map fun i => if x.getLsbD i then 2 ^ (w - 1 - i) else 0).sum)

/-- BREV (R108). -/
def execBrev (f : Frame) (o : OpA) (s : State) : Out := .next (aluA (fun w x _ => bitReverse w x) f o s)

/-- BSWAP (R108). -/
def execBswap (f : Frame) (o : OpA) (s : State) : Out :=
  .next (aluA (fun w x _ => ofBytes w (toBytes (w / 8) x).reverse) f o s)

/-- The condition codes of R50 on 64-bit values. -/
def condHolds (c : Nat) (x y : W64) : Bool :=
  match c with
  | 0 => decide (x = y)
  | 1 => decide (x ≠ y)
  | 2 => decide (x.toInt < y.toInt)
  | 3 => decide (y.toInt ≤ x.toInt)
  | 4 => decide (x.toNat < y.toNat)
  | 5 => decide (y.toNat ≤ x.toNat)
  | _ => true

/-- SEL (R110). -/
def execSel (f : Frame) (o : OpA) (s : State) : Out :=
  .next (alu64 (fun x y => if srcP s (o.fn.toNat % 8) then x else y) f o s)

/-- SETC (R110). -/
def execSetc (f : Frame) (o : OpA) (s : State) : Out :=
  .next (alu64 (fun x y => if condHolds (o.fn.toNat % 8) x y then 1 else 0) f o s)

/-- CMP (R110); pdst stands in bits 31:29 (R50). -/
def execCmp (f : Frame) (o : OpC) (s : State) : Out :=
  .next (whenPred f s (putP s (field o.disp 29 3) (condHolds o.cond.toNat (srcS s o.a) (srcS s o.b))))

/-- A predicate form: only bits 2:0 of each name are read (R73, R111). -/
def plogA (g : Bool → Bool → Bool) (f : Frame) (o : OpA) (s : State) : State :=
  whenPred f s (putP s (o.dst.toNat % 8) (g (srcP s (o.a.toNat % 8)) (srcP s (o.b.toNat % 8))))

/-- PAND (R111). -/
def execPand (f : Frame) (o : OpA) (s : State) : Out := .next (plogA (fun a b => a && b) f o s)

/-- POR (R111). -/
def execPor (f : Frame) (o : OpA) (s : State) : Out := .next (plogA (fun a b => a || b) f o s)

/-- PXOR (R111). -/
def execPxor (f : Frame) (o : OpA) (s : State) : Out := .next (plogA (fun a b => a != b) f o s)

/-- PNOT (R111). -/
def execPnot (f : Frame) (o : OpA) (s : State) : Out := .next (plogA (fun a _ => !a) f o s)

/-- The immediate of a format I slot: its own or the bundle's lit32 (R45, R49). -/
def immOf (s : State) (o : OpI) : W32 := if o.lit then s.ctx.lit else o.imm

/-- ADDI (R112). -/
def execAddi (f : Frame) (o : OpI) (s : State) : Out :=
  .next (whenPred f s (putS s o.dst
    (atWidth o.sel (fun _ x y => x + y) (srcS s o.a) ((immOf s o).signExtend 64))))

/-- A logical immediate form (R112). -/
def logI (g : W64 → W64 → W64) (f : Frame) (o : OpI) (s : State) : State :=
  whenPred f s (putS s o.dst (g (srcS s o.a) ((immOf s o).signExtend 64)))

/-- ANDI (R112). -/
def execAndi (f : Frame) (o : OpI) (s : State) : Out := .next (logI (fun x y => x &&& y) f o s)

/-- ORI (R112). -/
def execOri (f : Frame) (o : OpI) (s : State) : Out := .next (logI (fun x y => x ||| y) f o s)

/-- XORI (R112). -/
def execXori (f : Frame) (o : OpI) (s : State) : Out := .next (logI (fun x y => x ^^^ y) f o s)

/-- A shift by imm32<5:0>, or imm32<4:0> under `.w` (R112). -/
def shiftI (g : (w : Nat) → BitVec w → Nat → BitVec w) (f : Frame) (o : OpI) (s : State) : State :=
  whenPred f s (putS s o.dst
    (atWidth o.sel (fun w x y => g w x (y.toNat % w)) (srcS s o.a) ((o.imm.extractLsb' 0 6).setWidth 64)))

/-- SHLI (R112). -/
def execShli (f : Frame) (o : OpI) (s : State) : Out := .next (shiftI (fun _ x n => x <<< n) f o s)

/-- SHRI (R112). -/
def execShri (f : Frame) (o : OpI) (s : State) : Out := .next (shiftI (fun _ x n => x >>> n) f o s)

/-- SRAI (R112). -/
def execSrai (f : Frame) (o : OpI) (s : State) : Out := .next (shiftI (fun _ x n => x.sshiftRight n) f o s)

/-- LI (R112). -/
def execLi (f : Frame) (o : OpI) (s : State) : Out :=
  .next (whenPred f s (putS s o.dst ((immOf s o).signExtend 64)))

/-- LIH: bits 31:0 keep their value from before the bundle (R112). -/
def execLih (f : Frame) (o : OpI) (s : State) : Out :=
  .next (whenPred f s (putS s o.dst (immOf s o ++ (srcS s o.dst).extractLsb' 0 32)))

/-- The effective address of format M (R51), modulo 2^64. -/
def eaM (s : State) (o : OpM) : W64 :=
  srcS s o.base + (srcS s o.index <<< o.scale.toNat) + o.disp.signExtend 64

/-- The effective address of CAS and AMOBND: no index (R217). -/
def eaM2 (s : State) (o : OpM) : W64 := srcS s o.base + o.disp.signExtend 64

/-- The effective address s[y] + sign_extend(imm20, 20) of format Y. -/
def eaY (s : State) (o : OpY) : W64 := srcS s o.y + o.imm.signExtend 64

/-- LEA (R113). -/
def execLea (f : Frame) (o : OpM) (s : State) : Out := .next (whenPred f s (putS s o.data (eaM s o)))

/-- NOP (R43, R63). -/
def execNop (_ : BitVec 56) (s : State) : Out := .next s

end Sys2Proof.Machine
end

