-- ==== Sys2Proof/Machine/Mem.lean ====
section
/-! DEFINITION. The scalar memory and atomic instructions and the fences (R217 to R229): their checks as the bundle
issues, the entries they make in the program buffer, and the events those entries perform. -/

namespace Sys2Proof.Machine

open Sys2Proof

/-! ### The program buffer -/

/-- The current core with its registers as they stood before the bundle (R57). -/
def oldCore (s : State) : Core := { cc s with regs := s.ctx.old }

/-- The slot in issue places an entry at the tail of its program buffer (R201). -/
def enbuf (s : State) (holds : Bool) (ev : Ev) : State :=
  onCur s fun k => { k with buf := k.buf ++
    [{ slot := s.ctx.slot, word := s.ctx.word, ev := ev, asid := asidOf s (oldCore s), holds := holds,
       sup := isSup (oldCore s), depth := if isSup (oldCore s) then (cc s).depth else 0 }] }

/-- A form that writes scalar `n` when its result returns (R58, R221). -/
def lateS (s : State) (n : Nat) : State := noteWrite s 0 n

/-! ### Checks at issue (R217 to R219) -/

/-- The PageFault-kind of a translation as a block, with the port and address of R334. -/
def xlBlock (port : Nat) (write : Bool) (va : Nat) : Xl → Option Block
  | .ok _ => none
  | .fault c l => some (.trap { cause := c, einfo := xlInfo port l write va })
  | .stage2 c i l w => some (.s2 { port := port, cause := c, level := l, ipa := i, va := if w then 0 else va })

/-- The addresses at which an access first touches each page: at most two for a scalar access. -/
def pageStarts (a n : Nat) : List Nat :=
  if a / 65536 = (a + n - 1) / 65536 then [a] else [a, (a + n - 1) / 65536 * 65536]

/-- ACCESS_FAULT raised without translation (R334). -/
def accessTrap (va : Nat) : Option Block := some (.trap { cause := cAccess, einfo := BitVec.ofNat 64 (va % 2 ^ 55) })

/-- The first block of a list of checks. -/
def firstBlock : List (Option Block) → Option Block
  | [] => none
  | some b :: _ => some b
  | none :: t => firstBlock t

/-- What an access may not do at its target (R219, R344): forms on device pages, flags, host-bias pages and down
targets. -/
def targetBlock (s : State) (kind : AccKind) (ea size : Nat) (t : Trans) : Option Block :=
  let plain := match kind with
    | .ld _ => true
    | .st => true
    | _ => false
  let isAmo := match kind with
    | .amo _ => true
    | _ => false
  let atomic := match kind with
    | .amo _ => true
    | .cas => true
    | .bnd => true
    | _ => false
  if isFlagPage t.pa then
    if (plain || isAmo) && isFlagWord t.pa size then none else accessTrap ea
  else if t.mtype = 2 && !isFar t.pa && atomic then accessTrap ea
  else if t.mtype = 2 && plain && decide (ea % size ≠ 0) then accessTrap ea
  else if t.host && atomic then accessTrap ea
  else if isFar t.pa && !(getPod s (farTarget t.pa)).up then
    some (.trap { cause := 0x11, einfo := BitVec.ofNat 64 (ea % 2 ^ 55) })
  else none

/-- The order of the checks of R217. A page that the PF has to answer for comes after PAGE_FAULT alone. -/
def blockRank (b : Block) : Nat :=
  match b with
  | .s2 _ => 1
  | .trap t => if t.cause = cPage then 0 else if t.cause = cAccess then 2 else if t.cause = cEngine then 3 else 4

/-- The block that comes first in the order of R217; the lower page's, of two alike. -/
def rankedBlock (l : List (Option Block)) : Option Block :=
  l.foldl (fun (best x : Option Block) =>
    match best, x with
    | some a, some b => if blockRank b < blockRank a then some b else some a
    | none, b => b
    | a, none => a) none

/-- The checks of one scalar access as its bundle issues: every page it touches, with R and W as it needs, what its target
forbids, and the CC bit (R217, R219). -/
def accessBlock (s : State) (asid : Nat) (kind : AccKind) (ea size : Nat) (rd wr : Bool) : Option Block :=
  let at_ := fun (a : Nat) (masks : List Nat) => translate s (vmid (cc s)) asid a rd wr false masks
  rankedBlock ((pageStarts ea size).flatMap fun a =>
    [xlBlock 0 wr ea (at_ a [0]),
     match at_ a [] with
      | .ok t => targetBlock s kind ea size t
      | _ => none])

/-- ALIGNMENT comes first, with the effective address, whose bits 63:55 are left zero since nothing is translated (R217, R218,
R334, R352). -/
def alignBlock (ea size : Nat) : Option Block :=
  if ea % size ≠ 0 then some (.trap { cause := 0x18, einfo := BitVec.ofNat 64 (ea % 2 ^ 55) }) else none

/-- Bytes of a size code (R51). -/
def sizeOf (c : BitVec 3) : Nat := 2 ^ c.toNat

/-- The block of LD, ST and the atomics, at their effective address. -/
def memBlock (f : Frame) (s : State) (kind : AccKind) (ea : W64) (size : Nat) (rd wr atomic : Bool) : Option Block :=
  if !predOk s f then none
  else firstBlock [if atomic then alignBlock ea.toNat size else none,
                   accessBlock s (asidOf s (oldCore s)) kind ea.toNat size rd wr]

/-! ### The instructions -/

/-- The pair sP and sP+1, P the field with bit 0 cleared (R221). -/
def pairOf (s : State) (n : BitVec 6) : BitVec 128 :=
  rdS s.ctx.old (n.toNat / 2 * 2 + 1) ++ rdS s.ctx.old (n.toNat / 2 * 2)

/-- The data operand of a store or atomic at a size. -/
def dataOf (s : State) (n : BitVec 6) (size : Nat) : BitVec 128 :=
  if size = 16 then pairOf s n else (srcS s n).setWidth 128

/-- The destination is noted for R58: one scalar, or the two of a pair. -/
def lateData (s : State) (n : BitVec 6) (size : Nat) : State :=
  if size = 16 then lateS (lateS s (n.toNat / 2 * 2)) (n.toNat / 2 * 2 + 1) else lateS s n.toNat

/-- An odd field of a pair sets W_FALLBACK (R221, R223). -/
def oddWarn (s : State) (size : Nat) (n : BitVec 6) : State := warnIf s (decide (size = 16) && bit n 0) wFallback

/-- LD.i on a load of 1, 2 or 4 bytes (R75). -/
def ldSigned (o : OpM) : Bool := decide (o.amo = 1) && decide (o.size.toNat ≤ 2)

/-- LD's block at issue. -/
def ldBlock (f : Frame) (o : OpM) (s : State) : Option Block :=
  memBlock f s (.ld (ldSigned o)) (eaM s o) (sizeOf o.size) true false false

/-- LD (R221): the access enters the program buffer; its value returns later. -/
def execLd (f : Frame) (o : OpM) (s : State) : Out :=
  .next (orBlock s (ldBlock f o s) (whenPred f s
    (lateData (enbuf (oddWarn s (sizeOf o.size) o.data) false (.access
      { kind := .ld (ldSigned o), ea := (eaM s o).toNat, size := sizeOf o.size, dst := o.data.toNat }))
      o.data (sizeOf o.size))))

/-- ST's block at issue. -/
def stBlock (f : Frame) (o : OpM) (s : State) : Option Block :=
  memBlock f s .st (eaM s o) (sizeOf o.size) false true false

/-- ST (R221). -/
def execSt (f : Frame) (o : OpM) (s : State) : Out :=
  .next (orBlock s (stBlock f o s) (whenPred f s
    (enbuf (oddWarn s (sizeOf o.size) o.data) false (.access
      { kind := .st, ea := (eaM s o).toNat, size := sizeOf o.size,
        x := (dataOf s o.data (sizeOf o.size)).setWidth 512 }))))

/-- AMO's block at issue. -/
def amoBlock (f : Frame) (o : OpM) (s : State) : Option Block :=
  memBlock f s (.amo o.amo) (eaM s o) (sizeOf o.size) true true true

/-- AMO (R222). -/
def execAmo (f : Frame) (o : OpM) (s : State) : Out :=
  .next (orBlock s (amoBlock f o s) (whenPred f s
    (lateData (enbuf s false (.access
      { kind := .amo o.amo, ea := (eaM s o).toNat, size := sizeOf o.size, dst := o.data.toNat,
        x := (dataOf s o.data (sizeOf o.size)).setWidth 512 })) o.data (sizeOf o.size))))

/-- CAS's block at issue. -/
def casBlock (f : Frame) (o : OpM) (s : State) : Option Block :=
  memBlock f s .cas (eaM2 s o) (sizeOf o.size) true true true

/-- CAS (R223): the index field names the new value. -/
def execCas (f : Frame) (o : OpM) (s : State) : Out :=
  .next (orBlock s (casBlock f o s) (whenPred f s
    (lateData (enbuf (oddWarn (oddWarn s (sizeOf o.size) o.data) (sizeOf o.size) o.index) false (.access
      { kind := .cas, ea := (eaM2 s o).toNat, size := sizeOf o.size, dst := o.data.toNat,
        x := (dataOf s o.data (sizeOf o.size)).setWidth 512, y := dataOf s o.index (sizeOf o.size) }))
      o.data (sizeOf o.size))))

/-- AMOBND's block at issue. -/
def amobndBlock (f : Frame) (o : OpM) (s : State) : Option Block :=
  memBlock f s .bnd (eaM2 s o) (sizeOf o.size) true true true

/-- AMOBND (R224). -/
def execAmobnd (f : Frame) (o : OpM) (s : State) : Out :=
  .next (orBlock s (amobndBlock f o s) (whenPred f s
    (lateData (enbuf s false (.access
      { kind := .bnd, ea := (eaM2 s o).toNat, size := sizeOf o.size, dst := o.data.toNat,
        x := (dataOf s o.data (sizeOf o.size)).setWidth 512, y := dataOf s o.index (sizeOf o.size) }))
      o.data (sizeOf o.size))))

/-- PREF performs no event, changes no value and never faults (R225). -/
def execPref (_ : Frame) (_ : OpM) (s : State) : Out := .next s

/-- FFENCE (R227). -/
def execFfence (f : Frame) (o : OpY) (s : State) : Out :=
  .next (whenPred f s (lateS (enbuf s true (.ffence o.x.toNat none)) o.x.toNat))

/-- DRAIN chN (R226): the channel stands in imm20<2:0>. -/
def execDrain (f : Frame) (o : OpY) (s : State) : Out :=
  .next (whenPred f s (enbuf s true (.drain (some (o.imm.toNat % 8)))))

/-- DRAIN.all (R226). -/
def execDrainAll (f : Frame) (_ : OpY) (s : State) : Out := .next (whenPred f s (enbuf s true (.drain none)))

/-- IFENCE (R228). -/
def execIfence (f : Frame) (_ : OpY) (s : State) : Out := .next (whenPred f s (enbuf s true .ifence))

/-- BIASFLIP's block: the leaf must map host memory, and device bias needs a CXL link (R229). -/
def biasBlock (toHost : Bool) (f : Frame) (o : OpY) (s : State) : Option Block :=
  if (supBlock s).isSome then supBlock s
  else if !predOk s f then none
  else
    let ea := (eaY s o).toNat
    match translate s (vmid (cc s)) (asidOf s (oldCore s)) ea false false false [] with
    | .ok t =>
      if !isHostMem t.pa then accessTrap ea
      else if !toHost && !linkIsCxl s t.pa then accessTrap ea
      else none
    | x => xlBlock 0 false ea x

/-- BIASFLIP.host (R229). -/
def execBiasflipHost (f : Frame) (o : OpY) (s : State) : Out :=
  .next (orBlock s (biasBlock true f o s) (whenPred f s (enbuf s true (.biasflip true (eaY s o).toNat))))

/-- BIASFLIP.dev (R229). -/
def execBiasflipDev (f : Frame) (o : OpY) (s : State) : Out :=
  .next (orBlock s (biasBlock false f o s) (whenPred f s (enbuf s true (.biasflip false (eaY s o).toNat))))

/-! ### Events of scalar accesses -/

/-- The head of a core's buffer has left it. -/
def dropHead (s : State) (c : Nat) : State := onCore s c fun k => { k with buf := k.buf.tail }

/-- The head of a core's buffer changed. -/
def setHead (s : State) (c : Nat) (b : BufItem) : State := onCore s c fun k => { k with buf := b :: k.buf.tail }

/-- A value starts on its way to a register. -/
def pushRet (s : State) (c : Nat) (r : Ret) : State := onCore s c fun k => { k with rets := k.rets ++ [r] }

/-- The new value of an atomic, or none where it writes nothing (R222 to R224), and the value that was read. -/
def atomicNew (kind : AccKind) (size : Nat) (v x y : Nat) : Option Nat :=
  let m := 2 ^ (8 * size)
  let sg := fun a : Nat => if a < m / 2 then (a : Int) else (a : Int) - m
  match kind with
  | .amo op =>
    some <| match op.toNat with
    | 0 => (v + x) % m
    | 1 => v &&& x
    | 2 => v ||| x
    | 3 => v ^^^ x
    | 4 => if sg v ≤ sg x then v else x
    | 5 => if sg v ≤ sg x then x else v
    | 6 => min v x
    | 7 => max v x
    | _ => x
  | .cas => if v = x then some y else none
  | .bnd => if v + x ≤ y then some (v + x) else none
  | _ => none

/-- What an atomic's destination receives: `.w` with bit 31 copied upwards (R222). -/
def atomicRet (size v : Nat) : W512 :=
  if size = 4 then ((BitVec.ofNat 32 v).signExtend 64).setWidth 512 else BitVec.ofNat 512 v

/-- What a load's destination receives (R75, R221). -/
def loadRet (signed : Bool) (size v : Nat) : W512 :=
  if signed then ((BitVec.ofNat 512 v <<< (512 - 8 * size)).sshiftRight (512 - 8 * size)).setWidth 64 |>.setWidth 512
  else BitVec.ofNat 512 v

/-- The register that an access returns to. -/
def accessDest (a : Access) : Dest :=
  match a.kind with
  | .dld => .d a.dst
  | _ => if a.size = 16 then .pair (a.dst / 2 * 2) else .s a.dst

/-- POISON_CONSUMED of a finished access: einfo holds EA, or for DLD the poisoned granule, whose slot is named because
it holds issue (R116, R220, R421). -/
def poisonTrap (b : BufItem) (a : Access) : PTrap :=
  match a.kind with
  | .dld => { cause := 0x10, eslot := BitVec.ofNat 2 b.slot, einfo := BitVec.ofNat 64 a.poisonAt }
  | _ => { cause := 0x10, eslot := 0, einfo := BitVec.ofNat 64 a.ea }

/-- A finished access returns its value, or its trap (R220, R221). -/
def finishAccess (s : State) (c : Nat) (b : BufItem) (a : Access) : State :=
  let v := natOfBytes a.acc
  let trap := if a.poison then some (poisonTrap b a) else none
  match a.kind with
  | .st => s
  | .dst => s
  | .ld sg => pushRet s c { dest := accessDest a, val := loadRet sg a.size v, dead := b.dead, trap := trap }
  | .dld => pushRet s c { dest := accessDest a, val := BitVec.ofNat 512 v, dead := b.dead, trap := trap }
  | _ => pushRet s c { dest := accessDest a, val := atomicRet a.size v, dead := b.dead, trap := trap }

/-- An atomic at an HBM address is performed by the atomic unit of its base die, whose time advances (R214). -/
def stampAtomic (s : State) (pa : Nat) : State := if pa / 2 ^ 48 = 0 then stampUnit s (160 + pa / 2 ^ 37) else s

/-- The event of an atomic at a physical address: one read and, if it succeeds, one write; a poisoned read writes
nothing (R220, R222 to R224). -/
def atomicEvent (s : State) (c pa : Nat) (a : Access) : State × List Byte × Bool :=
  let x := a.x.toNat % 2 ^ (8 * a.size)
  let y := a.y.toNat % 2 ^ (8 * a.size)
  if isFlagPage pa then
    let (g, n) := flagAt pa
    let v := getFlag (getCore s g) n
    match atomicNew a.kind a.size v.bits.toNat x y with
    | some r => (if v.poison then s else onCore s g fun k => setFlag k n { bits := BitVec.ofNat 32 r } (sigOf s c 0),
                 toBytes 4 v.bits, v.poison)
    | none => (s, toBytes 4 v.bits, v.poison)
  else
    let (s, bytes, p) := readPhys (stampAtomic s pa) pa a.size {}
    match atomicNew a.kind a.size (natOfBytes bytes) x y with
    | some r => (if p then s else writePhys s pa (toBytes a.size (BitVec.ofNat 128 r)) false {}, bytes, p)
    | none => (s, bytes, p)

/-- An access to cacheable memory may miss in the caches of its core: whether it does is free, and counted (R321); one of the
L1 misses in L2 only if it misses in L1, which L2 includes. -/
def countMisses (c : Nat) (l1 : Bool) (s : State) : State :=
  let v := Config.freeValue s.free
  let miss1 := l1 && v.getLsbD 0
  let miss2 := v.getLsbD 1 && (miss1 || !l1)
  onCore { s with free := s.free + 1 } c fun k => bump (bump k 15 miss1.toNat) 17 miss2.toNat

/-- One event of a plain access at a physical address. The four events of a DST write a granule whole (R116, R385;
assumption 56). -/
def plainEvent (s : State) (c pa n : Nat) (mtype : Nat) (a : Access) : State × List Byte × Bool :=
  let store := a.kind = .st ∨ a.kind = .dst
  let bytes := (List.range n).map fun i => byteOf a.x (a.done + i)
  if isFlagPage pa then
    let (g, m) := flagAt pa
    if store then (onCore s g fun k => setFlag k m { bits := ofBytes 32 bytes } (sigOf s c 0), [], false)
    else
      let v := getFlag (getCore s g) m
      (s, toBytes 4 v.bits, v.poison)
  else if store then
    let s := if mtype = 2 then s else countMisses c true s
    let s := writePhys s pa bytes false { l1 := some c }
    let s := if a.kind = .dst ∧ a.done + n = 64 ∧ (pa + n) % 64 = 0 then cleanPz s (pa / 64) else s
    (if mtype = 2 then s else onCore s c fun k => { k with l1x := SMap.set (fun _ => false) k.l1x (pa / 64) true },
     [], false)
  else readPhys (if mtype = 2 then s else countMisses c true s) pa n { l1 := some c }

/-- The head access cannot be translated at its event: the fault is taken as R421 states, or the run is held (R336). -/
def eventBlock (s : State) (c : Nat) (b : BufItem) (bl : Block) : State :=
  match bl with
  | .trap t => dropHead (pendC s c { t with eslot := if b.holds then BitVec.ofNat 2 b.slot else 0 }) c
  | .s2 f => onCore s c fun k => { k with s2fault := some f }

/-- Far accesses that have been forwarded and not delivered. -/
def farCount (k : Core) : Nat := (k.far.map fun e => e.2.length).sum

/-- Memory requests that a core may have outstanding (R12). -/
abbrev requestLimit : Nat := 2048

/-- A far read of a SPAWN's image is under way. -/
def imagePending (k : Core) : Bool := k.far.any fun e => e.2.any fun it => decide (it.who = .image)

/-- Memory requests that stand in the program buffer or have been forwarded (R12; assumption 58). A SPAWN reads its image
granule by granule, so that it makes one at a time. -/
def outstanding (k : Core) : Nat :=
  farCount k + (k.buf.filter fun b => match b.ev with
    | .access a => !a.out
    | .spawn _ _ _ _ img _ _ => decide (img.length < 64) && !imagePending k
    | _ => false).length

/-- An engine's far access waits while the core has as many requests outstanding as it may (R12). -/
def farRoom (k : Core) : Bool := decide (outstanding k < requestLimit)

/-- A far or host-bias access moves to the tail of its far queue, with what its request carries of its source (R202, R342,
R345). -/
def forward (s : State) (c q : Nat) (it : FarItem) : State :=
  let v := vmid (getCore s c)
  onCore s c fun k =>
    let it := { stampRequest s v it with seq := k.farSeq }
    bump { k with far := SMap.set (fun _ => []) k.far q (SMap.get (fun _ => []) k.far q ++ [it]), farSeq := k.farSeq + 1 } 19 1

/-- An access to the address is forwarded into a far queue (R202, R212). -/
def goesOut (t : Trans) : Bool := isFar t.pa || t.host

/-- What of an access is forwarded together, from an address in far queue `q` with `n` bytes left: all of it, where it stays
in the page or crosses into one of the same queue, whose translation is then given; else what lies in the page
(R200, R202). -/
def forwardPart (s : State) (c q : Nat) (b : BufItem) (va n : Nat) (rd wr : Bool) : Nat × Option Trans :=
  let m := 65536 - va % 65536
  if n ≤ m then (n, none)
  else
    match translate s (vmid (getCore s c)) b.asid (va + m) rd wr false [0] with
    | .ok t => if goesOut t && decide (farQueue t.pa = q) then (n, some t) else (m, none)
    | _ => (m, none)

/-- FORWARD of a scalar access at the head of the buffer, which leaves it. One that crosses from a far queue elsewhere stands
there until its first part has been answered, and goes on then, so that its parts are performed in ascending order
(R200; assumption 58). -/
def forwardAccess (s : State) (c : Nat) (b : BufItem) (a : Access) (t : Trans) (va : Nat) (rd wr : Bool) : State :=
  let q := farQueue t.pa
  let part := forwardPart s c q b va (a.size - a.done) rd wr
  let s := match part.2 with
    | some u => touchLeaves s u wr
    | none => s
  let s := forward s c q
    { pa := t.pa, va := va, size := part.1, cross := part.2.map fun u => u.pa, write := wr && !rd, atomic := wr && rd,
      data := a.x >>> (8 * a.done), sig := sigOf s c 0, who := .core b a }
  if a.done + part.1 < a.size then setHead s c { b with ev := .access { a with out := true } } else dropHead s c

/-- PERFORM or FORWARD of a scalar access at the head of the buffer: its next event, or its move into its far queue
(R200, R202). -/
def performAccess (s : State) (c : Nat) (b : BufItem) (a : Access) : State :=
  match (eventsOf a.ea a.size).find? fun p => p.1 = a.ea + a.done with
  | none => dropHead (finishAccess s c b a) c
  | some (va, n) =>
    let wr := !(match a.kind with
      | .ld _ => true
      | .dld => true
      | _ => false)
    let rd := !(decide (a.kind = .st) || decide (a.kind = .dst))
    if a.out then s
    else
    match translate s (vmid (getCore s c)) b.asid va rd wr false [0] with
    | .ok t =>
      if needsRepair s t.pa then s
      else
        let s := touchLeaves s t wr
        if goesOut t then forwardAccess s c b a t va rd wr
        else
          let r := if wr && rd then atomicEvent s c t.pa a else plainEvent s c t.pa n t.mtype a
          let a := { a with done := a.done + n, acc := a.acc ++ r.2.1, poison := a.poison || r.2.2,
                            poisonAt := if r.2.2 && !a.poison then va / 16 * 16 else a.poisonAt }
          if a.size ≤ a.done then dropHead (finishAccess r.1 c b a) c
          else setHead r.1 c { b with ev := .access a }
    | x =>
      match xlBlock 0 wr a.ea x with
      | some bl => eventBlock s c b bl
      | none => s

/-- A returning scalar is written unless its value is discarded (R58). -/
def wrLate (r : Regs) (dead : List Nat) (n : Nat) (v : W64) : Regs := if dead.contains n then r else wrS r n v

/-- A returning value reaches its register (R58, R221). -/
def writeDest (r : Regs) (dead : List Nat) (d : Dest) (v : W512) : Regs :=
  match d with
  | .s n => wrLate r dead n (v.setWidth 64)
  | .pair n => wrLate (wrLate r dead n (v.extractLsb' 0 64)) dead (n + 1) (v.extractLsb' 64 64)
  | .d n => if dead.contains (64 + n) then r else wrD r n v

/-- Every agent of the core is frozen at a precise stop, or the core has failed: nothing of it moves (R322). -/
def standsStill (k : Core) : Bool := k.frozen || k.fenced

/-- No event of the control core is performed: it stands still, its run is held at stage 2, or it has no run. -/
def performStops (k : Core) : Bool := standsStill k || k.s2fault.isSome || decide (k.phase = .idle)

/-- LOAD_RETURN (R220, R221): the `i`-th returning value is written, discarded, or its trap made pending. -/
def execLoadReturn (c i : Nat) (s : State) : Out :=
  .next (match (getCore s c).rets[i]? with
    | none => s
    | some r =>
      if standsStill (getCore s c) then s
      else onCore s c fun k =>
        let k := { k with rets := k.rets.eraseIdx i }
        match r.trap with
        | some t => pend k t
        | none => { k with regs := writeDest k.regs r.dead r.dest r.val })

/-- The word of a copy: opcodes 0xB0 to 0xB5. -/
def isCopyWord (w : W64) : Bool := decide (0xB0 ≤ opcodeOf w) && decide (opcodeOf w ≤ 0xB5)

/-- An instruction that waits, as it is first tried, or tried again. -/
def tried (k : Core) (b : BufItem) : BufItem := if b.began then b else { b with began := true, mark := k.actSeq, farMark := k.farSeq }

/-- A copy that the core pushed as one of its first `mark` commands, on the channel or on any, is in a queue, an engine or a
channel and has not retired; the firings of rules are none of them, and what a handler pushes while a wait stands in the
context comes after it (R206, R208, R357). -/
def copyPending (k : Core) (mark : Nat) (chan : Option Nat) : Bool :=
  let on := fun w : W64 => match chan with
    | some h => decide ((opEOf (bodyOf w)).chan.toNat = h)
    | none => true
  let hit := fun x : Cmd => isCopyWord x.word && !x.tokenOnly && decide (x.seq ≤ mark) && on x.word
  let acts := fun a : Active => a.rule.isNone && hit a.cmd
  [0, 5].any (fun q => (getEng k q).queue.any hit || (getEng k q).active.any acts)
    || (List.range 8).any fun h => (match chan with
      | some n => decide (n = h)
      | none => true) && (getChan k h).any fun a => a.rule.isNone && decide (a.cmd.seq ≤ mark)

/-- Far items forwarded before `mark` still stand. -/
def farPending (k : Core) (mark : Nat) : Bool := k.far.any fun e => e.2.any fun it => decide (it.seq < mark)

/-- PERFORM of an FFENCE (R208, R227). -/
def performFfence (s : State) (c : Nat) (b : BufItem) (dst : Nat) (mark : Option Nat) : State :=
  let k := getCore s c
  let b := tried k b
  let m := mark.getD k.farSeq
  if farPending k m || copyPending k b.mark none then setHead s c { b with ev := .ffence dst (some m) }
  else
    dropHead (pushRet (onCore s c fun k => { k with farLost := false }) c
      { dest := .s dst, val := if k.farLost then 1 else 0, dead := b.dead }) c

/-- PERFORM of an IFENCE: the fetched bundles are discarded, and no later fetch sees memory as it was before (R210, R228). -/
def performIfence (s : State) (c : Nat) : State :=
  dropHead (onCore s c fun k => { k with icache := [], fenceTick := s.codeTick }) c

/-- The device gives up a host line that it holds: every copy of it is recalled, and the host receives its contents (R213,
R347). -/
def surrenderLine (s : State) (v line : Nat) : State :=
  if SMap.get (fun _ => false) s.devHost line then
    let a := line * 64
    let out := (List.range 4).map fun i => (v, a + 16 * i, 16, ofBytes 128 (memBytes s (a + 16 * i) 16), (getPz s line).poison)
    let s := recallLine s line none none
    { s with hostOut := s.hostOut ++ out, devHost := SMap.set (fun _ => false) s.devHost line false }
  else s

/-- The address lies in what a stage-1 leaf maps: the `2^sh` bytes from `ipa`, through the leaves of stage 2 (R328). -/
def leafHolds (s : State) (v ipa sh pa : Nat) : Bool :=
  match walk2 s v ipa with
  | .ok e _ _ sh2 =>
    if sh ≤ sh2 then decide (leafPa e sh2 ipa / 2 ^ sh = pa / 2 ^ sh)
    else (List.range (2 ^ (sh - 16))).any fun i =>
      match walk2 s v (ipa / 2 ^ sh * 2 ^ sh + 65536 * i) with
      | .ok e _ _ sh2 => decide (leafPa e sh2 (ipa / 2 ^ sh * 2 ^ sh + 65536 * i) / 65536 = pa / 65536)
      | _ => false
  | _ => false

/-- PERFORM of a BIASFLIP (R213, R229): the losing side is drained, for all that the leaf maps, and then the bias is
rewritten as one event. A page of a link without CXL is in host bias already. -/
def performBiasflip (s : State) (c : Nat) (b : BufItem) (toHost : Bool) (ea : Nat) : State :=
  let v := vmid (getCore s c)
  match translate s v b.asid ea false false false [] with
  | .ok t =>
    match t.e1 with
    | none => dropHead s c
    | some at_ =>
      let e := rd64 s at_
      if t.host = toHost then dropHead s c
      else
        let inPage := leafHolds s v (leafPa e t.shift ea) t.shift
        if !toHost && s.cores.any (fun kc => (SMap.get (fun _ => []) kc.2.far (farQueue t.pa)).any fun it => inPage it.pa || it.cross.any inPage) then s
        else
          let lines := (s.devHost.map fun e => e.1).filter fun g => inPage (g * 64)
          let s := if toHost then lines.foldl (fun s g => surrenderLine s v g) s else s
          dropHead (writePhys s at_ (toBytes 8 (setField e 54 1 toHost.toNat)) false {}) c
  | _ => dropHead s c

end Sys2Proof.Machine
end

