-- ==== Sys2Proof/Machine/Edges.lean ====
section
/-! DEFINITION. Wait edges, path values and the step report (R310 to R321). -/

namespace Sys2Proof.Machine

open Sys2Proof

/-- Bytes of the edge ring; a reserved size counts as 0 (R26). -/
def ringBytes (eb : W64) : Nat := 2 ^ (16 + if field eb 60 4 ≤ 8 then field eb 60 4 else 0)

/-- The ring's base, its bits below the ring's size ignored (R26). -/
def ringBase (eb : W64) : Nat := field eb 16 39 * 65536 / ringBytes eb * ringBytes eb

/-- Address of record `n` of a ring (R316). -/
def ringSlot (eb : W64) (n : Nat) : Nat := ringBase eb + 32 * (n % (ringBytes eb / 32))

/-- The sequence number after `n`: it skips 0 at the wrap (R316). -/
def nextSeq (n : Nat) : Nat := if (n + 1) % 2 ^ 40 = 0 then 1 else (n + 1) % 2 ^ 40

/-- A reference to edge `seq` of agent `a` of core `c` (R315). -/
def edgeRef (c a seq : Nat) : W64 := BitVec.ofNat 64 (Config.pkg.toNat * 2 ^ 52 + c * 2 ^ 44 + a * 2 ^ 40 + seq)

/-- The self word of an edge record (R314). -/
def edgeSelf (a kind index : Nat) (adopted : Bool) (seq : Nat) : W64 :=
  BitVec.ofNat 64 (a * 2 ^ 60 + kind * 2 ^ 56 + (index % 256) * 2 ^ 48 + adopted.toNat * 2 ^ 47 + seq)

/-- Where the run's edge ring write goes, if it can be made (R316, R327). -/
def ringTarget (s : State) (c va : Nat) (write : Bool) : Option Trans :=
  let k := getCore s c
  match translate s (vmid k) (field k.regs.cr.asid 0 12) va (!write) write false [0] with
  | .ok t => if isPackageMem s t.pa then some t else none
  | _ => none

/-- A recorded wait of agent `a` is released after `waited` cycles by signal `g`, received at `stamp`: the edge record is
written and the carried path adopted if it is not shorter (R313, R314, R316). A wait that did not stall writes nothing
(R310). -/
def writeEdge (s : State) (c a kind index : Nat) (g : Sig) (waited : Nat) (stamp : W64) : State :=
  if waited = 0 then s
  else
    let k := getCore s c
    let seq := k.edgeSeq
    let own := getPath k a
    let adopted := decide (own.path ≤ g.path)
    let k := { k with edgeSeq := nextSeq seq }
    let k := if adopted then setPath k a { path := g.path, ref := edgeRef c a seq } else k
    let rec32 : BitVec 256 :=
      BitVec.ofNat 64 (min waited (2 ^ 24 - 1) * 2 ^ 40 + g.path % 2 ^ 40) ++ g.ref ++ edgeSelf a kind index adopted seq
        ++ stamp
    let va := ringSlot k.regs.cr.edgebase seq
    let target := if field k.regs.cr.edgebase 16 39 = 0 then none else ringTarget s c va true
    match target with
    | none => setCore s c (bump k 14 1)
    | some t =>
      let s := setCore s c (bump k 13 1)
      let s := touchLeaves s t true
      let s := writePhys s t.pa (toBytes 16 rec32) false {}
      writePhys s (t.pa + 16) (toBytes 16 (rec32 >>> 128)) false {}

/-- Core `c` receives the signal `g`, which moves its stamp (R317), and the wait of agent `a` that it ends leaves its
edge. -/
def releaseEdge (s : State) (c a kind index : Nat) (g : Sig) (waited : Nat) : State :=
  let s := hlcRecv s c g.stamp
  writeEdge s c a kind index g waited (getCore s c).hlc

/-! ### Steps -/

/-- Every command this core pushed, and every firing in progress, has retired (R318). -/
def coreIdle (k : Core) : Bool :=
  (List.range 6).all fun q => (getEng k q).queue.isEmpty && (getEng k q).active.isEmpty && (getEng k q).again.isEmpty
    && (List.range 8).all fun h => (getChan k h).isEmpty

/-- STEPMARK (R318). -/
def execStepmark (f : Frame) (o : OpY) (s : State) : Out :=
  .next (whenPred f s (noteWrite (enbuf s true (.stepmark (srcS s o.y))) 3 0x21))

/-- PERFORM of a STEPMARK: cr.step is set, and every agent's path is 0 and its reference none, as one local event. -/
def performStepmark (s : State) (c : Nat) (v : W64) : State :=
  if coreIdle (getCore s c) then
    dropHead (onCore (hlcLocal s c) c fun k =>
      { k with paths := [], regs := { k.regs with cr := { k.regs.cr with step := v } } }) c
  else s

/-- STEPEND's block: alignment, then translation with W and CC (R319). -/
def stependBlock (f : Frame) (o : OpY) (s : State) : Option Block :=
  if !predOk s f then none
  else
    let ea := (eaY s o).toNat
    if ea % 32 ≠ 0 then accessTrap ea
    else accessBlock s (asidOf s (oldCore s)) .dst ea 32 false true

/-- STEPEND (R319). -/
def execStepend (f : Frame) (o : OpY) (s : State) : Out :=
  .next (orBlock s (stependBlock f o s) (whenPred f s
    (lateS (enbuf s true (.stepend (eaY s o).toNat o.x.toNat none)) o.x.toNat)))

/-- The agent with the greatest path; on a tie the lowest code (R319). -/
def longest (k : Core) : Nat :=
  (List.range 16).foldl (fun best a => if (getPath k best).path < (getPath k a).path then a else best) 0

/-- The report of R319: step, length with its agent, head, stamp. -/
def stepReport (c : Nat) (k : Core) : BitVec 256 :=
  let a := longest k
  let p := getPath k a
  let head := if p.ref = 0 then noEdgeRef c a else p.ref
  k.hlc ++ head ++ BitVec.ofNat 64 (p.path % 2 ^ 40 + a * 2 ^ 40) ++ k.regs.cr.step

/-- PERFORM of a STEPEND: its report as two granule events, and then L into s[x]. -/
def performStepend (s : State) (c : Nat) (b : BufItem) (ea dst : Nat) (rep : Option (BitVec 256)) : State :=
  if !coreIdle (getCore s c) then s
  else
    let s := if rep = none then hlcLocal s c else s
    let r := rep.getD (stepReport c (getCore s c))
    let part := if rep = none then 0 else 1
    match translate s (vmid (getCore s c)) b.asid (ea + 16 * part) false true false [0] with
    | .ok t =>
      let s := writePhys (touchLeaves s t true) t.pa (toBytes 16 (r >>> (128 * part))) false { l1 := some c }
      if part = 0 then setHead s c { b with ev := .stepend ea dst (some r) }
      else
        dropHead (pushRet s c { dest := .s dst, val := BitVec.ofNat 512 (field r 64 40), dead := b.dead }) c
    | x =>
      match xlBlock 0 true ea x with
      | some bl => eventBlock s c b bl
      | none => s

/-- EDGERD (R320): the word that fn selects of the record that s[y] names. -/
def execEdgerd (f : Frame) (o : OpY) (s : State) : Out :=
  .next (whenPred f s
    (lateS (lateS (enbuf s false (.edgerd o.fn.toNat (srcS s o.y) o.x.toNat o.z.toNat [])) o.x.toNat) o.z.toNat))

/-- EDGERD ends with a status and a word, each written as a load writes. -/
def endEdgerd (s : State) (c : Nat) (b : BufItem) (dst st : Nat) (status : Nat) (v : W64) : State :=
  dropHead (pushRet (pushRet s c { dest := .s dst, val := v.setWidth 512, dead := b.dead }) c
    { dest := .s st, val := BitVec.ofNat 512 status, dead := b.dead }) c

/-- PERFORM of an EDGERD: three granule reads of the named core's ring, with the conditions of the table in its order
(R320). -/
def performEdgerd (s : State) (c : Nat) (b : BufItem) (word : Nat) (ref : W64) (dst st : Nat) (got : List W64) :
    State :=
  let core := field ref 44 8
  let seq := field ref 0 40
  let named := getCore s core
  let mine := getCore s c
  let owner := if named.phase = .idle then named.prevVf else some named.run.vf
  if field ref 52 12 ≠ Config.pkg.toNat ∨ 160 ≤ core ∨ owner ≠ some mine.run.vf then endEdgerd s c b dst st 3 0
  else if seq = 0 then endEdgerd s c b dst st 2 0
  else
    let va := ringSlot named.regs.cr.edgebase seq
    let part := if got.length = 2 then 16 else 0
    match ringTarget s core (va + part) false with
    | none => endEdgerd s c b dst st 1 0
    | some t =>
      let (s, bytes, poison) := readPhys (touchLeaves s t false) (t.pa) 16 {}
      let w0 : W64 := ofBytes 64 (bytes.take 8)
      let w1 : W64 := ofBytes 64 (bytes.drop 8)
      if poison then endEdgerd s c b dst st 4 0
      else
        let got := got ++ [w0, w1]
        if got.length < 6 then setHead s c { b with ev := .edgerd word ref dst st got }
        else
          let good := fun w : W64 => field w 60 4 = field ref 40 4 ∧ field w 0 40 = seq
          if good (nth 0 got 1) ∧ good (nth 0 got 5) then endEdgerd s c b dst st 0 (nth 0 got word)
          else endEdgerd s c b dst st 1 0

/-- Whether PERFRD reads a counter that the spec defines (R321, R376). -/
def perfKnown (n : Nat) : Bool := decide (n < 20) || (decide (64 ≤ n) && decide (n ≤ 70))

/-- Counters 64 to 255 are supervisor-only (R321). -/
def perfBlock (o : OpY) (s : State) : Option Block := if 64 ≤ o.imm.toNat % 256 then supBlock s else none

/-- PERFRD (R321, R376). -/
def execPerfrd (f : Frame) (o : OpY) (s : State) : Out :=
  let n := o.imm.toNat % 256
  let t := warnIf s (!perfKnown n) wReserved
  .next (orBlock s (perfBlock o s) (whenPred f s
    (putS t o.x (if perfKnown n then getCounter (cc t) n else 0))))

end Sys2Proof.Machine
end

