-- ==== Sys2Proof/Machine/Float.lean ====
section
/-! DEFINITION. Number formats and exact arithmetic (R79 to R92, R102 to R105): element types, exact dyadic values,
rounding with its overflow policies, and the elementary functions. -/

namespace Sys2Proof.Machine

open Sys2Proof

/-! ### Types (R79) -/

/-- Width of a type in bits. -/
def tyBits (t : Nat) : Nat :=
  match t with
  | 0 => 32
  | 1 => 16
  | 2 => 16
  | 3 => 8
  | 4 => 8
  | 5 => 4
  | 6 => 32
  | 7 => 16
  | 8 => 8
  | 9 => 32
  | 10 => 16
  | 11 => 8
  | _ => 32

/-- Element size in bytes; 1 for cb4 (R136). -/
def tySize (t : Nat) : Nat := if t = 5 then 1 else tyBits t / 8

/-- A floating-point type. -/
def isFloat (t : Nat) : Bool := decide (t ≤ 4)

/-- A signed integer type. -/
def isSigned (t : Nat) : Bool := decide (6 ≤ t) && decide (t ≤ 8)

/-- Fraction bits, bias and the largest finite pattern of a floating-point type (R83, R84). -/
def fracBits (t : Nat) : Nat :=
  match t with
  | 0 => 23
  | 1 => 7
  | 2 => 10
  | 3 => 3
  | _ => 2

/-- Exponent field bits. -/
def expBits (t : Nat) : Nat :=
  match t with
  | 0 => 8
  | 1 => 8
  | 2 => 5
  | 3 => 4
  | _ => 5

/-- Bias. -/
def biasOf (t : Nat) : Nat := 2 ^ (expBits t - 1) - 1

/-- Largest finite magnitude (R84). -/
def maxFinite (t : Nat) : Nat :=
  match t with
  | 0 => 0x7F7FFFFF
  | 1 => 0x7F7F
  | 2 => 0x7BFF
  | 3 => 0x7E
  | _ => 0x7B

/-- Canonical NaN (R84). -/
def nanOf (t : Nat) : Nat :=
  match t with
  | 0 => 0x7FC00000
  | 1 => 0x7FC0
  | 2 => 0x7E00
  | 3 => 0x7F
  | _ => 0x7E

/-- Sign bit of a pattern. -/
def signBit (t : Nat) : Nat := 2 ^ (tyBits t - 1)

/-- Positive infinity; for e4m3, which has none, its NaN (R84, R92). -/
def infOf (t : Nat) : Nat := if t = 3 then 0x7F else (2 ^ expBits t - 1) * 2 ^ fracBits t

/-- Infinity of a sign; e4m3 gives 0x7F for either (R92). -/
def infSigned (t : Nat) (neg : Bool) : Nat := if t = 3 then 0x7F else infOf t + if neg then signBit t else 0

/-! ### Exact values -/

/-- A NaN, an infinity, or an exact value (−1)^neg × m × 2^e; a zero has m = 0 and keeps its sign. -/
inductive FV where
  | nan
  | inf (neg : Bool)
  | fin (neg : Bool) (m : Nat) (e : Int)
deriving DecidableEq, Repr

/-- The value of a floating-point pattern (R83, R85). -/
def decodeF (t b : Nat) : FV :=
  let f := b % 2 ^ fracBits t
  let e := b / 2 ^ fracBits t % 2 ^ expBits t
  let neg := decide (b / signBit t % 2 = 1)
  if t = 3 then
    if e = 15 ∧ f = 7 then .nan
    else if e = 0 then .fin neg f (-9) else .fin neg (f + 8) ((e : Int) - 10)
  else if e = 2 ^ expBits t - 1 then (if f = 0 then .inf neg else .nan)
  else if e = 0 then .fin neg f (1 - (biasOf t : Int) - fracBits t)
  else .fin neg (f + 2 ^ fracBits t) ((e : Int) - biasOf t - fracBits t)

/-- An integer as an exact value. -/
def ofInt (i : Int) : FV := .fin (decide (i < 0)) i.natAbs 0

/-- The integer value of a pattern of an integer type. -/
def intOf (t b : Nat) : Int :=
  let w := tyBits t
  if isSigned t ∧ 2 ^ (w - 1) ≤ b % 2 ^ w then (b % 2 ^ w : Int) - 2 ^ w else (b % 2 ^ w : Int)

/-- The exact value of an element of any type but cb4. -/
def valOf (t b : Nat) : FV := if isFloat t then decodeF t b else ofInt (intOf t b)

/-- A signed magnitude at exponent 0 of a common scale. -/
def signed (neg : Bool) (m : Nat) : Int := if neg then -(m : Int) else m

/-- The exact sum; `rdn` gives the sign of a zero sum (R86). -/
def addF (rdn : Bool) (a b : FV) : FV :=
  match a, b with
  | .nan, _ => .nan
  | _, .nan => .nan
  | .inf x, .inf y => if x = y then .inf x else .nan
  | .inf x, _ => .inf x
  | _, .inf y => .inf y
  | .fin x m e, .fin y n f =>
    if m = 0 ∧ n = 0 then .fin (if x = y then x else rdn) 0 0
    else if m = 0 then .fin y n f
    else if n = 0 then .fin x m e
    else
      let g := min e f
      let i := signed x (m * 2 ^ (e - g).toNat) + signed y (n * 2 ^ (f - g).toNat)
      if i = 0 then .fin rdn 0 0 else .fin (decide (i < 0)) i.natAbs g

/-- The sign inverted. -/
def negF : FV → FV
  | .nan => .nan
  | .inf x => .inf (!x)
  | .fin x m e => .fin (!x) m e

/-- The exact product (R85, R86). -/
def mulF (a b : FV) : FV :=
  match a, b with
  | .nan, _ => .nan
  | _, .nan => .nan
  | .inf x, .inf y => .inf (x != y)
  | .inf x, .fin y n _ => if n = 0 then .nan else .inf (x != y)
  | .fin x m _, .inf y => if m = 0 then .nan else .inf (x != y)
  | .fin x m e, .fin y n f => .fin (x != y) (m * n) (e + f)

/-- A value scaled by a power of two. -/
def scaleF (k : Int) : FV → FV
  | .fin x m e => .fin x m (e + k)
  | v => v

/-- Order of two values as an integer; a NaN is never asked. Infinities stand for 2. -/
def leF (a b : FV) : Bool :=
  match a, b with
  | .nan, _ => false
  | _, .nan => false
  | .inf x, .inf y => x || !y
  | .inf x, _ => x
  | _, .inf y => !y
  | .fin x m e, .fin y n f =>
    let g := min e f
    decide (signed x (m * 2 ^ (e - g).toNat) ≤ signed y (n * 2 ^ (f - g).toNat))

/-- Equality of values: −0 equals +0, and a NaN equals nothing (R155). -/
def eqF (a b : FV) : Bool := leF a b && leF b a

/-- a < b. -/
def ltF (a b : FV) : Bool := leF a b && !leF b a

/-- A NaN. -/
def isNan (a : FV) : Bool := decide (a = .nan)

/-- Either zero. -/
def isZeroF : FV → Bool
  | .fin _ m _ => decide (m = 0)
  | _ => false

/-! ### Rounding (R80, R88) -/

/-- The magnitude m × 2^e in units of 2^g, rounded by a mode. -/
def roundMag (mode : Nat) (neg : Bool) (m : Nat) (e g : Int) : Nat :=
  if g ≤ e then m * 2 ^ (e - g).toNat
  else
    let s := (g - e).toNat
    let q := m / 2 ^ s
    let r := m % 2 ^ s
    let half := 2 ^ (s - 1)
    let up := match mode with
      | 0 => decide (half < r) || (decide (r = half) && decide (q % 2 = 1))
      | 1 => false
      | 2 => !neg && decide (r ≠ 0)
      | 3 => neg && decide (r ≠ 0)
      | _ => decide (half ≤ r)
    if up then q + 1 else q

/-- A rounded result: its pattern, and whether the overflow policy decided it under TRAP, with division by zero
apart (R90). -/
structure Rnd where
  bits : Nat := 0
  trap : Bool := false
  dz : Bool := false
deriving DecidableEq, Repr

/-- What the policy gives for an overflow of a sign (R81, R89): INF of e4m3 is NAN, and INF and NAN of an integer are
SAT. -/
def overflow (t : Nat) (neg : Bool) (pol : Nat) : Rnd :=
  if isFloat t then
    let s := if neg then signBit t else 0
    match pol with
    | 1 => if t = 3 then { bits := nanOf t } else { bits := infSigned t neg }
    | 2 => { bits := nanOf t }
    | 3 => { bits := maxFinite t + s, trap := true }
    | _ => { bits := maxFinite t + s }
  else
    let w := tyBits t
    let lo : Nat := if isSigned t then 2 ^ (w - 1) else 0
    let hi : Nat := if isSigned t then 2 ^ (w - 1) - 1 else 2 ^ w - 1
    { bits := if neg then lo else hi, trap := decide (pol = 3) }

/-- The pattern of a magnitude n × 2^g that lies on the grid and within range. -/
def encodeMag (t : Nat) (neg : Bool) (n : Nat) (g : Int) : Nat :=
  let s := if neg then signBit t else 0
  if n = 0 then s
  else
    let fb := fracBits t
    let top := (Nat.log2 n : Int) + g
    let emin := 1 - (biasOf t : Int)
    if top < emin then s + n * 2 ^ (g - (emin - fb)).toNat / 2 ^ ((emin - fb) - g).toNat
    else
      let l := Nat.log2 n
      let mant := if l ≤ fb then n * 2 ^ (fb - l) else n / 2 ^ (l - fb)
      s + (top + biasOf t).toNat * 2 ^ fb + (mant - 2 ^ fb)

/-- A division by zero of a sign (R89). -/
def divZero (t : Nat) (neg : Bool) (pol : Nat) : Rnd :=
  let r := overflow t neg pol
  { r with dz := r.trap }

/-- The magnitude n × 2^g exceeds the largest finite value of the type. -/
def tooBig (t n : Nat) (g : Int) : Bool :=
  match decodeF t (maxFinite t) with
  | .fin _ m e => !leF (.fin false n g) (.fin false m e)
  | _ => false

/-- `round_to` of R88, with R92 for special values. -/
def roundTo (x : FV) (t mode pol : Nat) : Rnd :=
  match x with
  | .nan => { bits := if isFloat t then nanOf t else 0 }
  | .inf neg => if isFloat t then { bits := infSigned t neg } else { bits := (overflow t neg 0).bits }
  | .fin neg m e =>
    if isFloat t then
      if m = 0 then { bits := if neg then signBit t else 0 }
      else
        let g := max ((Nat.log2 m : Int) + e - fracBits t) (1 - (biasOf t : Int) - fracBits t)
        let n := roundMag mode neg m e g
        if tooBig t n g then overflow t neg pol else { bits := encodeMag t neg n g }
    else
      let n := roundMag mode neg m e 0
      let i := signed neg n
      let w := tyBits t
      let lo : Int := if isSigned t then -(2 ^ (w - 1) : Int) else 0
      let hi : Int := if isSigned t then 2 ^ (w - 1) - 1 else 2 ^ w - 1
      if i < lo then overflow t true pol
      else if hi < i then overflow t false pol
      else { bits := (i % 2 ^ w).toNat }

/-- `rne_f32` (R88), as a pattern. -/
def rneBits (x : FV) : Nat := (roundTo x 0 0 1).bits

/-- `rne_f32`, as a value. -/
def rne (x : FV) : FV := decodeF 0 (rneBits x)

/-- The FP32 value of a pattern. -/
abbrev f32 (b : Nat) : FV := decodeF 0 b

/-- rne_f32(a + b). -/
def add32 (a b : FV) : FV := rne (addF false a b)

/-- rne_f32(a × b). -/
def mul32 (a b : FV) : FV := rne (mulF a b)

/-- The `.max` and `.min` of R140: the canonical NaN if either is a NaN; of +0 and −0, max takes +0 and min −0. -/
def extF (isMax : Bool) (a b : FV) : FV :=
  if isNan a || isNan b then .nan
  else if isZeroF a && isZeroF b then
    match a, b with
    | .fin x _ _, .fin y _ _ => .fin (if isMax then x && y else x || y) 0 0
    | _, _ => a
  else if leF a b = isMax then b else a

/-! ### Division and roots: exact results carried with a sticky bit -/

/-- a / b of non-zero magnitudes with 80 bits more than the rounding needs, the lowest bit sticky. -/
def divMag (m : Nat) (e : Int) (n : Nat) (f : Int) : Nat × Int :=
  let k := 200 + Nat.log2 n
  let q := m * 2 ^ k / n
  (2 * q + (if m * 2 ^ k % n = 0 then 0 else 1), e - f - k - 1)

/-- The exact quotient of two values, as far as rounding sees (R85, R86, R89 apart). -/
def divF (a b : FV) : FV :=
  match a, b with
  | .nan, _ => .nan
  | _, .nan => .nan
  | .inf _, .inf _ => .nan
  | .inf x, .fin y _ _ => .inf (x != y)
  | .fin x _ _, .inf y => .fin (x != y) 0 0
  | .fin x m e, .fin y n f =>
    if n = 0 then (if m = 0 then .nan else .inf (x != y))
    else if m = 0 then .fin (x != y) 0 0
    else .fin (x != y) (divMag m e n f).1 (divMag m e n f).2

/-- One step of the bitwise square root. -/
def sqrtLoop : Nat → Nat → Nat → Nat
  | 0, _, r => r
  | i + 1, n, r => if (r + 2 ^ i) * (r + 2 ^ i) ≤ n then sqrtLoop i n (r + 2 ^ i) else sqrtLoop i n r

/-- floor(√n). -/
def isqrt (n : Nat) : Nat := sqrtLoop (Nat.log2 n / 2 + 1) n 0

/-- √(m × 2^e) with a sticky bit. -/
def sqrtMag (m : Nat) (e : Int) : Nat × Int :=
  let odd : Nat := if e % 2 = 0 then 0 else 1
  let n := m * 2 ^ odd * 2 ^ 200
  let q := isqrt n
  (2 * q + (if q * q = n then 0 else 1), (e - odd) / 2 - 100 - 1)

/-- 1 / √(m × 2^e) with a sticky bit. -/
def rsqrtMag (m : Nat) (e : Int) : Nat × Int :=
  let odd : Nat := if e % 2 = 0 then 0 else 1
  let d := m * 2 ^ odd
  let k := 200 + Nat.log2 d
  let q := isqrt (2 ^ (2 * k) / d)
  (2 * q + (if q * q * d = 2 ^ (2 * k) then 0 else 1), -((e - odd) / 2) - k - 1)

/-- VRCP (R102). -/
def vrcp (x : FV) (t mode pol : Nat) : Rnd :=
  match x with
  | .fin neg m e =>
    if m = 0 then divZero t neg pol
    else roundTo (.fin neg (divMag 1 0 m e).1 (divMag 1 0 m e).2) t mode pol
  | .inf neg => { bits := if neg then signBit t else 0 }
  | .nan => { bits := nanOf t }

/-- VSQRT (R102). -/
def vsqrt (x : FV) (t mode pol : Nat) : Rnd :=
  match x with
  | .fin neg m e =>
    if m = 0 then { bits := if neg then signBit t else 0 }
    else if neg then { bits := nanOf t }
    else roundTo (.fin false (sqrtMag m e).1 (sqrtMag m e).2) t mode pol
  | .inf neg => { bits := if neg then nanOf t else infSigned t false }
  | .nan => { bits := nanOf t }

/-- VRSQRT (R102). -/
def vrsqrt (x : FV) (t mode pol : Nat) : Rnd :=
  match x with
  | .fin neg m e =>
    if m = 0 then divZero t neg pol
    else if neg then { bits := nanOf t }
    else roundTo (.fin false (rsqrtMag m e).1 (rsqrtMag m e).2) t mode pol
  | .inf neg => { bits := if neg then nanOf t else 0 }
  | .nan => { bits := nanOf t }

/-! ### Tables and coefficients (R103, R104) -/

/-- e2tab(j) = rne_f32(2^(j/64)) of R103, as FP32 patterns. -/
def e2tab : List Nat :=
  [0x3F800000, 0x3F8164D2, 0x3F82CD87, 0x3F843A29, 0x3F85AAC3, 0x3F871F62, 0x3F88980F, 0x3F8A14D5] ++
  [0x3F8B95C2, 0x3F8D1ADF, 0x3F8EA43A, 0x3F9031DC, 0x3F91C3D3, 0x3F935A2B, 0x3F94F4F0, 0x3F96942D] ++
  [0x3F9837F0, 0x3F99E046, 0x3F9B8D3A, 0x3F9D3EDA, 0x3F9EF532, 0x3FA0B051, 0x3FA27043, 0x3FA43516] ++
  [0x3FA5FED7, 0x3FA7CD94, 0x3FA9A15B, 0x3FAB7A3A, 0x3FAD583F, 0x3FAF3B79, 0x3FB123F6, 0x3FB311C4] ++
  [0x3FB504F3, 0x3FB6FD92, 0x3FB8FBAF, 0x3FBAFF5B, 0x3FBD08A4, 0x3FBF179A, 0x3FC12C4D, 0x3FC346CD] ++
  [0x3FC5672A, 0x3FC78D75, 0x3FC9B9BE, 0x3FCBEC15, 0x3FCE248C, 0x3FD06334, 0x3FD2A81E, 0x3FD4F35B] ++
  [0x3FD744FD, 0x3FD99D16, 0x3FDBFBB8, 0x3FDE60F5, 0x3FE0CCDF, 0x3FE33F89, 0x3FE5B907, 0x3FE8396A] ++
  [0x3FEAC0C7, 0x3FED4F30, 0x3FEFE4BA, 0x3FF28177, 0x3FF5257D, 0x3FF7D0DF, 0x3FFA83B3, 0x3FFD3E0C]

/-- l2g(j) = rne_f32(64/(64+j)) of R104. -/
def l2g : List Nat :=
  [0x3F800000, 0x3F7C0FC1, 0x3F783E10, 0x3F74898D, 0x3F70F0F1, 0x3F6D7304, 0x3F6A0EA1, 0x3F66C2B4] ++
  [0x3F638E39, 0x3F607038, 0x3F5D67C9, 0x3F5A740E, 0x3F579436, 0x3F54C77B, 0x3F520D21, 0x3F4F6475] ++
  [0x3F4CCCCD, 0x3F4A4588, 0x3F47CE0C, 0x3F4565C8, 0x3F430C31, 0x3F40C0C1, 0x3F3E82FA, 0x3F3C5264] ++
  [0x3F3A2E8C, 0x3F381703, 0x3F360B61, 0x3F340B41, 0x3F321643, 0x3F302C0B, 0x3F2E4C41, 0x3F2C7692] ++
  [0x3F2AAAAB, 0x3F28E83F, 0x3F272F05, 0x3F257EB5, 0x3F23D70A, 0x3F2237C3, 0x3F20A0A1, 0x3F1F1166] ++
  [0x3F1D89D9, 0x3F1C09C1, 0x3F1A90E8, 0x3F191F1A, 0x3F17B426, 0x3F164FDA, 0x3F14F209, 0x3F139A86] ++
  [0x3F124925, 0x3F10FDBC, 0x3F0FB824, 0x3F0E7835, 0x3F0D3DCB, 0x3F0C08C1, 0x3F0AD8F3, 0x3F09AE41] ++
  [0x3F088889, 0x3F0767AB, 0x3F064B8A, 0x3F053408, 0x3F042108, 0x3F03126F, 0x3F020821, 0x3F010204]

/-- l2l(j) = rne_f32(log2((64+j)/64)) of R104. -/
def l2l : List Nat :=
  [0x00000000, 0x3CB73CB4, 0x3D35D69C, 0x3D8759C5, 0x3DB31FB8, 0x3DDE4212, 0x3E0462C4, 0x3E19574F] ++
  [0x3E2E00D2, 0x3E42615F, 0x3E567AF1, 0x3E6A4F72, 0x3E7DE0B6, 0x3E88983F, 0x3E92203D, 0x3E9B8926] ++
  [0x3EA4D3C2, 0x3EAE00D2, 0x3EB7110E, 0x3EC0052B, 0x3EC8DDD4, 0x3ED19BB0, 0x3EDA3F60, 0x3EE2C97D] ++
  [0x3EEB3A9F, 0x3EF39355, 0x3EFBD42B, 0x3F01FED4, 0x3F060828, 0x3F0A0650, 0x3F0DF989, 0x3F11E20F] ++
  [0x3F15C01A, 0x3F1993E3, 0x3F1D5DA0, 0x3F211D84, 0x3F24D3C2, 0x3F28808C, 0x3F2C2411, 0x3F2FBE80] ++
  [0x3F335004, 0x3F36D8CB, 0x3F3A58FF, 0x3F3DD0C8, 0x3F41404F, 0x3F44A7BA, 0x3F480731, 0x3F4B5ED7] ++
  [0x3F4EAED0, 0x3F51F740, 0x3F553848, 0x3F587209, 0x3F5BA4A4, 0x3F5ED039, 0x3F61F4E5, 0x3F6512C7] ++
  [0x3F6829FB, 0x3F6B3A9F, 0x3F6E44CD, 0x3F7148A1, 0x3F744636, 0x3F773DA4, 0x3F7A2F04, 0x3F7D1A71]

/-- Coefficient c1 of R103, the nearest FP32 value. -/
abbrev coC1 : Nat := 0x3F317218

/-- Coefficient c2 of R103, the nearest FP32 value. -/
abbrev coC2 : Nat := 0x3E75FDF0

/-- Coefficient c3 of R103, the nearest FP32 value. -/
abbrev coC3 : Nat := 0x3D635847

/-- Coefficient b1 of R104, the nearest FP32 value. -/
abbrev coB1 : Nat := 0x3FB8AA3B

/-- Coefficient b2 of R104, the nearest FP32 value. -/
abbrev coB2 : Nat := 0xBF38AA3B

/-- Coefficient b3 of R104, the nearest FP32 value. -/
abbrev coB3 : Nat := 0x3EF6384F

/-- An entry of a table as a value. -/
def tabF (l : List Nat) (j : Nat) : FV := f32 (l.getD j 0)

/-- floor of a finite value. -/
def floorF : FV → Int
  | .fin neg m e => signed neg (roundMag 3 neg m e 0)
  | _ => 0

/-- Nearest integer, ties to even. -/
def nearF : FV → Int
  | .fin neg m e => signed neg (roundMag 0 neg m e 0)
  | _ => 0

/-- VEXP2 (R103). -/
def vexp2 (x : FV) (t mode pol : Nat) : Rnd :=
  match x with
  | .nan => { bits := nanOf t }
  | .inf neg => if neg then { bits := 0 } else { bits := infSigned t false }
  | .fin _ _ _ =>
    if ltF x (ofInt (-151)) then { bits := 0 }
    else if leF (ofInt 128) x then roundTo (.fin false 1 128) t mode pol
    else
      let y := scaleF 6 x
      let k := nearF y
      let r := scaleF (-6) (addF false y (ofInt (-k)))
      let q := k / 64
      let j := (k - 64 * q).toNat
      let u := mul32 (f32 coC3) r
      let u := add32 u (f32 coC2)
      let u := mul32 u r
      let u := add32 u (f32 coC1)
      let u := mul32 u r
      let w := mul32 (tabF e2tab j) u
      roundTo (scaleF q (addF false (tabF e2tab j) w)) t mode pol

/-- VLOG2 (R104). -/
def vlog2 (x : FV) (t mode pol : Nat) : Rnd :=
  match x with
  | .nan => { bits := nanOf t }
  | .inf neg => { bits := if neg then nanOf t else infSigned t false }
  | .fin neg m e0 =>
    if m = 0 then divZero t true pol
    else if neg then { bits := nanOf t }
    else
      let e : Int := (Nat.log2 m : Int) + e0
      let mm := scaleF (-e) x
      let j := (floorF (scaleF 6 (addF false mm (ofInt (-1))))).toNat
      let f := mul32 mm (tabF l2g j)
      let r := addF false f (ofInt (-1))
      let u := mul32 (f32 coB3) r
      let u := add32 u (f32 coB2)
      let u := mul32 u r
      let u := add32 u (f32 coB1)
      let u := mul32 u r
      let s := add32 (tabF l2l j) u
      roundTo (addF false (ofInt e) s) t mode pol

/-- vexp2(x, f32, RNE, SAT), as the units compute it (R103). -/
def exp2u (x : FV) : FV := f32 (vexp2 x 0 0 0).bits

/-! ### The exact form of a product-table entry (R367) -/

/-- An odd significand and its exponent. -/
def oddPart : Nat → Nat → Int → Nat × Int
  | 0, m, e => (m, e)
  | n + 1, m, e => if m % 2 = 0 ∧ m ≠ 0 then oddPart n (m / 2) (e + 1) else (m, e)

/-- The 64-bit form of an exact product. -/
def productWord (x : FV) : W64 :=
  match x with
  | .nan => BitVec.ofNat 64 (3 * 2 ^ 61)
  | .inf neg => BitVec.ofNat 64 (neg.toNat * 2 ^ 63 + 2 * 2 ^ 61)
  | .fin neg m e =>
    if m = 0 then BitVec.ofNat 64 (neg.toNat * 2 ^ 63)
    else
      let p := oddPart 64 m e
      BitVec.ofNat 64 (neg.toNat * 2 ^ 63 + 1 * 2 ^ 61 + (p.2 % 65536).toNat * 2 ^ 32 + p.1)

/-- The exact product that a 64-bit form holds. -/
def productVal (w : W64) : FV :=
  match field w 61 2 with
  | 0 => .fin (bit w 63) 0 0
  | 1 => .fin (bit w 63) (field w 0 16) (sfield w 32 16)
  | 2 => .inf (bit w 63)
  | _ => .nan

end Sys2Proof.Machine
end

