-- ==== Sys2Proof/Machine/Windows.lean ====
section
/-! DEFINITION. Stream descriptors: their fields (R36 to R39), and the window map with the place of each element in a window
(R114, R115, R418). -/

namespace Sys2Proof.Machine

open Sys2Proof

/-! ### Fields (R37 to R39) -/

/-- kind. -/
def dKind (d : W512) : Nat := field d 60 4
/-- base. -/
def dBase (d : W512) : Nat := field d 0 55
/-- dim0, dim1 or dim2. -/
def dDim (d : W512) (k : Nat) : Nat := field d (64 + 16 * k) 16
/-- type. -/
def dType (d : W512) : Nat := field d 112 4
/-- open. -/
def dOpen (d : W512) : Bool := bit d 116
/-- oaxis. -/
def dAxis (d : W512) : Nat := field d 117 2
/-- stride0, stride1 or stride2. -/
def dStride (d : W512) (k : Nat) : Int := sfield d (128 + 32 * k) 32
/-- advstride. -/
def dAdv (d : W512) : Int := sfield d 224 32
/-- group. -/
def dGroup (d : W512) : Nat := field d 256 2
/-- offset, in units of 64 bytes. -/
def dOffset (d : W512) : Nat := field d 258 14
/-- size: units minus 1. -/
def dSize (d : W512) : Nat := field d 272 14
/-- pitch. -/
def dPitch (d : W512) : Nat := field d 286 14
/-- win. -/
def dWin (d : W512) : Bool := bit d 300
/-- blen. -/
def dBlen (d : W512) : Nat := field d 320 2
/-- bdstride. -/
def dBdstride (d : W512) : Nat := field d 328 16
/-- bdoff. -/
def dBdoff (d : W512) : Int := sfield d 344 40
/-- tbase. -/
def dTbase (d : W512) : Nat := field d 384 3
/-- pad. -/
def dPad (d : W512) : Nat := field d 392 16
/-- rowbound. -/
def dRowbound (d : W512) : Nat := field d 408 16
/-- colbound. -/
def dColbound (d : W512) : Nat := field d 424 16
/-- otr. -/
def dOtr (d : W512) : Nat := field d 448 55

/-- An open descriptor: kind 3 with open set. -/
def isOpen (d : W512) : Bool := decide (dKind d = 3) && dOpen d

/-- The descriptor has a stash side (R72, R127). -/
def onStash (d : W512) : Bool := decide (dKind d = 2) || ((decide (dKind d = 1) || decide (dKind d = 3)) && dWin d)

/-- A window of kind 1 or 3. -/
def hasWindow (d : W512) : Bool := (decide (dKind d = 1) || decide (dKind d = 3)) && dWin d

/-- A dimension lowered by a bound: dim0 by colbound, dim1 by rowbound (R39). -/
def bounded (d : W512) (k : Nat) : Nat :=
  let n := dDim d k
  let b := if k = 0 then dColbound d else if k = 1 then dRowbound d else 0
  if b = 0 then n else min n b

/-- `pad_value` of R231. -/
def padValue (d : W512) : W64 :=
  let p := dPad d
  match tyBits (dType d) with
  | 8 => BitVec.ofNat 64 (p % 256)
  | 4 => BitVec.ofNat 64 (p % 16)
  | 32 => BitVec.ofNat 64 (p * 65536)
  | _ => BitVec.ofNat 64 p

/-! ### Windows (R114, R115) -/

/-- Bytes of a dim0 run (R115). -/
def rowBytes (d : W512) : Nat := if dType d = 5 then ceilDiv (dDim d 0) 2 else dDim d 0 * tySize (dType d)

/-- Units of 64 bytes per row (R115). -/
def rowUnits (d : W512) : Nat := if dPitch d = 0 then ceilDiv (rowBytes d) 64 else dPitch d

/-- The first byte of the stash range. -/
def stashStart (d : W512) : Nat := dGroup d * 2 ^ 20 + 64 * dOffset d

/-- One past the stash range. -/
def stashEnd (d : W512) : Nat := stashStart d + 64 * (dSize d + 1)

/-- Stash offset of an element (R115). -/
def stashAddr (d : W512) (i0 i1 i2 : Nat) : Nat :=
  stashStart d + 64 * ((i2 * dDim d 1 + i1) * rowUnits d)
    + (if dType d = 5 then i0 / 2 else i0 * tySize (dType d))

/-- Stash offset of an element of the slice that an installed command's window maps: of the two axes other than the open
one, the lower forms the row and the higher counts rows (R418). -/
def stashSlice (d : W512) (axis i0 i1 i2 : Nat) : Nat :=
  let a := if axis = 0 then 1 else 0
  let ia := if axis = 0 then i1 else i0
  let ib := if axis = 2 then i1 else i2
  let bytes := fun n : Nat => if dType d = 5 then ceilDiv n 2 else n * tySize (dType d)
  let u := if dPitch d = 0 then ceilDiv (bytes (dDim d a)) 64 else dPitch d
  stashStart d + 64 * (ib * u) + (if dType d = 5 then ia / 2 else ia * tySize (dType d))

/-- A granule of a window's range holds a part of a row. The range's other units map nothing and keep their stash-only
bytes (R115, R418). -/
def holdsRow (w : Win) (g : Nat) : Bool :=
  let d := w.desc
  let fire := w.rule.isSome && isOpen d
  let na := dDim d (if fire ∧ dAxis d = 0 then 1 else 0)
  let nb := if fire then (if dAxis d = 2 then dDim d 1 else dDim d 2) else dDim d 1 * dDim d 2
  let u := if dPitch d = 0 then ceilDiv (if dType d = 5 then ceilDiv na 2 else na * tySize (dType d)) 64 else dPitch d
  decide (u ≠ 0) && decide ((g - stashStart d / 64) / u < nb)

/-- A window leaves its range: what the granules that it had filled hold then is free (assumption 27). -/
def looseWindow (c : Nat) (s : State) (w : Win) : State := (w.filled.filter (holdsRow w)).foldl (looseGranule c) s

/-- Every window of a core leaves its range. -/
def looseWindows (s : State) (c : Nat) : State := (getCore s c).wins.foldl (looseWindow c) s

/-- The fields that make two windows, or two kind-2 ranges, the same mapping (R114). -/
def mappingOf (d : W512) : List Int :=
  let dims : List Int := [dKind d, dDim d 0, dDim d 1, dDim d 2, dType d, dPitch d, dGroup d, dOffset d, dSize d]
  if dKind d = 2 then dims
  else
    let side : List Int := [(dBase d : Int), dStride d 0, dStride d 1, dStride d 2,
      (if dKind d = 3 then (dOtr d : Int) else 0)]
    dims ++ side

/-- The same mapping. -/
def sameMapping (a b : W512) : Bool := decide (mappingOf a = mappingOf b)

/-- Two stash ranges overlap. -/
def overlaps (a b : W512) : Bool := decide (stashStart a < stashEnd b) && decide (stashStart b < stashEnd a)

end Sys2Proof.Machine
end

