-- ==== Sys2Proof/Machine/Slices.lean ====
section
/-! DEFINITION. Open tensors: the authoritative record, the Frond with its counts, pools and quota, the counter
operations with their propagation, bound flags, windows of retention and cuts (R266 to R278, R284 to R286). -/

namespace Sys2Proof.Machine

open Sys2Proof

/-! ### The record (R266, R267) -/

/-- The authoritative copy of the record at a physical address. -/
def getOT (s : State) (pa : Nat) : OT := SMap.get (fun _ => {}) s.ots pa

/-- The hw fields with their offsets and sizes. -/
def hwFields (o : OT) : List (Nat × Nat × Nat) :=
  [(0, 8, o.root + o.depth), (8, 8, o.c), (16, 8, o.p), (24, 8, o.t), (32, 8, o.q), (52, 2, o.spp), (55, 1, o.st),
   (62, 2, o.owner), (64, 1, o.vf),
   (68, 4, match o.feed with
     | some (c, n) => 2 ^ 31 + c * 256 + n
     | none => 0),
   (88, 8, o.mcursor), (96, 8, o.pages), (104, 8, o.holdlow), (112, 4, o.nrules)]

/-- The sw fields that SLFORK copies, with their offsets and sizes (R273). -/
def swFields (o : OT) : List (Nat × Nat × Nat) :=
  [(40, 8, o.window), (48, 4, o.slicebytes), (54, 1, o.type), (56, 2, o.sdim0), (58, 2, o.sdim1), (60, 2, o.sdim2),
   (72, 8, o.mirror), (80, 8, o.mslots)]

/-- Fields of a record written, whatever stood in them. -/
def setFields (s : State) (pa : Nat) (l : List (Nat × Nat × Nat)) : State :=
  l.foldl (fun s e => writePhys s (pa + e.1) (toBytes e.2.1 (BitVec.ofNat 64 e.2.2)) false {}) s

/-- Each hw field that changed is written into the record, each as one event (R267). -/
def writeFields (s : State) (pa : Nat) (old new : OT) : State :=
  ((hwFields old).zip (hwFields new)).foldl (fun s e =>
    if e.1.2.2 = e.2.2.2 then s
    else writePhys s (pa + e.2.1) (toBytes e.2.2.1 (BitVec.ofNat 64 e.2.2.2)) false {}) s

/-- The authoritative copy replaced, and the memory copy after it. -/
def putOT (s : State) (pa : Nat) (o : OT) : State :=
  writeFields { s with ots := SMap.set (fun _ => {}) s.ots pa o } pa (getOT s pa) o

/-- A record that becomes LIVE: every hw field is set, whatever software left there (R307). -/
def putLive (s : State) (pa : Nat) (o : OT) : State :=
  setFields { s with ots := SMap.set (fun _ => {}) s.ots pa o } pa (hwFields o)

/-! ### Counts, pools and nodes (R271, R272, R276) -/

/-- The count of the node or page at an address. -/
def getRef (s : State) (a : Nat) : Nat := SMap.get (fun _ => 0) s.refs (a / 4096)

/-- The count changed. -/
def setRef (s : State) (a n : Nat) : State := { s with refs := SMap.set (fun _ => 0) s.refs (a / 4096) n }

/-- Side records in use by function `v` (R312). -/
def sideCount (s : State) (v : Nat) : Nat :=
  (s.tqs.map fun e => if e.2.vf = some v then e.2.sigs.length else 0).sum

/-- Nodes that side records take: 16 bytes each, 256 to a node. -/
def sideNodes (n : Nat) : Nat := ceilDiv n 256

/-- The first node at or after `base` whose count is 0, of `n` nodes. -/
def findNode (s : State) : Nat → Nat → Option Nat
  | _, 0 => none
  | base, n + 1 => if getRef s base = 0 then some base else findNode s (base + 4096) n

/-- Nodes of a function in use by its Fronds. -/
def usedNodes (s : State) (v : Nat) : Nat :=
  let x := getFctx s v
  (s.refs.filter fun e => decide (x.nodebase ≤ e.1 * 4096) && decide (e.1 * 4096 < x.nodebase + x.nodecount * 4096)
    && decide (0 < e.2)).length

/-- Nodes of the node area that remain free (R276, R312). -/
def freeNodes (s : State) (v : Nat) : Nat := (getFctx s v).nodecount - usedNodes s v - sideNodes (sideCount s v)

/-- A page of the pool may be handed out: count 0, not in use by a save, not quarantined (R369, R391). -/
def pageFree (s : State) (a : Nat) : Bool :=
  decide (getRef s a = 0) && !SMap.get (fun _ => false) s.savePages (a / 65536)
    && !SMap.get (fun _ => false) s.quarantine (a / 65536)

/-- The first free page at or after `base`, of `n` pages. -/
def findPage (s : State) : Nat → Nat → Option Nat
  | _, 0 => none
  | base, n + 1 => if pageFree s base then some base else findPage s (base + 65536) n

/-- Free pages of a pool. -/
def freePages (s : State) (v : Nat) : Nat :=
  let x := getFctx s v
  ((List.range x.poolpages).filter fun i => pageFree s (x.poolbase + i * 65536)).length

/-- The held count: distinct pages of the pool whose count is at least 1 (R276). -/
def heldPages (s : State) (v : Nat) : Nat :=
  let x := getFctx s v
  (s.refs.filter fun e => decide (x.poolbase ≤ e.1 * 4096) && decide (e.1 * 4096 < x.poolbase + x.poolpages * 65536)
    && decide (0 < e.2)).length

/-- Why a claim or copy finds no storage: `true` for an empty node area (bit 63 of R276). -/
abbrev Got? := Except Bool

/-- A page taken from the pool under the quota rule, with count 1 (R276). -/
def takePage (s : State) (v : Nat) : Got? (State × Nat) :=
  let x := getFctx s v
  if x.quota ≤ heldPages s v then .error false
  else
    let i := freeStart s x.poolpages
    let s := { s with free := s.free + 1 }
    match (findPage s (x.poolbase + i * 65536) (x.poolpages - i)).orElse fun _ => findPage s x.poolbase i with
    | some a => .ok (setRef s a 1, a)
    | none => .error false

/-- Bytes that hardware stores by itself, in one granule, and on the frame's mirror (R389): no agent's mapping reaches a node
(R271). -/
def pokeRaw (s : State) (a : Nat) (bytes : List Byte) : State := mirrorWrite (storeBytes s a bytes false) a bytes false

/-- A word of a node stored. -/
def poke64 (s : State) (a : Nat) (w : W64) : State := pokeRaw s a (toBytes 8 w)

/-- A word of a node: one that an error has destroyed is no entry (R381; assumption 71). -/
def nodeWord (s : State) (a : Nat) : W64 := (soundWord s a).getD 0

/-- A node taken from the node area, zero, with count 1. -/
def takeNode (s : State) (v : Nat) : Got? (State × Nat) :=
  let x := getFctx s v
  if freeNodes s v = 0 then .error true
  else
    let i := freeStart s x.nodecount
    let s := { s with free := s.free + 1 }
    match (findNode s (x.nodebase + i * 4096) (x.nodecount - i)).orElse fun _ => findNode s x.nodebase i with
    | some a => .ok ((List.range 64).foldl (fun s i => pokeRaw s (a + 64 * i) (List.replicate 64 0)) (setRef s a 1), a)
    | none => .error true

/-- The entry is valid. -/
def neV (e : W64) : Bool := bit e 63
/-- M of an entry. -/
def neM (e : W64) : Bool := bit e 61
/-- The page frame of a leaf entry. -/
def nePage (e : W64) : Nat := field e 16 36 * 65536
/-- The node of an inner entry. -/
def neNode (e : W64) : Nat := field e 12 40 * 4096
/-- A leaf entry. -/
def leafEnt (a : Nat) (m : Bool) : W64 := BitVec.ofNat 64 (2 ^ 63 + 2 ^ 62 + m.toNat * 2 ^ 61 + a)
/-- An entry for a child node. -/
def nodeEnt (a : Nat) : W64 := BitVec.ofNat 64 (2 ^ 63 + a)

/-- A page's count falls by one; at 0 it returns to its pool, or to quarantine (R272, R391). -/
def dropPage (s : State) (a : Nat) : State :=
  let n := getRef s a - 1
  let s := setRef s a n
  if n = 0 ∧ hasMedia s (a / 65536) then
    { s with quarantine := SMap.set (fun _ => false) s.quarantine (a / 65536) true,
             links := SMap.set (fun _ => none) s.links (a / 65536) none }
  else if n = 0 then { s with links := SMap.set (fun _ => none) s.links (a / 65536) none }
  else s

/-- A node's count falls by one; at 0 it is freed and each entry releases its child (R272). -/
def dropNode : Nat → State → Nat → State
  | 0, s, _ => s
  | d + 1, s, a =>
    let n := getRef s a - 1
    let s := setRef s a n
    if n = 0 then
      (List.range 512).foldl (fun s i =>
        let e := nodeWord s (a + 8 * i)
        if neV e then (if d = 0 then dropPage s (nePage e) else dropNode d s (neNode e)) else s) s
    else s

/-- The leaf entry of page index `pg` below a node of depth `d`; zero where there is none. -/
def findLeaf (s : State) : Nat → Nat → Nat → W64
  | 0, _, _ => 0
  | d + 1, a, pg =>
    let e := nodeWord s (a + 8 * (pg / 512 ^ d % 512))
    if !neV e then 0 else if d = 0 then e else findLeaf s d (neNode e) pg

/-- The leaf entry of a tensor's page; zero where the tensor does not reference it. -/
def leafOf (s : State) (o : OT) (pg : Nat) : W64 := if 512 ^ o.depth ≤ pg then 0 else findLeaf s o.depth o.root pg

/-- A shared node is copied into a fresh one: the children each gain a count and the original loses one (R274). -/
def ownNode (s : State) (v d a : Nat) : Got? (State × Nat) :=
  if getRef s a ≤ 1 then .ok (s, a)
  else
    (takeNode s v).bind fun (s, b) =>
      .ok ((List.range 512).foldl (fun s i =>
        let e := nodeWord s (a + 8 * i)
        let s := poke64 s (b + 8 * i) e
        if neV e then
          let t := if d = 1 then nePage e else neNode e
          setRef s t (getRef s t + 1)
        else s) (setRef s a (getRef s a - 1)), b)

/-- The leaf entry of a page set, every shared node of the path copied first and missing nodes made (R271, R274). -/
def setLeaf (v : Nat) : Nat → State → Nat → Nat → W64 → Got? (State × Nat)
  | 0, _, _, _, _ => .error true
  | d + 1, s, a, pg, e =>
    (ownNode s v (d + 1) a).bind fun (s, a) =>
      let at_ := a + 8 * (pg / 512 ^ d % 512)
      if d = 0 then .ok (poke64 s at_ e, a)
      else
        let x := nodeWord s at_
        let child := if neV x then .ok (s, neNode x) else takeNode s v
        child.bind fun (s, b) =>
          (setLeaf v d s b pg e).bind fun (s, b) => .ok (poke64 s at_ (nodeEnt b), a)

/-- The tree grows in depth until it covers a page index (R271). -/
def growTree (v pg : Nat) : Nat → State → OT → Got? (State × OT)
  | 0, s, o => .ok (s, o)
  | n + 1, s, o =>
    if pg < 512 ^ o.depth then .ok (s, o)
    else
      (takeNode s v).bind fun (s, a) =>
        growTree v pg n (poke64 s a (nodeEnt o.root)) { o with root := a, depth := o.depth + 1 }

/-- A leaf entry of a tensor set: the state and the record with its root, which the caller puts. -/
def putLeaf (s : State) (o : OT) (pg : Nat) (e : W64) : Got? (State × OT) :=
  (growTree o.vf pg 5 s o).bind fun (s, o) =>
    (setLeaf o.vf o.depth s o.root pg e).bind fun (s, a) => .ok (s, { o with root := a })

/-! ### Where a slice lies (R270) -/

/-- The page of a slice. -/
def slicePage (o : OT) (k : Nat) : Nat := k / o.spp

/-- The byte of its page at which a slice begins. -/
def sliceByte (o : OT) (k : Nat) : Nat := k % o.spp * o.slicebytes

/-- A read of slice `k` finds storage: it is visible, at or above holdlow, and its page is referenced (R270). -/
def sliceReadable (s : State) (o : OT) (k : Nat) : Bool :=
  decide (k < o.t) && decide (o.holdlow ≤ k) && neV (leafOf s o (slicePage o k))

/-- A nibble of a fresh page, counted from the page's start, holds nothing yet and reads as pad (R278). -/
def nibbleUnwritten (o : OT) (k n : Nat) : Bool :=
  o.fresh.any fun f => decide (f.page = slicePage o k) && decide (f.k ≤ k)
    && !f.written.any fun r => decide (r.1 ≤ n) && decide (n < r.2)

/-- A byte of a slice holds nothing yet: neither of its nibbles, or for `nib` 1 or 2 the one that is named. -/
def byteUnwritten (o : OT) (k off nib : Nat) : Bool :=
  let n := 2 * (sliceByte o k + off)
  if nib = 0 then nibbleUnwritten o k n && nibbleUnwritten o k (n + 1) else nibbleUnwritten o k (n + nib - 1)

/-- A range added to a list of ranges, joined with those that it meets. -/
def addRange (l : List (Nat × Nat)) (a b : Nat) : List (Nat × Nat) :=
  let meets := fun r : Nat × Nat => decide (r.1 ≤ b) && decide (a ≤ r.2)
  let hit := l.filter meets
  (hit.foldl (fun m r => min m r.1) a, hit.foldl (fun m r => max m r.2) b) :: l.filter fun r => !meets r

/-- The physical address of a byte of a slice. -/
def slicePa (s : State) (o : OT) (k off : Nat) : Nat := nePage (leafOf s o (slicePage o k)) + sliceByte o k + off

/-! ### Rules on a tensor -/

/-- Rule slot `n` of a core. -/
def getRule (k : Core) (n : Nat) : Rule := SMap.get (fun _ => {}) k.rules n

/-- The core with rule slot `n` replaced. -/
def setRule (k : Core) (n : Nat) (r : Rule) : Core := { k with rules := SMap.set (fun _ => {}) k.rules n r }

/-- The core and slot of every rule installed on the record at `pa`, on this package. -/
def rulesOn (s : State) (pa : Nat) : List (Nat × Nat) :=
  s.cores.flatMap fun e => (e.2.rules.filter fun r => decide (r.2.st ≠ .free) && decide (r.2.srcPa = pa)).map
    fun r => (e.1, r.1)

/-- A rule slot holds a rule that has not been revoked. -/
def ruleStands (r : Rule) : Bool := r.st ≠ .free && r.st ≠ .revoked

/-- The rules on the record at `pa` that saved contexts hold (R368). -/
def restRules (s : State) (pa : Nat) : List Rule :=
  s.rests.flatMap fun e => if e.2.used then [] else
    (e.2.rules.filter fun r => ruleStands r.2 && decide (r.2.srcPa = pa)).map fun r => r.2

/-- The tensors that rules installed on the record at `pa` feed, those of saved contexts too (R284, R368). -/
def feedsOf (s : State) (pa : Nat) : List Nat :=
  let of := fun rs : SMap Rule => rs.filterMap fun r =>
    if ruleStands r.2 ∧ r.2.srcPa = pa then r.2.feed.map fun x => x.2 else none
  (s.cores.flatMap fun e => of e.2.rules) ++ s.rests.flatMap fun e => if e.2.used then [] else of e.2.rules

/-- A rule changed. -/
def onRule (s : State) (c n : Nat) (f : Rule → Rule) : State := onCore s c fun k => setRule k n (f (getRule k n))

/-! ### Counters (R268, R269, R284, R286) -/

/-- Counter of a binding kind: 1 C, 2 P, 3 T. -/
def counterOf (o : OT) (kind : Nat) : Nat := if kind = 1 then o.c else if kind = 2 then o.p else o.t

/-- Bound flags of a core receive a counter that changed (R286). -/
def notifyCore (pa : Nat) (old new : OT) (g : Sig) (k : Core) : Core :=
  k.binds.foldl (fun k b =>
    if b.2.kind ≠ 0 ∧ b.2.pa = pa ∧ counterOf old b.2.kind ≠ counterOf new b.2.kind then
      setFlag k b.1 { bits := BitVec.ofNat 32 (counterOf new b.2.kind) } g
    else k) k

/-- The events that raised a counter, after one that changes it from `a` to `b`: a raise is added, and a fall leaves to each
the slices below the new value (R313). -/
def logRaise (l : List (Nat × Sig)) (a b : Nat) (g : Sig) : List (Nat × Sig) :=
  if a < b then l ++ [(b, g)]
  else if b < a then (l.filter fun e => decide (e.1 < b)) ++ ((l.find? fun e => decide (b ≤ e.1)).toList.map fun e => (b, e.2))
  else l

/-- The values of the event that raised a counter past a slice. -/
def raiseSig (l : List (Nat × Sig)) (slice : Nat) : Sig := ((l.find? fun e => decide (slice < e.1)).map fun e => e.2).getD {}

/-- The record with new counters, whose change every bound flag follows. -/
def putCounters (s : State) (pa : Nat) (o : OT) (g : Sig) : State :=
  let old := getOT s pa
  let o := { o with csig := if old.c = o.c then o.csig else g, psig := if old.p = o.p then o.psig else g,
                    tsig := if old.t = o.t then o.tsig else g,
                    clog := logRaise old.clog old.c o.c g, tlog := logRaise old.tlog old.t o.t g }
  let s := putOT s pa o
  eachCore s fun _ => notifyCore pa old o g

/-! ### Retention (R277) -/

/-- Every frame that a saved context holds (R178, R368). -/
def restHolds (r : CtxRest) : List Nat :=
  (r.engines.flatMap fun e => e.2.flatMap fun a => a.holds) ++ (r.chans.flatMap fun e => e.2.flatMap fun a => a.holds)
    ++ (r.saqs.flatMap fun a => a.holds) ++ r.holds

/-- A command, a firing or an abandoned SAQ of a saved context holds the frame (R178, R270, R368). -/
def frameHeld (s : State) (fr : Nat) : Bool :=
  (s.cores.any fun e =>
    (e.2.engines.any fun q => q.2.active.any (fun a => a.holds.contains fr) || q.2.again.any fun a => a.holds.contains fr)
      || e.2.chans.any fun h => h.2.any fun a => a.holds.contains fr)
    || s.rests.any fun e => !e.2.used && (restHolds e.2).contains fr

/-- holdlow as R277 gives it, from the counter C, the window, the rules' cursors and the pages below it that are held. The
rules of saved contexts count with their cursors; one that is counted and is nowhere to be found keeps the storage (R368). -/
def newHoldlow (s : State) (pa : Nat) : Nat :=
  let o := getOT s pa
  let rs := ((rulesOn s pa).map fun cn => getRule (getCore s cn.1) cn.2) ++ restRules s pa
  if o.window = 0 ∨ rs.length < o.nrules then o.holdlow
  else
    let top := rs.foldl (fun m r => min m r.cursor) (o.c - o.window)
    let held := (List.range (top / o.spp + 1 - o.holdlow / o.spp)).find? fun i =>
      let e := leafOf s o (o.holdlow / o.spp + i)
      neV e && frameHeld s (nePage e / 65536)
    match held with
    | some i => max o.holdlow (min top ((o.holdlow / o.spp + i) * o.spp))
    | none => max o.holdlow top

/-- A leaf entry is removed and its page's count released. -/
def removeLeaf (s : State) (o : OT) (pg : Nat) : Got? (State × OT) :=
  let e := leafOf s o pg
  if !neV e then .ok (s, o)
  else
    (putLeaf s o pg 0).map fun (s, o) =>
      (dropPage s (nePage e), { o with pages := o.pages - 1, cuts := o.cuts.filter fun x => decide (x.1 ≠ pg),
                                       fresh := o.fresh.filter fun x => decide (x.page ≠ pg) })

/-- Pages from `pg` up to `last` lose their entries, as far as node copies can be made. -/
def retirePages : Nat → State → OT → Nat → State × OT × Nat
  | 0, s, o, pg => (s, o, pg)
  | n + 1, s, o, pg =>
    match removeLeaf s o pg with
    | .ok (s, o) => retirePages n s o (pg + 1)
    | .error _ => (s, o, pg)

/-- The retention of a tensor is brought up to date (R277). -/
def retain (s : State) (pa : Nat) : State :=
  let o := getOT s pa
  let h := newHoldlow s pa
  if o.st ≠ 1 ∨ o.spp = 0 ∨ h ≤ o.holdlow then s
  else
    let n := h / o.spp - o.holdlow / o.spp
    let r := retirePages n s o (o.holdlow / o.spp)
    let h := if r.2.2 = h / o.spp then h else max o.holdlow (r.2.2 * o.spp)
    putOT r.1 pa { r.2.1 with holdlow := h }

/-- The fed tensors of a record follow it at every change, down the chain (R284). -/
def follow : Nat → State → Nat → Sig → State
  | 0, s, _, _ => s
  | n + 1, s, pa, g =>
    let u := getOT s pa
    (feedsOf s pa).foldl (fun s d =>
      let o := getOT s d
      let o' := { o with c := min u.c o.filled, p := min u.p o.filled, t := min u.t o.filled }
      if o.st ≠ 1 ∨ (o'.c = o.c ∧ o'.p = o.p ∧ o'.t = o.t) then s
      else follow n (retain (putCounters s d o' g) d) d g) s

/-- A counter change of the record at `pa` with everything that follows it. -/
def changeCounters (s : State) (pa : Nat) (o : OT) (g : Sig) : State :=
  let s := putCounters s pa o g
  follow s.ots.length s pa g

/-- Pages that slices from Q through `k` newly occupy are taken; the slice at which storage is missing else. -/
def claimPages (k : Nat) : Nat → State → OT → Nat → Except (Nat × Bool) (State × OT)
  | 0, s, o, _ => .ok (s, o)
  | n + 1, s, o, pg =>
    if k / o.spp < pg then .ok (s, o)
    else if neV (leafOf s o pg) then claimPages k n s o (pg + 1)
    else
      match (takePage s o.vf).bind fun (s, a) => putLeaf s o pg (leafEnt a false) with
      | .ok (s, o) => claimPages k n s { o with pages := o.pages + 1 } (pg + 1)
      | .error b => .error (max o.q (pg * o.spp), b)

/-- Claim through `k` (R269): Q and the pages, or the slice with the kind of shortage (R276). -/
def claim (s : State) (pa k : Nat) : Except (Nat × Bool) State :=
  let o := getOT s pa
  if k < o.q then .ok s
  else
    (claimPages k ((getFctx s o.vf).poolpages + 2) s o (o.q / o.spp)).map fun (s, o) => putOT s pa { o with q := k + 1 }

/-- Publish through `k` (R269). -/
def publish (s : State) (pa k : Nat) (g : Sig) : Except (Nat × Bool) State :=
  (claim s pa k).map fun s =>
    let o := getOT s pa
    let p := max o.p (k + 1)
    changeCounters s pa { o with p := p, t := max o.t p } g

/-- Tentative through `k` (R269). -/
def tentative (s : State) (pa k : Nat) (g : Sig) : Except (Nat × Bool) State :=
  (claim s pa k).map fun s =>
    let o := getOT s pa
    changeCounters s pa { o with t := max o.t (k + 1) } g

/-- Commit through `k`, which lies below T (R269). -/
def commit (s : State) (pa k : Nat) (g : Sig) : State :=
  let o := getOT s pa
  let c := max o.c (k + 1)
  retain (changeCounters s pa { o with c := c, p := max o.p c } g) pa

/-! ### Rejection (R269, R278, R285) -/

/-- The page indices at which a tree of a depth has leaf entries, from the index that its first entry stands for. -/
def leafPages (s : State) : Nat → Nat → Nat → List Nat
  | 0, _, _ => []
  | d + 1, a, base =>
    (List.range 512).flatMap fun i =>
      let e := nodeWord s (a + 8 * i)
      if !neV e then [] else if d = 0 then [base + i] else leafPages s d (neNode e) (base + i * 512 ^ d)

/-- The entries of every page whose first slice is `k` or above are removed, those that a fork shares above its Q too, and the
page that holds slice `k` inside is cut: an earlier, lower cut of it stands, since nothing has been written into it since. -/
def cutPages (s : State) (o : OT) (k : Nat) : Got? (State × OT) :=
  let gone := (leafPages s o.depth o.root 0).filter fun pg => decide (k ≤ pg * o.spp)
  let r := gone.foldl (fun acc pg => Except.bind acc fun (s, o) => removeLeaf s o pg) (Except.ok (s, o))
  r.bind fun (s, o) =>
    let pg := k / o.spp
    let e := leafOf s o pg
    if k % o.spp = 0 ∨ !neV e then .ok (s, o)
    else
      (putLeaf s o pg (leafEnt (nePage e) true)).map fun (s, o) =>
        (s, { o with cuts := (pg, ((o.cuts.find? fun x => decide (x.1 = pg)).map fun x => min x.2 k).getD k)
                               :: o.cuts.filter fun x => decide (x.1 ≠ pg) })

/-- A firing in progress on a slice at or above `k` becomes void (R285). -/
def voidFiring (n k : Nat) (c : Core) : Core :=
  { c with engines := c.engines.map fun e =>
      (e.1, { e.2 with active := e.2.active.map fun a =>
        if a.rule = some n ∧ k ≤ a.slice then { a with void := true } else a }),
           chans := c.chans.map fun e => (e.1, e.2.map fun a =>
        if a.rule = some n ∧ k ≤ a.slice then { a with void := true } else a) }

/-- The limit of a rule on a record: C for an installed SRABS, T for every other (R191, R282). -/
def limitIn (o : OT) (r : Rule) : Nat := if opcodeOf r.cmd.word = 0xBD then o.c else o.t

/-- What a rejection does to one rule of the tensor (R285). The publish of an RSKIP that has not been performed is void as a
firing's is (R308). A rule that it re-arms at or above its limit adopts at its
firing the values of the event that raises the limit again (R313). -/
def rejectRule (o : OT) (k : Nat) (g : Sig) (r : Rule) : Rule :=
  { r with st := if r.st = .faulted ∧ k ≤ r.cursor then .armed else r.st,
           rearm := if k < r.cursor ∨ (r.st = .faulted ∧ k ≤ r.cursor) then (if min r.cursor k < limitIn o r then some g else none)
             else r.rearm,
           cursor := min r.cursor k, skipVoid := r.skipVoid || (r.skip && decide (k ≤ r.skipAt)) }

/-- What a rejection does to the rules of a saved context. -/
def rejectRest (o : OT) (pa k : Nat) (g : Sig) (r : CtxRest) : CtxRest :=
  { r with rules := r.rules.map fun e =>
      if e.2.st ≠ .free ∧ e.2.srcPa = pa then (e.1, rejectRule o k g e.2) else e }

/-- Reject the record at `pa` to `k`, with the rules and the fed tensors, or nothing where a node copy is missing
(R285). The publishes of appends in flight stand (R269). -/
def rejectTree : Nat → State → Nat → Nat → Sig → Got? State
  | 0, s, _, _, _ => .ok s
  | n + 1, s, pa, k, g =>
    let o := getOT s pa
    (cutPages s o k).bind fun (s, o) =>
      let s := putCounters s pa { o with p := min o.p k, t := min o.t k, q := min o.q k, filled := min o.filled k } g
      let s := (rulesOn s pa).foldl (fun s cn =>
        onCore (onRule s cn.1 cn.2 (rejectRule (getOT s pa) k g)) cn.1 (voidFiring cn.2 k)) s
      let s := { s with rests := s.rests.map fun e => (e.1, rejectRest (getOT s pa) pa k g e.2) }
      (feedsOf s pa).foldl (fun acc d => Except.bind acc fun s =>
        if (getOT s d).st = 1 then rejectTree n s d (min k (getOT s d).filled) g else .ok s) (Except.ok s)

/-- Reject to `k` (R269), `k` already raised to C. -/
def reject (s : State) (pa k : Nat) (g : Sig) : Got? State := rejectTree (s.ots.length + 1) s pa k g

/-! ### Writes (R274, R278) -/

/-- The marks of the page at `b` after a copy of `n` bytes of the page at `a`: those of the copied granules, and none that an
earlier use of its frame left. -/
def copyMarks (s : State) (a b n : Nat) : State :=
  let own := s.poison.filter fun e => decide (e.1 < b / 64) || decide (b / 64 + 1024 ≤ e.1)
  (s.poison.filter fun e => e.2.poison && decide (a / 64 ≤ e.1) && decide (e.1 < a / 64 + ceilDiv n 64)).foldl
    (fun s e => setPz s (b / 64 + (e.1 - a / 64)) { poison := true }) { s with poison := own }

/-- The first `n` bytes of the page at `a` copied to the page at `b`, and to its mirror (R389). -/
def copyPage (s : State) (a b n : Nat) : State :=
  let bytes := memBytes s a n
  mirrorFrame (copyMarks { keepOld s b n with mem := pokeBytes s.mem b bytes } a b n) (b / 65536)

/-- The path to a page and the page itself made the record's own before a write (R274, R278). -/
def ownPage (s : State) (pa pg : Nat) : Got? State :=
  let o := getOT s pa
  let e := leafOf s o pg
  if !neV e then .ok s
  else
    (putLeaf s o pg e).bind fun (s, o) =>
      let a := nePage e
      if getRef s a ≤ 1 ∧ !neM e then .ok (putOT s pa o)
      else
        (takePage s o.vf).bind fun (s, b) =>
          let cut := o.cuts.find? fun x => decide (x.1 = pg)
          let old := o.fresh.find? fun x => decide (x.page = pg)
          let k := match cut with
            | some x => x.2
            | none => (pg + 1) * o.spp
          let n := if neM e then k % o.spp * o.slicebytes else 65536
          let fresh : List FreshPage :=
            if !neM e then [] else
            match old with
            | some f => [{ f with k := min f.k k, written := (f.written.filter fun r => decide (r.1 < 2 * n)).map fun r => (r.1, min r.2 (2 * n)) }]
            | none => [{ page := pg, k := k }]
          let rest := if neM e then o.fresh.filter fun x => decide (x.page ≠ pg) else o.fresh
          let s := copyPage s a b n
          (putLeaf s { o with cuts := o.cuts.filter fun x => decide (x.1 ≠ pg), fresh := fresh ++ rest } pg
            (leafEnt b false)).map fun (s, o) => dropPage (putOT s pa o) a

/-- What a write into slice `k` needs before its first byte: a claim for a slice at or above Q, and the page the
record's own. The slice and the kind of shortage else (R270, R274, R276). -/
def readyWrite (s : State) (pa k : Nat) : Except (Nat × Bool) State :=
  (claim s pa k).bind fun s =>
    match ownPage s pa (slicePage (getOT s pa) k) with
    | .ok s => .ok s
    | .error b => .error (k, b)

/-- Bytes written into slice `k`, or one nibble of a byte, are noted in a fresh page, and lower the mirror cursor of a mirrored
record (R278, R389). -/
def noteSliceWrite (s : State) (pa k off size nib : Nat) : State :=
  let o := getOT s pa
  let n := 2 * (sliceByte o k + off)
  let r := if nib = 0 then (n, n + 2 * size) else (n + nib - 1, n + nib)
  let fresh := o.fresh.map fun f =>
    if f.page = slicePage o k ∧ f.k ≤ k then { f with written := addRange f.written r.1 r.2 } else f
  putOT s pa { o with fresh := fresh, mcursor := if o.mirrored then min o.mcursor k else o.mcursor }

/-! ### Holds (R178, R270, R272) -/

/-- A hold on a page's frame. -/
def holdFrame (s : State) (fr : Nat) : State := setRef s (fr * 65536) (getRef s (fr * 65536) + 1)

/-- Holds released, and the retention of every tensor brought up to date (R277). -/
def releaseHolds (s : State) (l : List Nat) : State :=
  if l.isEmpty then s
  else
    let s := l.foldl (fun s fr => dropPage s (fr * 65536)) s
    s.ots.foldl (fun s e => retain s e.1) s

/-- cr.einfo of QUOTA (R276). -/
def quotaInfo (k : Nat) (node : Bool) : W64 := BitVec.ofNat 64 (k % 2 ^ 40 + node.toNat * 2 ^ 63)

/-- A QUOTA fault found at an event: nothing changes (R220, R276, R305). -/
def quotaTrap (k : Nat) (node : Bool) : PTrap := { cause := 0x0B, einfo := quotaInfo k node }

/-! ### Opening, forking, dropping (R273, R275, R307) -/

/-- Bytes of an element of a type code; half a byte for cb4 counts as bits (R79, R267). -/
def typeBits (t : Nat) : Nat :=
  match t with
  | 0 => 32
  | 1 => 16
  | 2 => 16
  | 3 => 8
  | 4 => 8
  | 5 => 4
  | 6 => 32
  | 7 => 16
  | 8 => 8
  | 9 => 32
  | 10 => 16
  | 11 => 8
  | _ => 0

/-- The record as software wrote it, with its hw fields at their first values (R307). -/
def readRecord (s : State) (pa v tag : Nat) : OT :=
  let g := fun (off n : Nat) => natOfBytes (memBytes s (pa + off) n)
  let sb := g 48 4
  { st := 1, window := g 40 8, slicebytes := sb, spp := if sb = 0 then 0 else 65536 / sb, type := g 54 1 % 16,
    sdim0 := g 56 2, sdim1 := g 58 2, sdim2 := g 60 2, owner := tag, vf := v, mirrored := g 65 1 % 2 = 1,
    mirror := g 72 8 % 2 ^ 55, mslots := g 80 8 }

/-- The sw fields keep R266, R267 and R307. -/
def recordOk (o : OT) : Bool :=
  decide (o.window < 2 ^ 40) && decide (o.slicebytes % 64 = 0) && decide (64 ≤ o.slicebytes)
    && decide (o.slicebytes ≤ 65536) && decide (o.type ≤ 11) && decide (1 ≤ o.sdim0) && decide (1 ≤ o.sdim1)
    && decide (1 ≤ o.sdim2) && decide (o.mslots < 2 ^ 40)
    && !(o.mirrored && decide (o.mirror = 0))
    && decide (o.sdim0 * o.sdim1 * o.sdim2 * typeBits o.type ≤ o.slicebytes * 8)

/-- A record's bindings end when it leaves LIVE; the flags keep their values (R293). -/
def endBinds (s : State) (pa : Nat) : State :=
  eachCore s fun _ k => { k with binds := k.binds.filter fun b => decide (b.2.pa ≠ pa) || decide (b.2.kind = 0) }

/-- A rule no longer counts on its source, its claim on storage is released, and its feed link ends; but a tensor whose
source has been dropped stays fed, and receives no slice more (R275, R281, R288; assumption 61). -/
def unlinkRule (s : State) (r : Rule) : State :=
  let u := getOT s r.srcPa
  let s := match r.feed with
    | some (_, d) => if u.st = 1 then putOT s d { getOT s d with feed := none } else s
    | none => s
  let o := getOT s r.srcPa
  retain (putOT s r.srcPa { o with nrules := o.nrules - 1 }) r.srcPa

/-- The windows of a rule that is gone stay mapped (R114), as windows of their descriptors alone; what their granules hold is
filled anew. DESIGN CHOICE, assumption 28: R418 gives them a slice only while the rule stands. -/
def leaveWindows (s : State) (c n : Nat) : State :=
  let s := ((getCore s c).wins.filter fun w => decide (w.rule = some n)).foldl (looseWindow c) s
  onCore s c fun k =>
    { k with wins := k.wins.map fun w => if w.rule = some n then { w with rule := none, filled := [], dirty := [] } else w }

/-- The rule slot becomes free (R281, R288). -/
def freeRule (s : State) (c n : Nat) : State :=
  let r := getRule (getCore s c) n
  if r.st = .free then s else unlinkRule (leaveWindows (onRule s c n fun _ => {}) c n) r

/-- REVOKE of a rule, after the firing in progress if there is one (R288, R423). -/
def revokeRule (s : State) (c n : Nat) : State :=
  if (getRule (getCore s c) n).st = .firing then onRule s c n fun r => { r with pend := .revoke }
  else freeRule s c n

/-- A firing of a saved context's rule is in progress, and is kept with the context (R289). -/
def restFires (r : CtxRest) (n : Nat) : Bool := r.engines.any fun e => e.2.any fun a => decide (a.rule = some n)

/-- A saved context's rules on a record are revoked: at once, or after the firing in progress (R275). -/
def revokeSaved (pa : Nat) (r : CtxRest) : CtxRest :=
  { r with rules := r.rules.map fun e =>
      if ruleStands e.2 && decide (e.2.srcPa = pa) then
        (e.1, if restFires r e.1 then { e.2 with pend := .revoke } else { e.2 with st := .revoked })
      else e }

/-- SLDROP: RELEASING, its rules revoked, those of saved contexts too, and its bindings ended (R275, R293). -/
def dropRecord (s : State) (pa : Nat) : State :=
  let gone := (s.rests.flatMap fun e => if e.2.used then [] else
    (e.2.rules.filter fun r => ruleStands r.2 && decide (r.2.srcPa = pa) && !restFires e.2 r.1)).length
  let o := getOT s pa
  let s := putOT s pa { o with st := 2, nrules := o.nrules - gone }
  let s := endBinds { s with rests := s.rests.map fun e => if e.2.used then e else (e.1, revokeSaved pa e.2) } pa
  (rulesOn s pa).foldl (fun s cn => revokeRule s cn.1 cn.2) s

/-- The record's owning tag is CANCELLING: it is released as by SLDROP (R257). -/
def ownerCancelled (s : State) (o : OT) : Bool :=
  let t := SMap.get (fun _ => ({} : Tag)) s.tags o.owner
  decide (o.st = 1) && t.cancelling && decide (t.vf = o.vf)

/-- FROND_RELEASE (R257, R275): a tensor of a cancelled subtree is dropped; and once no firing is in progress on a
RELEASING record, its root's count is released and it becomes FREE. -/
def execFrondRelease (pa : Nat) (s : State) : Out :=
  let s := if ownerCancelled s (getOT s pa) then dropRecord s pa else s
  let o := getOT s pa
  .next (if o.st = 2 ∧ (rulesOn s pa).isEmpty ∧ (restRules s pa).isEmpty then
      putOT (dropNode o.depth s o.root) pa { getOT s pa with st := 0, root := 0, pages := 0, cuts := [], fresh := [],
                                                             claims := [], late := [], feed := none }
    else s)

/-- SLFORK (R273): the new record of a LIVE one, with the fields that it copies and a clear MIRROR in its memory too. -/
def forkRecord (s : State) (src dst tag : Nat) : State :=
  let o := getOT s src
  let s := setRef s o.root (getRef s o.root + 1)
  let n : OT := { o with q := o.t, feed := none, mirrored := false, mcursor := 0, nrules := 0, owner := tag,
                         claims := [], late := [], filled := 0, csig := {}, psig := {}, tsig := {} }
  let s := setFields (putLive s dst n) dst (swFields n)
  writePhys s (dst + 65) [memByte s (dst + 65) &&& 0xFE] false {}

/-! ### Appends' publishes in claim order (R269) -/

/-- The publish of the lowest slice. -/
def earliest : List LatePub → Option LatePub
  | [] => none
  | x :: l =>
    match earliest l with
    | some y => if y.slice < x.slice then some y else some x
    | none => some x

/-- Waiting publishes that no earlier claim holds any more take effect, in claim order. One that finds no storage for a slice rejected since
is not made, and its core takes QUOTA (R276). -/
def flushLate : Nat → State → Nat → State
  | 0, s, _ => s
  | n + 1, s, pa =>
    let o := getOT s pa
    match earliest (o.late.filter fun x => !o.claims.any fun y => decide (y < x.slice)) with
    | none => s
    | some x =>
      let s := putOT s pa { o with late := o.late.erase x }
      match publish s pa x.slice x.sig with
      | .ok s => flushLate n s pa
      | .error (k, node) => flushLate n (pendC s x.core (quotaTrap k node)) pa

/-- The publish at the retirement of an append of slice `k`: at once, or when every lower claim has published. -/
def publishAppend (s : State) (c pa k : Nat) (g : Sig) : State :=
  let o := getOT s pa
  let s := putOT s pa { o with claims := o.claims.erase k, late := o.late ++ [{ slice := k, core := c, sig := g }] }
  flushLate ((getOT s pa).late.length) s pa

/-- An append that is discarded or void no longer holds the publishes above it. -/
def dropClaim (s : State) (pa k : Nat) : State :=
  let o := getOT s pa
  if o.claims.contains k then flushLate o.late.length (putOT s pa { o with claims := o.claims.erase k }) pa else s

end Sys2Proof.Machine
end

