-- ==== Sys2Proof/Machine/Operands.lean ====
section
/-! DEFINITION. The operands of queue-routed commands: the descriptors they name, the checks of R120 and the bank rule
(R127), element addresses (R136, R270) and the accesses that reach them. -/

namespace Sys2Proof.Machine

open Sys2Proof

/-! ### The descriptors an instruction names (R28, R168, R172) -/

/-- A use of a descriptor: the place in the capture, the register, whether the command writes it, and the types that
the operand accepts. -/
structure Use where
  pos : Nat
  reg : Nat
  write : Bool
  types : Nat → Bool

/-- The stream forms of R168. -/
def streamOp (op : Nat) : Bool := (decide (0x60 ≤ op) && decide (op ≤ 0x6E)) || (decide (0x70 ≤ op) && decide (op ≤ 0x77))

/-- The descriptors of a stream form: the register fields its register form uses (R151, R168). No vector instruction accepts
cb4 or i64 (R79). DESIGN CHOICE, assumption 62: the forms that use no type field, VSEL, VAND, VOR and VXOR, accept every other
type and any mix of them. -/
def streamUses (op : Nat) (o : OpV) : List Use :=
  let typed := fun t : Nat => if 0x70 ≤ op ∧ op ≤ 0x73 then decide (t ≠ 5) && decide (t ≤ 11) else decide (t = o.type.toNat)
  let srcTy := fun t : Nat => if op = 0x6E then decide (t = o.fn.toNat % 16) else typed t
  let vd : Use := { pos := 0, reg := o.vd.toNat, write := true, types := typed }
  let va : Use := { pos := 1, reg := o.va.toNat, write := false, types := srcTy }
  let vb : Use := { pos := 2, reg := o.vb.toNat, write := false, types := typed }
  let vc : Use := { pos := 3, reg := o.vc.toNat, write := false, types := typed }
  if op = 0x63 ∨ op = 0x64 ∨ op = 0x70 then [vd, va, vb, vc]
  else if 0x67 ≤ op ∧ op ≤ 0x6E then [vd, va]
  else if op = 0x77 then (if o.fn = 1 then [vd] else [vd, va])
  else if 0x74 ≤ op ∧ op ≤ 0x76 ∧ o.fn = 1 then [vd, va]
  else [vd, va, vb]

/-- Types that MMA's dA accepts (R121). -/
def mmaA (t : Nat) : Bool := decide (1 ≤ t) && decide (t ≤ 5)

/-- Types that MMA's dB accepts beside a dA type (R121). -/
def mmaB (a t : Nat) : Bool :=
  match a with
  | 1 => decide (t = 1)
  | 2 => decide (t = 2)
  | _ => decide (3 ≤ t) && decide (t ≤ 5)

/-- Any type of a descriptor. -/
def anyTy (_ : Nat) : Bool := true

/-- The descriptors of a format E instruction, given the contents of the registers they name: the types of one may
depend on another's (R121, R230). -/
def engineUses (i : Instr) (rd : Nat → W512) : List Use :=
  let a := fun (o : OpE) (w : Bool) (ty : Nat → Bool) => ({ pos := 0, reg := o.dA.toNat, write := w, types := ty } : Use)
  let b := fun (o : OpE) (w : Bool) (ty : Nat → Bool) => ({ pos := 1, reg := o.dB.toNat, write := w, types := ty } : Use)
  let c := fun (o : OpE) (w : Bool) (ty : Nat → Bool) => ({ pos := 2, reg := o.dC.toNat, write := w, types := ty } : Use)
  let is := fun (n t : Nat) => decide (t = n)
  let idx := fun t : Nat => decide (t = 6) || decide (t = 9)
  let noCb := fun t : Nat => decide (t ≠ 5)
  let same := fun (o : OpE) (t : Nat) => decide (t = dType (rd o.dB.toNat))
  let epi := fun o : OpE =>
    [a o true noCb] ++ (if o.mods.getLsbD 14 then [b o false (is 0)] else [])
      ++ (if o.mods.getLsbD 13 || o.mods.getLsbD 12 then [c o false (is 0)] else [])
  match i with
  | .mma _ o => [a o false mmaA, b o false (mmaB (dType (rd o.dA.toNat)))]
  | .mtbl _ o => [a o false (is 1)]
  | .epi _ o => epi o
  | .epired _ o => epi o
  | .epifn _ o => [a o false (is 0)]
  | .cpy _ o => [a o true (same o), b o false anyTy]
  | .cpyg _ o => [a o true (same o), b o false anyTy, c o false idx]
  | .cpys _ o => [a o true (same o), b o false anyTy, c o false idx]
  | .cpyidx _ o => [a o true (same o), b o false anyTy]
  | .cpyfill _ o => [a o true anyTy]
  | .cpymir _ o => [b o false anyTy]
  | .saq _ o =>
    [a o true (is 0), b o false (is 1), c o false (is 1),
     { pos := 3, reg := (o.dC.toNat + 1) % 32, write := false, types := is 1 }]
  | .samask _ o => [a o false (is 9)]
  | .srcfg _ o => [a o false (is 0)]
  | .srabsDesc _ o => [a o false fun t => decide (t ≤ 1)]
  | .srread _ o =>
    (if o.mods.getLsbD 0 then [a o true (is 0)] else []) ++ (if o.mods.getLsbD 1 then [b o true (is 0)] else [])
      ++ (if o.mods.getLsbD 2 then [c o true (is 9)] else [])
  | .srset _ o => [a o false (is 0)]
  | _ => []

/-- The frame of a slot word and whether its install bit stands. -/
def instBit (w : W64) : Bool := w.getLsbD 51

/-- The descriptors that a queue-routed slot word names; a vector form names them only in stream form, that is with
its install bit set (R168). -/
def usesOf (i : Instr) (w : W64) (rd : Nat → W512) : List Use :=
  let op := opcodeOf w
  if 0xA0 ≤ op then engineUses i rd
  else if instBit w && streamOp op then streamUses op (opVOf (bodyOf w))
  else []

/-- What the install bit of a slot comes to (R62, R279). -/
inductive InstKind where
  | off
  | install (pos : Nat)
  /-- Executes once, with W_INSTALL. -/
  | once
  /-- Takes and gives only, with W_INSTALL. -/
  | none
deriving DecidableEq, Repr

/-- Installs exactly when one captured descriptor is open and the command reads it; CPYMIR never does. DESIGN CHOICE, assumption
74: the fields are counted, so that one open register named in two of them is more than one open descriptor (R62). -/
def instKind (w : W64) (us : List Use) (rd : Nat → W512) : InstKind :=
  if !instBit w then .off
  else
    match us.filter fun u => isOpen (rd u.reg) with
    | [] => .once
    | [u] => if u.write || decide (opcodeOf w = 0xB5) then .once else .install u.pos
    | _ => .none

/-- The descriptors that the command carries: a vector form that runs once carries none. -/
def commandUses (w : W64) (us : List Use) (ik : InstKind) : List Use :=
  match ik with
  | .install _ => us
  | _ => if opcodeOf w < 0xA0 then [] else us

/-- The captured contents, placed by field (R366). -/
def capture (us : List Use) (rd : Nat → W512) : List W512 :=
  if us.isEmpty then []
  else (List.range 4).map fun p =>
    match us.find? fun u => decide (u.pos = p) with
    | some u => rd u.reg
    | none => 0

/-- The queue of a queue-routed opcode (R70 to R72): 0 LDQ to 5 STQ; a copy's follows its descriptors, and one with no
stash side has none. -/
def queueOf (w : W64) (us : List Use) (rd : Nat → W512) : Option Nat :=
  let op := opcodeOf w
  let inStash := fun (p : Nat) => us.any fun u => decide (u.pos = p) && onStash (rd u.reg)
  if op < 0xA0 then some 3
  else if op = 0xB5 then some 5
  else if op ≤ 0xA2 then some 1
  else if op ≤ 0xAA then some 2
  else if 0xB8 ≤ op then some 4
  else if inStash 0 then some 0
  else if inStash 1 || decide (op = 0xB4) then some 5
  else none

/-! ### The checks of R120 -/

/-- Reasons 1 to 8 of one descriptor, in the table's order. -/
def descReason (d : W512) (types : Nat → Bool) : Option Nat :=
  let es := tySize (dType d)
  let badStride := (List.range 3).any fun k => decide (dStride d k % (es : Int) ≠ 0)
  if dKind d = 0 ∨ 4 ≤ dKind d then some 1
  else if dDim d 0 = 0 ∨ dDim d 1 = 0 ∨ dDim d 2 = 0 then some 2
  else if (dOpen d ∧ dKind d ≠ 3) ∨ (dKind d = 3 ∧ !dOpen d) ∨ (dOpen d ∧ dAxis d = 3) then some 3
  else if 12 ≤ dType d ∨ !types (dType d) then some 4
  else if dType d = 5 ∧ dBlen d = 0 then some 5
  else if (dKind d ≠ 2 ∧ dBase d % es ≠ 0) ∨ badStride ∨ (dKind d = 3 ∧ (dOtr d = 0 ∨ dOtr d % 256 ≠ 0)) then some 6
  else if (dKind d = 2 ∧ !dWin d) ∨ (dWin d ∧ 16384 < dOffset d + dSize d + 1) then some 7
  else if (dWin d ∧ dSize d + 1 < dDim d 1 * dDim d 2 * rowUnits d) ∨ (dPitch d ≠ 0 ∧ 64 * dPitch d < rowBytes d) then
    some 8
  else none

/-- Kind-2 descriptors of the commands not yet retired: in the buffer, the queues, the engines and the channels. DESIGN CHOICE,
assumption 79: an installed command counts only while it fires (R120). -/
def liveRanges (k : Core) : List W512 :=
  let ofCmd := fun c : Cmd => c.descs.filter fun d => decide (dKind d = 2)
  (k.buf.flatMap fun b => match b.ev with
    | .push _ c => ofCmd c
    | _ => [])
  ++ (k.engines.flatMap fun e => e.2.queue.flatMap ofCmd ++ (e.2.active ++ e.2.again).flatMap fun a => ofCmd a.cmd)
  ++ k.chans.flatMap fun e => e.2.flatMap fun a => ofCmd a.cmd

/-- Reasons 9 and 10 (R114, R120): overlap with another mapping, and a full map. -/
def mapReason (k : Core) (d : W512) : Option Nat :=
  if !onStash d then none
  else if (k.wins.any fun w => overlaps w.desc d && !sameMapping w.desc d)
      || (liveRanges k).any fun r => overlaps r d && !sameMapping r d then some 9
  else if hasWindow d && !(k.wins.any fun w => sameMapping w.desc d) && decide (64 ≤ k.wins.length) then some 10
  else none

/-- The window of a captured descriptor enters the map, if it is new (R114). -/
def addWindow (k : Core) (asid : Nat) (rule : Option Nat) (d : W512) : Core :=
  if hasWindow d && !(k.wins.any fun w => sameMapping w.desc d) then
    { k with wins := k.wins ++ [{ desc := d, asid := asid, rule := rule }] }
  else k

/-- Reason 11 (R72, rule 4) and reason 12 with its descriptor register (R172, R192, R232, R236); of several descriptors of
one SAQ, the first in the order of R172's table. -/
def specialReason (i : Instr) (w : W64) (us : List Use) (ik : InstKind) (rd : Nat → W512) : Option (Nat × Nat) :=
  let reg := fun (p : Nat) => match us.find? fun u => decide (u.pos = p) with
    | some u => u.reg
    | none => 0
  let d := fun (p : Nat) => rd (reg p)
  let first := fun (l : List (Bool × Nat)) => (l.find? fun x => x.1).map fun x => (12, reg x.2)
  let isInst := match ik with
    | .install _ => true
    | _ => false
  let kind3 := first (us.map fun u => (decide (dKind (rd u.reg) = 3), u.pos))
  match i with
  | .saq _ o =>
    let kvBad := fun (p : Nat) => decide (dKind (d p) ≠ 3) || decide (dDim (d p) 0 ≠ 128) || decide (64 < dDim (d p) 1)
      || dWin (d p)
    let rows := min (dDim (d 1) 1) (if dRowbound (d 1) = 0 then 65535 else dRowbound (d 1))
    let kvh := field o.mods 12 6
    let pub := o.mods.getLsbD 11
    first [(decide (dDim (d 1) 0 ≠ 128) || decide (64 < dDim (d 1) 1) || !onStash (d 1), 1),
           (kvBad 2 || decide (dDim (d 2) 1 ≤ kvh), 2),
           (kvBad 3 || decide (dDim (d 3) 1 ≠ dDim (d 2) 1), 3),
           (decide (dDim (d 0) 0 < 130) || decide (dDim (d 0) 1 < rows) || (pub && !isOpen (d 0)), 0)]
  | .samask _ _ => none
  | .srcfg _ _ => kind3
  | .srabsDesc _ _ => if isInst then none else kind3
  | .srread _ _ => kind3
  | .srset _ _ => kind3
  | .cpymir _ _ => first [(!isOpen (d 1), 1)]
  | _ =>
    let op := opcodeOf w
    if 0xB0 ≤ op ∧ op ≤ 0xB4 then
      if (queueOf w us rd).isNone then some (11, reg 0)
      else first [(isOpen (d 0) && !w.getLsbD 0 && !isInst, 0)]
    else none

/-- The bank rule of R127: rule and register of the first breach. -/
def bankReason (i : Instr) (w : W64) (us : List Use) (rd : Nat → W512) : Option (Nat × Nat) :=
  let op := opcodeOf w
  let binds5 := op = 0xA8 ∨ op = 0xA9 ∨ (0xB0 ≤ op ∧ op ≤ 0xB4) ∨ op = 0xB8 ∨ (op = 0xBF ∧ us.all fun u => u.write)
  match i with
  | .mma _ o =>
    let a := rd o.dA.toNat
    let b := rd o.dB.toNat
    if !onStash a ∨ dGroup a ≠ 0 then some (1, o.dA.toNat)
    else if !onStash b ∨ dGroup b ≠ 1 then some (2, o.dB.toNat)
    else if rowUnits a % 8 = 0 then some (3, o.dA.toNat)
    else if rowUnits b % 16 = 0 then some (4, o.dB.toNat)
    else none
  | _ =>
    if binds5 then
      (us.find? fun u => u.write && onStash (rd u.reg) && us.any fun v =>
        decide (v.pos ≠ u.pos) && (!v.write || decide (op = 0xBF)) && onStash (rd v.reg)
          && decide (dGroup (rd v.reg) = dGroup (rd u.reg)) ).map fun u => (5, u.reg)
    else none

/-- DESCRIPTOR_INVALID or BANK_CONFLICT with its detail (R120, R128). -/
def descTrap (cause : BitVec 8) (r reg : Nat) : Block := .trap { cause := cause, einfo := BitVec.ofNat 64 (r + 256 * reg) }

/-- Reasons 1 to 10 of the slot's descriptors in the order of its fields; each new window enters the map as it passes. DESIGN
CHOICE, assumption 79: a kind-2 range of the slot counts for reason 9 only once its command has been pushed. -/
def checkUses (asid : Nat) (rd : Nat → W512) : Core → List Use → Except Block Core
  | k, [] => .ok k
  | k, u :: t =>
    match descReason (rd u.reg) u.types with
    | some r => .error (descTrap 0x14 r u.reg)
    | none =>
      match mapReason k (rd u.reg) with
      | some r => .error (descTrap 0x14 r u.reg)
      | none => checkUses asid rd (addWindow k asid none (rd u.reg)) t

/-! ### Effective operands -/

/-- An operand as a command sees it: its descriptor, the base in force, its extents, and for an open tensor the record
and the one slice that a firing or an append stands on. -/
structure Opd where
  d : W512 := 0
  base : Int := 0
  dims : List Nat := [0, 0, 0]
  ot : Option Nat := none
  axis : Nat := 3
  slice : Option Nat := none
  /-- The open source of a firing, whose window follows the slice (R418). -/
  fire : Bool := false
  /-- The record is FREE or another function's: no access to it is allowed (R337). -/
  bad : Bool := false
deriving DecidableEq, Repr

/-- Extent of an operand. -/
def Opd.dim (o : Opd) (k : Nat) : Nat := o.dims.getD k 0

/-- The physical address of a record, under the command's ASID. -/
def recordPa (s : State) (c asid va : Nat) : Option Nat :=
  match translate s (vmid (getCore s c)) asid va false false false [] with
  | .ok t => some t.pa
  | _ => none

/-- Extents of a descriptor with the bounds taken, and extent 1 on an axis that one slice carries. -/
def extents (d : W512) (one : Option Nat) : List Nat :=
  (List.range 3).map fun k => if one = some k then 1 else bounded d k

/-- The record may not be reached by a command of the function. -/
def recordBad (s : State) (v : Nat) (ot : Option Nat) : Bool :=
  match ot with
  | some pa => decide ((getOT s pa).st = 0) || decide ((getOT s pa).vf ≠ v)
  | none => false

/-- The operand at a place of the capture. A firing's open source stands on its slice, every other operand on its base
advanced by the slice; a fed output is an open descriptor of the fed record (R168, R232, R270, R284). -/
def operand (s : State) (c : Nat) (a : Active) (pos : Nat) (write : Bool) : Opd :=
  let v := vmid (getCore s c)
  let d := a.cmd.descs.getD pos 0
  let r := a.rule.map fun n => getRule (getCore s c) n
  match r with
  | none =>
    if isOpen d then
      let one := if write && a.appending then some (dAxis d) else none
      let pa := recordPa s c a.cmd.asid (dOtr d)
      { d := d, base := dBase d, dims := extents d one, ot := pa, axis := dAxis d,
        slice := if write && a.appending then some a.slice else none, bad := recordBad s v pa }
    else { d := d, base := dBase d, dims := extents d none }
  | some r =>
    let srcAxis := (a.cmd.descs.find? fun x => isOpen x).map dAxis
    if isOpen d && !write then
      { d := d, base := dBase d, dims := extents d (some (dAxis d)), ot := some r.srcPa, axis := dAxis d,
        slice := some a.slice, fire := true, bad := recordBad s v (some r.srcPa) }
    else
      match write, r.feed with
      | true, some (_, pa) =>
        { d := d, base := dBase d, dims := extents d (some (dAxis d)), ot := some pa, axis := dAxis d,
          slice := some a.slice, bad := recordBad s v (some pa) }
      | _, _ => { d := d, base := dBase d + a.slice * dAdv d, dims := extents d srcAxis }

/-- An index triple as one key. -/
def keyOf (i0 i1 i2 : Nat) : Nat := i0 + 65536 * (i1 + 65536 * i2)

/-- Where an element lies. -/
inductive Place where
  | stash (off nib : Nat)
  | va (addr nib soff : Nat)
  /-- A byte of a slice of the record; a negative offset lies outside it. -/
  | slice (ot k : Nat) (off : Int) (nib soff : Nat)
  /-- The record's address does not translate. -/
  | lost
deriving DecidableEq, Repr

/-- One axis's part of an element's address (R136, R270). -/
def axisStep (d : W512) (k i : Nat) : Int :=
  if k = 0 then
    if dStride d 0 = 0 then (if dType d = 5 then ((i / 2 : Nat) : Int) else (i : Int) * tySize (dType d))
    else (i : Int) * dStride d 0
  else (i : Int) * dStride d k

/-- Which nibble of its byte the cb4 element with dim0 index `i0` takes on a packed or an unpacked side; 0 for other types
(R93). -/
def nibOf (d : W512) (packed : Bool) (i0 : Nat) : Nat :=
  if dType d ≠ 5 then 0 else if packed then 1 + i0 % 2 else 1

/-- The place of element (i0, i1, i2) of an operand (R115, R136, R270). -/
def placeOf (o : Opd) (i0 i1 i2 : Nat) : Place :=
  let d := o.d
  let ix := [i0, i1, i2]
  let step := fun k => axisStep d k (ix.getD k 0)
  let packed := decide (dStride d 0 = 0)
  let soff := if o.fire then stashSlice d o.axis i0 i1 i2 else stashAddr d i0 i1 i2
  if dKind d = 2 ∧ o.axis = 3 then .stash (stashAddr d i0 i1 i2) (nibOf d true i0)
  else if o.axis < 3 then
    match o.ot with
    | none => .lost
    | some pa =>
      let k := o.slice.getD (ix.getD o.axis 0)
      let off : Int := if o.bad then -1 else o.base + ((List.range 3).map fun x => if x = o.axis then 0 else step x).sum
      .slice pa k off (nibOf d packed (if o.axis = 0 then k else i0)) soff
  else .va ((o.base + step 0 + step 1 + step 2) % 2 ^ 55).toNat (nibOf d packed i0) soff

/-! ### Planning accesses -/

/-- One element's read or write, before it is cut into granules. -/
structure Want where
  space : Space
  elem : Elem
deriving DecidableEq, Repr

/-- The parts of an element that lies across granules. -/
def cutElem : Nat → Elem → List Elem
  | 0, _ => []
  | n + 1, e =>
    let m := min e.size (16 - e.addr % 16)
    if m = e.size then [e]
    else { e with size := m, val := e.val &&& BitVec.ofNat 64 (2 ^ (8 * m) - 1) } ::
      cutElem n { e with part := e.part + m, addr := e.addr + m, size := e.size - m, soff := e.soff + m,
                         val := e.val >>> (8 * m) }

/-- A wanted part kept in ascending order of address; a later part of one address stays later. -/
def insertWant (w : Want) : List Want → List Want
  | [] => [w]
  | x :: t => if w.elem.addr ≤ x.elem.addr then w :: x :: t else x :: insertWant w t

/-- Parts in ascending order of address. -/
def sortWants (l : List Want) : List Want := l.foldr insertWant []

/-- Consecutive parts of one granule of one space become one event (R200). -/
def groupWants (opnd port : Nat) (win : Option W512) (write : Bool) : List Want → List Item
  | [] => []
  | w :: t =>
    match groupWants opnd port win write t with
    | [] => [{ opnd := opnd, port := port, space := w.space, win := win, elems := [w.elem], write := write }]
    | i :: r =>
      match i.elems with
      | [] => i :: r
      | e :: _ =>
        if i.space = w.space ∧ e.addr / 16 = w.elem.addr / 16 then { i with elems := w.elem :: i.elems } :: r
        else { opnd := opnd, port := port, space := w.space, win := win, elems := [w.elem], write := write } :: i :: r

/-- The parts of `sz` bytes of a slice whose first lies at `addr`: one access, or the bytes of a fresh page that nothing has
been written to, which stand for the bytes of `pad` (R278). -/
def partsAt (padded : Nat → Bool) (addr sz nib key soff : Nat) (pad : W64) : List (Except Got Want) :=
  let want := fun i n : Nat =>
    ({ space := .pa, elem := { key := key, part := i, addr := addr + i, size := n, nib := nib, soff := soff + i } } : Want)
  if (List.range sz).all padded then [.error { key := key, size := sz, val := pad }]
  else if (List.range sz).any padded then
    (List.range sz).map fun i =>
      if padded i then .error { key := key, part := i, size := 1, val := (pad >>> (8 * i)) &&& 0xFF } else .ok (want i 1)
  else [.ok (want 0 sz)]

/-- The parts of `sz` bytes of a readable slice from byte `off`. -/
def slicePartsOf (s : State) (ot : OT) (k off sz nib key soff : Nat) (pad : W64) : List (Except Got Want) :=
  partsAt (fun i => byteUnwritten ot k (off + i) nib) (slicePa s ot k off) sz nib key soff pad

/-- The accesses of a list of reads, and the values that need none. -/
def splitWants (opnd : Nat) (l : List (Except Got Want)) : List Want × List Got :=
  (l.filterMap fun w => match w with
    | .ok w => some w
    | .error _ => none,
   l.filterMap fun w => match w with
    | .ok _ => none
    | .error g => some { g with opnd := opnd })

/-- What reading an element at a place needs: accesses, or the parts of its value that stand without one (pad): the whole of
it, or the bytes of a fresh page that nothing has been written to (R270, R278). -/
def wantRead (s : State) (o : Opd) (key : Nat) (p : Place) : List (Except Got Want) :=
  let sz := tySize (dType o.d)
  match p with
  | .stash off nib => [.ok { space := .stash, elem := { key := key, addr := off, size := sz, nib := nib } }]
  | .va addr nib soff => [.ok { space := .va, elem := { key := key, addr := addr, size := sz, nib := nib, soff := soff } }]
  | .lost => [.ok { space := .va, elem := { key := key, addr := dOtr o.d, size := sz } }]
  | .slice pa k off nib soff =>
    let ot := getOT s pa
    if off < 0 ∨ (ot.slicebytes : Int) < off + sz then
      [.ok { space := .slice pa k, elem := { key := key, addr := 2 ^ 40, size := sz, nib := nib } }]
    else if !sliceReadable s ot k then [.error { key := key, size := sz, val := padValue o.d }]
    else slicePartsOf s ot k off.toNat sz nib key soff (padValue o.d)

/-- The reads of some elements of an operand in ascending address order, with the values that need none. -/
def planReads (s : State) (o : Opd) (opnd port : Nat) (l : List (Nat × Nat × Nat)) : List Item × List Got :=
  let (reads, pads) := splitWants opnd (l.flatMap fun (i0, i1, i2) =>
    wantRead s o (keyOf i0 i1 i2) (placeOf o i0 i1 i2))
  let parts := reads.flatMap fun w => (cutElem 3 w.elem).map fun e => { w with elem := e }
  (groupWants opnd port (if hasWindow o.d then some o.d else none) false (sortWants parts), pads)

/-- The lowest address of an event. -/
def Item.start (i : Item) : Nat :=
  match i.elems with
  | e :: _ => e.addr
  | [] => 0

/-- An event kept in ascending order of address; a later event of one address stays later. -/
def insertItem (x : Item) : List Item → List Item
  | [] => [x]
  | y :: t => if x.start ≤ y.start then x :: y :: t else y :: insertItem x t

/-- The events of several operands in ascending order of address. -/
def sortItems (l : List Item) : List Item := l.foldr insertItem []

/-- The write of one element. -/
def wantWrite (o : Opd) (key : Nat) (v : W64) (poison : Bool) (p : Place) : Want :=
  let sz := tySize (dType o.d)
  match p with
  | .stash off nib =>
    { space := .stash, elem := { key := key, addr := off, size := sz, nib := nib, val := v, poison := poison } }
  | .va addr nib soff =>
    { space := .va, elem := { key := key, addr := addr, size := sz, nib := nib, soff := soff, val := v, poison := poison } }
  | .lost => { space := .va, elem := { key := key, addr := dOtr o.d, size := sz, val := v, poison := poison } }
  | .slice pa k off nib soff =>
    { space := .slice pa k,
      elem := { key := key, addr := if off < 0 then 2 ^ 40 else off.toNat, size := sz, nib := nib, soff := soff, val := v,
                poison := poison } }

/-- The writes of some elements of an operand, in the order listed or, for `sorted`, in ascending address order. -/
def planWrites (o : Opd) (opnd port : Nat) (sorted : Bool) (l : List ((Nat × Nat × Nat) × W64 × Bool)) : List Item :=
  let ws := l.map fun ((i0, i1, i2), v, p) => wantWrite o (keyOf i0 i1 i2) v p (placeOf o i0 i1 i2)
  let parts := ws.flatMap fun w => (cutElem 3 w.elem).map fun e => { w with elem := e }
  groupWants opnd port (if hasWindow o.d then some o.d else none) true (if sorted then sortWants parts else parts)

/-- Frames of Frond pages that reads touch (R270). -/
def framesOf (l : List Item) : List Nat :=
  l.foldl (fun fs i => match i.space with
    | .pa =>
      match i.elems with
      | e :: _ => if fs.contains (e.addr / 65536) then fs else fs ++ [e.addr / 65536]
      | [] => fs
    | _ => fs) []

/-- The element read under a key of an operand: its value and poison, the parts joined. -/
def gotElem (a : Active) (opnd key : Nat) : PV 64 :=
  (a.got.filter fun g => decide (g.opnd = opnd) && decide (g.key = key)).foldl
    (fun (v : PV 64) (g : Got) => { bits := v.bits ||| (g.val <<< (8 * g.part)), poison := v.poison || g.poison }) {}

/-- The index triples below three extents, dim0 innermost. -/
def indices (n0 n1 n2 : Nat) : List (Nat × Nat × Nat) :=
  (List.range n2).flatMap fun i2 => (List.range n1).flatMap fun i1 => (List.range n0).map fun i0 => (i0, i1, i2)

end Sys2Proof.Machine
end

