-- ==== Sys2Proof/Machine/Control.lean ====
section
/-! DEFINITION. Control transfers, flags and waits, barriers, reply-queue pops and SQUASH (R259 to R264, R290 to
R297). -/

namespace Sys2Proof.Machine

open Sys2Proof

/-! ### Control transfers (R290, R291) -/

/-- A taken transfer selects the next bundle fetched. -/
def transfer (s : State) (target : Nat) : State := { s with ctx := { s.ctx with target := some (target % 2 ^ 55) } }

/-- A control transfer acts only in slot 3; elsewhere it is a NOP (R59, R62). -/
def inSlot3 (f : Frame) (s t : State) : State := if s.ctx.slot = 3 then whenPred f s t else s

/-- The displacement target wrap(A + 32 × as_signed(disp), 55). -/
def dispTarget (s : State) (o : OpC) : Nat := va55 s.ctx.pc (32 * o.disp.toInt)

/-- The link A + 32. -/
def linkAddr (s : State) : W64 := BitVec.ofNat 64 (va55 s.ctx.pc 32)

/-- A register target s[y]<54:5> × 32, with the fallback's warning for the bits ignored. -/
def jumpReg (s : State) (v : W64) : State :=
  transfer (warnIf s (decide (field v 55 9 ≠ 0) || decide (field v 0 5 ≠ 0)) wFallback) (field v 5 50 * 32)

/-- BR (R291). -/
def execBr (f : Frame) (o : OpC) (s : State) : Out :=
  .next (inSlot3 f s (if condHolds o.cond.toNat (srcS s o.a) (srcS s o.b) then transfer s (dispTarget s o) else s))

/-- BP (R291). -/
def execBp (f : Frame) (o : OpC) (s : State) : Out :=
  .next (inSlot3 f s
    (if srcP s (o.a.toNat % 8) = decide (o.cond.toNat = 0) then transfer s (dispTarget s o) else s))

/-- JMP (R291). -/
def execJmp (f : Frame) (o : OpC) (s : State) : Out := .next (inSlot3 f s (transfer s (dispTarget s o)))

/-- JMPR (R291). -/
def execJmpr (f : Frame) (o : OpY) (s : State) : Out := .next (inSlot3 f s (jumpReg s (srcS s o.y)))

/-- CALL (R291). -/
def execCall (f : Frame) (o : OpC) (s : State) : Out :=
  .next (inSlot3 f s (transfer (putS s 63 (linkAddr s)) (dispTarget s o)))

/-- CALLR (R291): the old s63 is the target of `CALLR s63`. -/
def execCallr (f : Frame) (o : OpY) (s : State) : Out :=
  .next (inSlot3 f s (jumpReg (putS s 63 (linkAddr s)) (srcS s o.y)))

/-- RET (R291): as JMPR s63. -/
def execRet (f : Frame) (_ : OpY) (s : State) : Out := .next (inSlot3 f s (jumpReg s (srcS s 63)))

/-- LOOP (R291): with a = 0 the write is discarded and s0 − 1 is not 0. -/
def execLoop (f : Frame) (o : OpC) (s : State) : Out :=
  let r := srcS s o.a - 1
  let t := putS s o.a r
  .next (inSlot3 f s (if r ≠ 0 then transfer t (dispTarget s o) else t))

/-! ### Flags (R292, R293) -/

/-- The operand of FSET and FADD: s[y]<31:0>, or imm20. -/
def flagArg (s : State) (o : OpY) (signed : Bool) : W32 :=
  if o.fn = 0 then (srcS s o.y).setWidth 32 else if signed then o.imm.signExtend 32 else o.imm.setWidth 32

/-- FSET (R292). -/
def execFset (f : Frame) (o : OpY) (s : State) : Out :=
  .next (whenPred f s (enbuf s false (.fset o.x.toNat (flagArg s o false))))

/-- FADD (R292). -/
def execFadd (f : Frame) (o : OpY) (s : State) : Out :=
  .next (whenPred f s (enbuf s false (.fadd o.x.toNat (flagArg s o true))))

/-- FRD (R292). -/
def execFrd (f : Frame) (o : OpY) (s : State) : Out :=
  .next (whenPred f s (lateS (enbuf s false (.frd o.y.toNat o.x.toNat)) o.x.toNat))

/-- Physical address of a flag (R20). -/
def flagPa (c n : Nat) : Nat := 0xFFF0000000000 + c * 65536 + 4 * n

/-- PERFORM of FSET. -/
def performFset (s : State) (c n : Nat) (v : W32) : State :=
  dropHead (onCore s c fun k => setFlag k n { bits := v } (sigOf s c 0)) c

/-- PERFORM of FADD: one event that reads and writes; a poisoned flag is left. -/
def performFadd (s : State) (c n : Nat) (v : W32) : State :=
  dropHead (onCore s c fun k =>
    if (getFlag k n).poison then k else setFlag k n { bits := (getFlag k n).bits + v } (sigOf s c 0)) c

/-- PERFORM of FRD. -/
def performFrd (s : State) (c : Nat) (b : BufItem) (n dst : Nat) : State :=
  let v := getFlag (getCore s c) n
  dropHead (pushRet s c
    { dest := .s dst, val := v.bits.setWidth 512, dead := b.dead,
      trap := if v.poison then some { cause := 0x10, einfo := BitVec.ofNat 64 (flagPa c n) } else none }) c

/-- ACCESS_FAULT with a whole 64-bit value as its detail. -/
def accessFull (v : W64) : Block := .trap { cause := cAccess, einfo := v }

/-- A record or block that an instruction names by its virtual address: aligned, in memory of this package of an
accepted type, with the permissions asked; its physical address, or ACCESS_FAULT with the address given (R261, R293,
R295, R301, R305). -/
def blockXl (s : State) (c asid : Nat) (va : W64) (align : Nat) (types : Nat → Bool) (rd wr : Bool) :
    Except Block Trans :=
  if va.toNat % align ≠ 0 then .error (accessFull va)
  else
    match translate s (vmid (getCore s c)) asid va.toNat rd wr false [0] with
    | .ok t => if isPackageMem s t.pa && types t.mtype then .ok t else .error (accessFull va)
    | .fault _ _ => .error (accessFull va)
    | .stage2 cause i l w => .error (.s2 { port := 0, cause := cause, level := l, ipa := i, va := if w then 0 else va.toNat })

/-- The physical address of such a record or block. -/
def blockAt (s : State) (c asid : Nat) (va : W64) (align : Nat) (types : Nat → Bool) (rd wr : Bool) :
    Except Block Nat :=
  match blockXl s c asid va align types rd wr with
  | .ok t => .ok t.pa
  | .error b => .error b

/-- An open tensor record named by its address, and owned by the run's function unless it is FREE (R293, R305). -/
def recordAt (s : State) (c asid : Nat) (va : W64) (types : Nat → Bool) : Except Block Nat :=
  match blockAt s c asid va 256 types false false with
  | .error b => .error b
  | .ok pa =>
    if (getOT s pa).st ≠ 0 ∧ (getOT s pa).vf ≠ vmid (getCore s c) then .error (accessFull va) else .ok pa

/-- The block of a check. -/
def blockOf {α : Type} : Except Block α → Option Block
  | .error b => some b
  | .ok _ => none

/-- FBIND's check at issue (R293). -/
def fbindBlock (f : Frame) (o : OpY) (s : State) : Option Block :=
  if predOk s f then blockOf (recordAt s s.cur (asidOf s (oldCore s)) (srcS s o.y) fun _ => true) else none

/-- FBIND.c, .p and .t (R293). -/
def execFbind (f : Frame) (o : OpY) (s : State) : Out :=
  .next (orBlock s (fbindBlock f o s)
    (whenPred f s (enbuf s false (.fbind o.x.toNat (o.fn.toNat + 1) (srcS s o.y).toNat))))

/-- FBIND.none (R293). -/
def execFbindNone (f : Frame) (o : OpY) (s : State) : Out :=
  .next (whenPred f s (enbuf s false (.fbind o.x.toNat 0 0)))

/-- The values of the last change of a counter (R312). -/
def counterSig (o : OT) (kind : Nat) : Sig := if kind = 1 then o.csig else if kind = 2 then o.psig else o.tsig

/-- A flag takes its counter's value as it is bound (R286). -/
def bindFlag (s : State) (k : Core) (n kind va pa : Nat) : Core :=
  let o := getOT s pa
  setFlag { k with binds := SMap.set (fun _ => {}) k.binds n { kind := kind, va := va, pa := pa } } n
    { bits := BitVec.ofNat 32 (counterOf o kind) } (counterSig o kind)

/-- PERFORM of FBIND: the binding and the first copy in one event (R293). -/
def performFbind (s : State) (c : Nat) (b : BufItem) (n kind va : Nat) : State :=
  if kind = 0 then dropHead (onCore s c fun k => { k with binds := SMap.set (fun _ => {}) k.binds n {} }) c
  else
    match recordAt s c b.asid (BitVec.ofNat 64 va) fun _ => true with
    | .error bl => eventBlock s c b bl
    | .ok pa =>
      if (getOT s pa).st ≠ 1 then eventBlock s c b (accessFull (BitVec.ofNat 64 va))
      else dropHead (onCore s c fun k => bindFlag s k n kind va pa) c

/-! ### WAITF (R259, R294) -/

/-- WAITF (R294). -/
def execWaitf (f : Frame) (o : OpY) (s : State) : Out :=
  let timeout := if o.z = 0 then none else some (srcS s o.z).toNat
  .next (whenPred f s
    (lateS (enbuf s true (.waitf (o.imm.toNat % 64) o.fn.toNat ((srcS s o.y).setWidth 32) timeout o.x.toNat 0))
      o.x.toNat))

/-- The conditions of R294. -/
def waitHolds (cond : Nat) (fv v : W32) : Bool :=
  match cond with
  | 0 => decide (v.toNat ≤ fv.toNat)
  | 1 => decide (fv = v)
  | 2 => decide (fv &&& v ≠ 0)
  | _ => decide (fv ≠ v)

/-- A WAITF ends with a status. -/
def endWaitf (s : State) (c : Nat) (b : BufItem) (dst status : Nat) : State :=
  dropHead (pushRet s c { dest := .s dst, val := BitVec.ofNat 512 status, dead := b.dead }) c

/-- One read of a WAITF's flag: it ends if the condition holds, writing an edge if it has stalled (R259, R310). -/
def performWaitf (s : State) (c : Nat) (b : BufItem) (n cond : Nat) (v : W32) (dst : Nat) : State :=
  if waitHolds cond (getFlag (getCore s c) n).bits v then
    endWaitf (releaseEdge s c 0 0 n (flagSig (getCore s c) n) b.waited) c b dst 0
  else setHead s c { b with began := true }

/-- WAITF_TIMEOUT (R294): the timeout has passed since the first read; no edge is written. -/
def execWaitfTimeout (c : Nat) (s : State) : Out :=
  .next (match (getCore s c).buf with
    | b :: _ =>
      match b.ev with
      | .waitf n cond v (some t) dst e =>
        if b.began && !performStops (getCore s c) && decide (t ≤ e) && !waitHolds cond (getFlag (getCore s c) n).bits v then endWaitf s c b dst 1 else s
      | _ => s
    | [] => s)

/-- WAIT_RELEASE (R259): a stalled WAITF re-reads its flag and ends. -/
def execWaitRelease (c : Nat) (s : State) : Out :=
  .next (match (getCore s c).buf with
    | b :: _ =>
      match b.ev with
      | .waitf n cond v _ dst _ =>
        if b.began && !performStops (getCore s c) && waitHolds cond (getFlag (getCore s c) n).bits v then performWaitf s c b n cond v dst else s
      | _ => s
    | [] => s)

/-! ### Barriers (R260 to R263, R295) -/

/-- The arrival's check at issue (R295). -/
def barBlock (f : Frame) (o : OpY) (s : State) : Option Block :=
  if predOk s f then
    blockOf (blockAt s s.cur (asidOf s (oldCore s)) (eaY s o) 64 (fun m => decide (m ≠ 2)) true false)
  else none

/-- A BAR at a level (R295). -/
def barAt (level : Nat) (f : Frame) (o : OpY) (s : State) : State :=
  orBlock s (barBlock f o s)
    (whenPred f s (lateS (enbuf s true (.bar level (eaY s o).toNat o.x.toNat none [])) o.x.toNat))

/-- BAR.team. -/
def execBarTeam (f : Frame) (o : OpY) (s : State) : Out := .next (barAt 0 f o s)

/-- BAR.die. -/
def execBarDie (f : Frame) (o : OpY) (s : State) : Out := .next (barAt 1 f o s)

/-- BAR.pkg. -/
def execBarPkg (f : Frame) (o : OpY) (s : State) : Out := .next (barAt 2 f o s)

/-- BAR.pod. -/
def execBarPod (f : Frame) (o : OpY) (s : State) : Out := .next (barAt 3 f o s)

/-- Participants of a barrier that are counted: those of pmask, but for fenced cores (R398). -/
def participants (s : State) (pmask : BitVec 160) : List Nat :=
  (List.range 160).filter fun g => pmask.getLsbD g && !(getCore s g).fenced

/-- Participants that the level leaves in another team or die than core `c` (R261). -/
def levelLeaves (level c : Nat) (pmask : BitVec 160) : Bool :=
  (List.range 160).any fun g => pmask.getLsbD g &&
    (if level = 0 then decide (g / 8 ≠ c / 8) else if level = 1 then decide (g / 40 ≠ c / 40) else false)

/-- The barrier of an arrival: by block address, or by group for .pod. -/
def sameBarrier (pa : Nat) (group : W32) (level : Nat) (b : Barrier) : Bool :=
  if level = 3 then decide (b.level = 3) && decide (b.group = group) else decide (b.level ≠ 3) && decide (b.pa = pa)

/-- The lowest barrier slot that is free. -/
def freeBarrierSlot (s : State) : Option Nat :=
  (List.range 256).find? fun n => !s.barriers.any fun b => decide (b.slot = n)

/-- The barriers with one of them changed, by slot. -/
def onBarrier (s : State) (slot : Nat) (f : Barrier → Barrier) : State :=
  { s with barriers := s.barriers.map fun b => if b.slot = slot then f b else b }

/-- Another package's arrival of a group is counted, or waits: for a barrier that is to come where every slot is taken, or for
the release of the one to which that package has arrived already (R260, R261). -/
def podArrival (s : State) (group : W32) (pkg : Nat) (g : Sig) : State :=
  let wait := { s with podWaits := s.podWaits ++ [(group, pkg, g)] }
  match s.barriers.find? fun b => decide (b.level = 3) && decide (b.group = group) with
  | some b =>
    if b.pods.contains pkg then wait
    else onBarrier s b.slot fun x => { x with pods := x.pods ++ [pkg], sig := g }
  | none =>
    match freeBarrierSlot s with
    | none => wait
    | some slot => { s with barriers := s.barriers ++ [{ group := group, level := 3, pods := [pkg], sig := g, slot := slot }] }

/-- The arrivals that wait are tried again, oldest first. -/
def admitPods (s : State) : State :=
  s.podWaits.foldl (fun s w => podArrival s w.1 w.2.1 w.2.2) { s with podWaits := [] }

/-- A broken barrier frees its slot once every remaining participant has arrived and none waits (R263). -/
def sweepBroken (s : State) : State :=
  admitPods { s with barriers := s.barriers.filter fun b =>
      !b.broken || !b.arrived.isEmpty || (participants s b.pmask).any fun g => !b.late.contains g }

/-- Every local participant has arrived. -/
def locallyComplete (s : State) (b : Barrier) : Bool :=
  !b.arrived.isEmpty && (participants s b.pmask).all fun g => b.arrived.contains g

/-- The package's own arrival at a pod barrier is counted and sent to the others once every local participant has arrived,
with the values of the last of them (R261, R312). -/
def forwardPod (s : State) (slot : Nat) : State :=
  match s.barriers.find? fun b => decide (b.slot = slot) with
  | none => s
  | some b =>
    if b.level = 3 ∧ locallyComplete s b ∧ !b.pods.contains Config.pkg.toNat then
      { onBarrier s slot (fun b => { b with pods := b.pods ++ [Config.pkg.toNat] }) with
        podOut := s.podOut ++ [.arrive b.group b.sig] }
    else s

/-- A BAR completes with a status. -/
def endBar (s : State) (c : Nat) (b : BufItem) (dst status : Nat) : State :=
  dropHead (pushRet s c { dest := .s dst, val := BitVec.ofNat 512 status, dead := b.dead }) c

/-- The arrival of a BAR (R260 to R262): by the block as it was read, the participant and the level are checked, and the
arrival is counted. -/
def arriveBar (s : State) (c : Nat) (b : BufItem) (level ea dst pa : Nat) (block : List Byte) : State :=
  let pmask : BitVec 160 := ofBytes 160 (block.take 20)
  let npkg := natOfBytes ((block.drop 20).take 2)
  let group : W32 := ofBytes 32 ((block.drop 24).take 4)
  if !pmask.getLsbD c ∨ levelLeaves level c pmask then eventBlock s c b (accessFull (BitVec.ofNat 64 ea))
  else
    match s.barriers.find? (sameBarrier pa group level) with
    | some x =>
      if x.broken then
        sweepBroken (endBar (onBarrier s x.slot fun y => { y with late := y.late ++ [c] }) c b dst 1)
      else
        let s := onBarrier s x.slot fun y =>
          { y with arrived := if y.arrived.contains c then y.arrived else y.arrived ++ [c],
                   sig := sigOf s c 0, pmask := if level = 3 then y.pmask ||| pmask else y.pmask,
                   npkg := if y.npkg = 0 then npkg else y.npkg, pa := pa,
                   vf := if y.arrived.isEmpty then vmid (getCore s c) else y.vf }
        forwardPod (setHead s c { b with ev := .bar level ea dst (some x.slot) block, began := true, waited := 0 }) x.slot
    | none =>
      match freeBarrierSlot s with
      | none => s
      | some slot =>
        let x : Barrier := { pa := pa, group := group, level := level, vf := vmid (getCore s c), pmask := pmask,
                             npkg := npkg, arrived := [c], sig := sigOf s c 0, slot := slot }
        admitPods (forwardPod (setHead { s with barriers := s.barriers ++ [x] } c
          { b with ev := .bar level ea dst (some slot) block, began := true, waited := 0 }) slot)

/-- A release that an arrived BAR is owed, taken by its slot (R371). -/
def takeOwed (l : List (Nat × Nat × Sig)) (slot : Nat) : Option (Nat × Sig) :=
  (l.find? fun x => decide (x.1 = slot)).map fun x => x.2

/-- A BAR that waits is released with a status; its edge names the arrival that caused the release. -/
def finishBar (s : State) (c : Nat) (b : BufItem) (dst slot status : Nat) (g : Sig) : State :=
  endBar (if status = 0 then releaseEdge s c 0 1 slot g b.waited else s) c b dst status

/-- PERFORM of a BAR: its block's four granules, and then its arrival; BAR.pod waits first as FFENCE does (R200, R262). One
that has arrived takes a release that came while it was put aside. A block of which a part was destroyed is refused (R381;
assumption 71). -/
def performBar (s : State) (c : Nat) (b : BufItem) (level ea dst : Nat) (arrived : Option Nat) (block : List Byte) :
    State :=
  match arrived with
  | some n =>
    match takeOwed (getCore s c).owed n with
    | some (status, g) =>
      finishBar (onCore s c fun k => { k with owed := k.owed.filter fun x => decide (x.1 ≠ n) }) c b dst n status g
    | none => s
  | none =>
    let k := getCore s c
    let b := if level = 3 then tried k b else b
    if level = 3 && (farPending k b.farMark || copyPending k b.mark none) then setHead s c b
    else
      match blockXl s c b.asid (BitVec.ofNat 64 ea) 64 (fun m => decide (m ≠ 2)) true false with
      | .error bl => eventBlock s c b bl
      | .ok t =>
        if block.length < 64 then
          let r := readPhys (touchLeaves s t false) (t.pa + block.length) 16 {}
          if r.2.2 then eventBlock r.1 c b (accessFull (BitVec.ofNat 64 ea))
          else setHead r.1 c { b with ev := .bar level ea dst none (block ++ r.2.1) }
        else arriveBar s c b level ea dst t.pa block

/-- An entry is a BAR that has arrived at a slot. -/
def isBarAt (slot : Nat) (b : BufItem) : Bool :=
  match b.ev with
  | .bar _ _ _ (some n) _ => decide (n = slot)
  | _ => false

/-- The release is recorded for a saved context of core `c` whose BAR waits on the slot (R371). -/
def oweRest (slot status : Nat) (g : Sig) (c : Nat) (r : CtxRest) : CtxRest :=
  if !r.used ∧ r.core = c ∧ r.items.any (isBarAt slot) then { r with owed := r.owed ++ [(slot, status, g)] } else r

/-- A waiting participant completes with a status; one that is put aside or away is owed it (R354, R371), and so is one on a
core that stands still (R322). -/
def releaseOne (slot status : Nat) (g : Sig) (s : State) (c : Nat) : State :=
  let k := getCore s c
  let owe := { s with rests := s.rests.map fun e => (e.1, oweRest slot status g c e.2) }
  if k.parked.any (isBarAt slot) || (standsStill k && k.buf.any (isBarAt slot)) then onCore s c fun k => { k with owed := k.owed ++ [(slot, status, g)] }
  else
    match k.buf with
    | b :: _ =>
      match b.ev with
      | .bar _ _ dst (some n) _ => if n = slot then finishBar s c b dst slot status g else owe
      | _ => owe
    | [] => owe

/-- The barrier may release: every participant has arrived, and for .pod every package (R261). -/
def barrierDone (s : State) (b : Barrier) : Bool :=
  !b.broken && locallyComplete s b && (decide (b.level ≠ 3) || (b.pods.contains Config.pkg.toNat && decide (b.npkg ≤ b.pods.length)))

/-- BARRIER_RELEASE (R261, R262): every waiting participant completes with status 0, its edge naming the arrival that
caused the release. -/
def execBarrierRelease (n : Nat) (s : State) : Out :=
  .next (match s.barriers.find? fun b => decide (b.slot = n) with
    | none => s
    | some b =>
      if barrierDone s b then
        admitPods (b.arrived.foldl (releaseOne n 0 b.sig)
          { s with barriers := s.barriers.filter fun x => decide (x.slot ≠ n) })
      else s)

/-- POD_BARRIER_ARRIVAL (R261): another package's arrival of a group, with the values that it carries (R312). -/
def execPodBarrierArrival (group : W32) (x : PodFrom) (s : State) : Out := .next (podArrival s group x.pkg x.sig)

/-- Core `c` is no longer a participant of a barrier, which is broken (R263). -/
def breakBarrier (c : Nat) (b : Barrier) : Barrier :=
  { b with broken := true, pmask := b.pmask &&& ~~~((1 : BitVec 160) <<< c),
           arrived := b.arrived.filter fun g => decide (g ≠ c) }

/-- The run on core `c`, of function `v`, is a participant of a barrier: its arrival there is the run's own or still to come,
and not that of another run of the core, saved since (R263, R371). -/
def takesPart (k : Core) (c v : Nat) (b : Barrier) : Bool :=
  b.pmask.getLsbD c && decide (b.vf = v) && (!b.arrived.contains c || (k.buf ++ k.parked).any (isBarAt b.slot))

/-- The run of a participant on core `c`, of function `v`, is cancelled or fails: its barriers in progress become broken
(R263). -/
def breakBarriers (s : State) (c v : Nat) : State :=
  let f := fun b : Barrier => if takesPart (getCore s c) c v b then breakBarrier c b else b
  sweepBroken { s with barriers := s.barriers.map f }

/-- The run of a saved context is cancelled or fails: the barriers at which it has arrived become broken (R263, R371). -/
def breakSaved (s : State) (r : CtxRest) : State :=
  let f := fun b : Barrier => if r.items.any (isBarAt b.slot) then breakBarrier r.core b else b
  sweepBroken { s with barriers := s.barriers.map f }

/-- Every participant waiting on a broken barrier completes with status 1 (R263). -/
def releaseBroken (s : State) (n : Nat) : State :=
  match s.barriers.find? fun b => decide (b.slot = n) with
  | none => s
  | some b =>
    if b.broken then
      let s := onBarrier s n fun x => { x with arrived := [], late := x.late ++ b.arrived }
      sweepBroken (b.arrived.foldl (releaseOne n 1 b.sig) s)
    else s

/-- BARRIER_BROKEN (R263). -/
def execBarrierBroken (n : Nat) (s : State) : Out := .next (releaseBroken s n)

/-- Every barrier in progress becomes broken, and those that wait there are released: a warm reset discards the runs of its other
participants (R263, R399). -/
def breakAll (s : State) : State :=
  (s.barriers.map fun b => b.slot).foldl releaseBroken
    { s with barriers := s.barriers.map fun b => { b with broken := true } }

/-! ### RPOP and SQUASH (R264, R296, R297) -/

/-- RPOP (R296): the pop takes its entry at once or when one is pushed. -/
def execRpop (f : Frame) (o : OpY) (s : State) : Out :=
  .next (whenPred f s (lateS (onCur s fun k =>
    serveAll s.now { k with pops := k.pops ++ [{ dst := o.x.toNat, depth := trapDepth k, slot := s.ctx.slot }] }) o.x.toNat))

/-- SQUASH (R264, R297): the generation stands in imm20<1:0>. -/
def execSquash (f : Frame) (o : OpY) (s : State) : Out :=
  .next (whenPred f s (enbuf s true (.squash (o.imm.toNat % 4))))

/-- An issued command of a queue that still stands in the way of a SQUASH: one whose only obstacle is a refused give
counts as retired (R264). -/
def squashWaits (k : Core) : Bool :=
  let stands := fun a : Active => a.rule.isNone && !a.retiring
  (k.engines.any fun e => e.2.active.any stands || !e.2.again.isEmpty) || k.chans.any fun h => h.2.any stands

/-- A command whose only obstacle is a refused give loses the give, and so stands in no other's way (R264). -/
def dropGives (a : Active) : Active := if a.rule.isNone && a.retiring then { a with giveL := false, giveR := false } else a

/-- PERFORM of SQUASH: once every issued command has retired, the queued commands of the generation are discarded and
the 12 token FIFOs are set to 0. -/
def performSquash (s : State) (c g : Nat) : State :=
  if squashWaits (getCore s c) then
    onCore s c fun k =>
      { k with engines := k.engines.map fun e => (e.1, { e.2 with active := e.2.active.map dropGives }),
               chans := k.chans.map fun h => (h.1, h.2.map dropGives) }
  else
    dropHead (onCore s c fun k =>
      let keep := fun a : Active => a.rule.isSome || !a.retiring
      { k with tokens := [],
               engines := k.engines.map fun e =>
                 (e.1, { e.2 with queue := e.2.queue.filter fun x => decide (x.gen ≠ g), active := e.2.active.filter keep }),
               chans := k.chans.map fun h => (h.1, h.2.filter keep) }) c

end Sys2Proof.Machine
end

