-- ==== Sys2Proof/Machine/SliceInstr.lean ====
section
/-! DEFINITION. The slice instructions and the rule group (R305 to R309). -/

namespace Sys2Proof.Machine

open Sys2Proof

/-! ### Checks and statuses (R305) -/

/-- A record lies in cacheable memory. -/
def cacheable (m : Nat) : Bool := decide (m = 0)

/-- The record that s[y] names, checked as R305 states; SLOPEN's need not be the function's own. -/
def sliceRecord (s : State) (c asid : Nat) (opening : Bool) (va : W64) : Except Block Nat :=
  if opening then blockAt s c asid va 256 cacheable false false else recordAt s c asid va cacheable

/-- A slice instruction's check as its bundle issues; SLFORK's second record is checked as the first. -/
def sliceBlock (opening fork : Bool) (f : Frame) (o : OpY) (s : State) : Option Block :=
  if !predOk s f then none
  else
    let asid := asidOf s (oldCore s)
    firstBlock [blockOf (sliceRecord s s.cur asid opening (srcS s o.y)),
                if fork then blockOf (recordAt s s.cur asid (srcS s o.z) cacheable) else none]

/-- A slice instruction that takes a slice number, a second record or neither. -/
def sliceOp (op : SlOp) (opening fork : Bool) (f : Frame) (o : OpY) (s : State) : State :=
  orBlock s (sliceBlock opening fork f o s)
    (whenPred f s (lateS (enbuf s false (.slice op (srcS s o.y).toNat (srcS s o.z).toNat o.x.toNat)) o.x.toNat))

/-- The form names a slice number, of which bits 63:40 are ignored with W_FALLBACK (R305). -/
def sliceNumOp (op : SlOp) (f : Frame) (o : OpY) (s : State) : State :=
  let t := if predOk s f then warnIf s (decide (field (srcS s o.z) 40 24 ≠ 0)) wFallback else s
  sliceOp op false false f o t

/-- SLOPEN (R307). -/
def execSlopen (f : Frame) (o : OpY) (s : State) : Out := .next (sliceOp .open true false f o s)

/-- SLOPEN.feed (R307): the slot stands in imm20<4:0>. -/
def execSlopenFeed (f : Frame) (o : OpY) (s : State) : Out :=
  .next (sliceOp (.openFeed (o.imm.toNat % 32)) true false f o s)

/-- SLPUB (R306). -/
def execSlpub (f : Frame) (o : OpY) (s : State) : Out := .next (sliceNumOp .pub f o s)

/-- SLTENT (R306). -/
def execSltent (f : Frame) (o : OpY) (s : State) : Out := .next (sliceNumOp .tent f o s)

/-- SLCOMMIT (R306). -/
def execSlcommit (f : Frame) (o : OpY) (s : State) : Out := .next (sliceNumOp .commit f o s)

/-- SLREJECT (R306). -/
def execSlreject (f : Frame) (o : OpY) (s : State) : Out := .next (sliceNumOp .reject f o s)

/-- SLFORK (R306). -/
def execSlfork (f : Frame) (o : OpY) (s : State) : Out := .next (sliceOp .fork false true f o s)

/-- SLDROP (R306). -/
def execSldrop (f : Frame) (o : OpY) (s : State) : Out := .next (sliceOp .drop false false f o s)

/-- SLQUERY (R306). -/
def execSlquery (f : Frame) (o : OpY) (s : State) : Out :=
  .next (sliceOp (.query o.fn.toNat) false false f o s)

/-! ### Events -/

/-- A slice instruction ends with its status or its field. -/
def endSlice (s : State) (c : Nat) (b : BufItem) (dst : Nat) (v : Nat) : State :=
  dropHead (pushRet s c { dest := .s dst, val := BitVec.ofNat 512 v, dead := b.dead }) c

/-- The run's branch tag (R256). -/
def runTag (k : Core) : Nat := field k.run.record 192 16

/-- The place of the capture that a rule's command writes, when it writes a descriptor. -/
def writtenPos (w : W64) : Option Nat :=
  match pick w with
  | none => none
  | some i => ((usesOf i w fun _ => 0).find? fun u => u.write).map fun u => u.pos

/-- The slot can feed a tensor (R307). -/
def canFeed (r : Rule) : Bool :=
  let op := opcodeOf r.cmd.word
  decide (r.st ≠ .free) && !r.fired && r.feed.isNone && decide (op ≠ 0xBC) && decide (op ≠ 0xBD) &&
    match writtenPos r.cmd.word with
    | none => false
    | some p => decide (dAxis (r.cmd.descs.getD p 0) ≠ 3)

/-- SLOPEN's effect on a FREE record: one node as its root, LIVE, and the feed link (R284, R307). -/
def openRecord (s : State) (c pa va : Nat) (o : OT) (feed : Option Nat) : Option State :=
  match takeNode s o.vf with
  | .error _ => none
  | .ok (s, root) =>
    let s := putLive s pa { o with root := root, feed := feed.map fun n => (c, n) }
    some (match feed with
      | none => s
      | some n => onRule s c n fun r => { r with feed := some (va, pa) })

/-- SLOPEN's statuses in order, and its effect (R305, R307). A record of which a part was destroyed is refused (R381;
assumption 71). -/
def performOpen (s : State) (c : Nat) (b : BufItem) (va pa dst : Nat) (feed : Option Nat) : State :=
  let k := getCore s c
  if (getOT s pa).st ≠ 0 then endSlice s c b dst 1
  else
    let s := prepare s pa 256 {}
    let o := readRecord s pa (vmid k) (runTag k)
    if poisonedAt s pa 256 then eventBlock s c b (accessFull (BitVec.ofNat 64 va))
    else if !recordOk o then endSlice s c b dst 4
    else if (feed.any fun n => !canFeed (getRule k n)) then endSlice s c b dst 5
    else
      match openRecord s c pa va o feed with
      | none => endSlice s c b dst 6
      | some s => endSlice s c b dst 0

/-- A field of SLQUERY (R306). -/
def queryField (o : OT) (n : Nat) : Nat :=
  match n with
  | 0 => o.c
  | 1 => o.p
  | 2 => o.t
  | 3 => o.q
  | 4 => o.st
  | 5 => o.holdlow
  | 6 => o.pages
  | 7 => o.nrules
  | _ => o.owner

/-- A counter operation that claims: done, or the QUOTA fault (R276). -/
def endClaim (s : State) (c : Nat) (b : BufItem) (dst : Nat) (r : Except (Nat × Bool) State) : State :=
  match r with
  | .ok s => endSlice s c b dst 0
  | .error (k, node) => dropHead (pendC s c (quotaTrap k node)) c

/-- SLFORK at its event (R273, R306). -/
def performFork (s : State) (c : Nat) (b : BufItem) (src z dst : Nat) : State :=
  match recordAt s c b.asid (BitVec.ofNat 64 z) cacheable with
  | .error bl => eventBlock s c b bl
  | .ok target =>
    if (getOT s src).st ≠ 1 ∨ (getOT s target).st ≠ 0 then endSlice s c b dst 1
    else if freeNodes s (getOT s src).vf = 0 then endSlice s c b dst 6
    else endSlice (forkRecord s src target (runTag (getCore s c))) c b dst 0

/-- A slice operation on a record whose address has been checked (R305, R306). -/
def sliceEvent (s : State) (c : Nat) (b : BufItem) (op : SlOp) (va pa z dst : Nat) : State :=
  let o := getOT s pa
  let k := z % 2 ^ 40
  let g := sigOf s c 0
  match op with
  | .open => performOpen s c b va pa dst none
  | .openFeed n => performOpen s c b va pa dst (some n)
  | .query n => endSlice s c b dst (queryField o n)
  | .fork => performFork s c b pa z dst
  | .drop => if o.st ≠ 1 then endSlice s c b dst 1 else endSlice (dropRecord s pa) c b dst 0
  | .pub =>
    if o.st ≠ 1 then endSlice s c b dst 1 else if o.feed.isSome then endSlice s c b dst 2
    else endClaim s c b dst (publish s pa k g)
  | .tent =>
    if o.st ≠ 1 then endSlice s c b dst 1 else if o.feed.isSome then endSlice s c b dst 2
    else endClaim s c b dst (tentative s pa k g)
  | .commit =>
    if o.st ≠ 1 then endSlice s c b dst 1 else if o.feed.isSome then endSlice s c b dst 2
    else if o.t ≤ k then endSlice s c b dst 3
    else endSlice (commit s pa k g) c b dst 0
  | .reject =>
    if o.st ≠ 1 then endSlice s c b dst 1 else if o.feed.isSome then endSlice s c b dst 2
    else
      match reject s pa (max k o.c) g with
      | .error _ => endSlice s c b dst 6
      | .ok t => endSlice (if k < o.c then warnC t c wFallback else t) c b dst 0

/-- PERFORM of a slice instruction: one event (R305). -/
def performSlice (s : State) (c : Nat) (b : BufItem) (op : SlOp) (va z dst : Nat) : State :=
  let opening := match op with
    | .open => true
    | .openFeed _ => true
    | _ => false
  match sliceRecord s c b.asid opening (BitVec.ofNat 64 va) with
  | .error bl => eventBlock s c b bl
  | .ok pa => sliceEvent s c b op va pa z dst

/-! ### The rule group (R281, R288, R308, R309, R423) -/

/-- Slot hN of the current core. -/
def ruleN (o : OpY) : Nat := o.imm.toNat % 32

/-- The form acts on its slot when the state is one it accepts; else W_FALLBACK alone. -/
def ruleForm (accepts : RuleSt → Bool) (act : State → State) (f : Frame) (o : OpY) (s : State) : State :=
  whenPred f s (if accepts (getRule (cc s) (ruleN o)).st then act s else warn s wFallback)

/-- The states that REVOKE accepts. -/
def revocable (t : RuleSt) : Bool :=
  match t with
  | .armed => true
  | .firing => true
  | .faulted => true
  | .paused => true
  | _ => false

/-- REVOKE, at once or at a slice above the cursor (R288). -/
def revokeAct (o : OpY) (s : State) : State :=
  let m := (srcS s o.z).toNat % 2 ^ 40
  if o.imm.getLsbD 5 && decide ((getRule (cc s) (ruleN o)).cursor < m) then
    onRule s s.cur (ruleN o) fun r => { r with revokeAt := some m }
  else revokeRule s s.cur (ruleN o)

/-- REVOKE (R308). -/
def execRevoke (f : Frame) (o : OpY) (s : State) : Out := .next (ruleForm revocable (revokeAct o) f o s)

/-- The limit of a rule. -/
def ruleLimit (s : State) (r : Rule) : Nat := limitIn (getOT s r.srcPa) r

/-- A firing of the rule is in progress. -/
def firingOf (k : Core) (n : Nat) : Bool := k.engines.any fun e => e.2.active.any fun x => decide (x.rule = some n)

/-- A rule has an eligible firing (R282), or the writes of an RSKIP to make (R308). -/
def eligible (s : State) (c n : Nat) : Bool :=
  let r := getRule (getCore s c) n
  !firingOf (getCore s c) n &&
    (decide (r.st = .armed) && decide (r.cursor < ruleLimit s r) || decide (r.st = .firing) && r.skip)

/-- The standing lanes of a core are empty: no rule has a firing to make. -/
def lanesEmpty (s : State) (c : Nat) : Bool := (List.range 32).all fun n => !eligible s c n

/-- RESUME (R308): the rule is armed at its cursor; below its limit, with the values of R313. -/
def execResume (f : Frame) (o : OpY) (s : State) : Out :=
  .next (ruleForm (fun t => decide (t = .faulted) || decide (t = .paused))
    (fun s => onRule s s.cur (ruleN o) fun r =>
      { r with st := .armed, cause := 0, rearm := if r.cursor < ruleLimit s r then some (sigOf s s.cur 0) else none })
    f o s)

/-- RSKIP (R308): the engine performs the writes as the rule's next firing. -/
def execRskip (f : Frame) (o : OpY) (s : State) : Out :=
  .next (ruleForm (fun t => decide (t = .faulted))
    (fun s => onRule s s.cur (ruleN o) fun r =>
      { r with st := .firing, cause := 0, skip := true, skipAt := r.cursor, skipVoid := false, rearm := some (sigOf s s.cur 0) })
    f o s)

/-- RPAUSE (R308). -/
def execRpause (f : Frame) (o : OpY) (s : State) : Out :=
  .next (ruleForm (fun t => decide (t = .armed) || decide (t = .firing))
    (fun s => onRule s s.cur (ruleN o) fun r =>
      if r.st = .armed then { r with st := .paused }
      else { r with pend := if r.pend = .revoke then .revoke else .pause })
    f o s)

/-- The state codes of R309. -/
def ruleCode (t : RuleSt) : Nat :=
  match t with
  | .free => 0
  | .armed => 1
  | .firing => 2
  | .faulted => 3
  | .paused => 4
  | .revoked => 5

/-- RQUERY's word (R309). -/
def ruleWord (r : Rule) : W64 :=
  if r.st = .free then 0
  else BitVec.ofNat 64 (ruleCode r.st * 2 ^ 61 + (if r.st = .faulted then r.cause.toNat else 0) * 2 ^ 40
    + r.cursor % 2 ^ 40)

/-- RQUERY (R309). DESIGN CHOICE, assumption 76: it reads the slot as the lower slots of its bundle have left it (R57). -/
def execRquery (f : Frame) (o : OpY) (s : State) : Out :=
  .next (whenPred f s (putS s o.x (ruleWord (getRule (cc s) (ruleN o)))))

end Sys2Proof.Machine
end

