-- ==== Sys2Proof/Machine/Tasks.lean ====
section
/-! DEFINITION. Task records and queues, joins and continuations, branch tags and cancellation (R246 to R258, R298 to
R304, R425). -/

namespace Sys2Proof.Machine

open Sys2Proof

/-! ### Records (R246) -/

/-- code. -/
def recCode (r : W512) : Nat := field r 0 64
/-- frame. -/
def recFrame (r : W512) : W64 := bits r 64 64
/-- join. -/
def recJoin (r : W512) : Nat := field r 128 64
/-- tag. -/
def recTag (r : W512) : Nat := field r 192 16
/-- stage. -/
def recStage (r : W512) : Nat := field r 208 4
/-- IDEM. -/
def recIdem (r : W512) : Bool := bit r 216
/-- ctx. -/
def recCtx (r : W512) : Nat := field r 256 64
/-- The record with another ctx. -/
def setCtx (r : W512) (v : Nat) : W512 := setField r 256 64 v

/-! ### Reports to the PF (R336) -/

/-- The source by which the interrupts of the fault ring are counted; no error log entry has it (R404; assumption 52). -/
abbrev faultSource : Nat := 2 ^ 32

/-- An MSI-X vector is raised: function `f` (64 for the PF), vector `v`. -/
def raiseMsix (s : State) (f v : Nat) : State :=
  { s with msix := SMap.set (fun _ => 0) s.msix (f * 256 + v) (SMap.get (fun _ => 0) s.msix (f * 256 + v) + 1) }

/-- The PF's fault vector is raised (R336). -/
def raiseFault (s : State) : State :=
  raiseMsix { s with lastIrq := SMap.set (fun _ => none) s.lastIrq faultSource (some s.now), faultDue := false } 64 0

/-- An entry of the PF's fault ring, with its vector, at most once every 10 µs (R336, R404). -/
def pushFault (s : State) (e : FaultEntry) : State :=
  let s := { s with faultRing := s.faultRing ++ [e] }
  if irqRecent s faultSource then { s with faultDue := true } else raiseFault s

/-- An entry of hardware's own access: port 8. -/
def hardwareFault (s : State) (v g : Nat) (cause : BitVec 8) (level ipa va : Nat) : State :=
  pushFault s { vf := v, gcore := g, port := 8, cause := cause, level := level, ipa := ipa, va := va, stamp := phys s }

/-! ### Task queues (R248) -/

/-- Task queue `q`. -/
def getTQ (s : State) (q : Nat) : TaskQ := SMap.get (fun _ => {}) s.tqs q

/-- A task queue replaced. -/
def setTQ (s : State) (q : Nat) (x : TaskQ) : State := { s with tqs := SMap.set (fun _ => {}) s.tqs q x }

/-- tail − head = 2^lgsize. -/
def tqFull (x : TaskQ) : Bool := decide (2 ^ x.lgsize ≤ x.tail - x.head)

/-- Where the record of an index lies in its ring, or what refuses it at stage 2. -/
def tqReach (s : State) (x : TaskQ) (n : Nat) (wr : Bool) : Except S2Fault Trans :=
  let ipa := x.ring + 64 * (n % 2 ^ x.lgsize)
  match xlatIpa s (x.vf.getD 0) ipa (!wr) wr false [] with
  | .ok t => if isPackageMem s t.pa then .ok t else .error { cause := cAccess, level := t.level, ipa := ipa }
  | .fault c l => .error { cause := c, level := l, ipa := ipa }
  | .stage2 c i l _ => .error { cause := c, level := l, ipa := i }

/-- The place of the record of an index. -/
def tqSlot (s : State) (x : TaskQ) (n : Nat) (wr : Bool) : Option Trans :=
  if x.vf.isNone then none
  else
    match tqReach s x n wr with
    | .ok t => some t
    | .error _ => none

/-- A record as it stands in its ring; none where it cannot be reached or is poisoned (R381; assumption 71). -/
def readTask (s : State) (x : TaskQ) (n : Nat) : Option W512 :=
  (tqSlot s x n false).bind fun t => (soundBytes s t.pa 64).map (ofBytes 512)

/-- The read of a record marks the leaf that it goes through (R329). -/
def touchTask (s : State) (x : TaskQ) (n : Nat) : State :=
  match tqSlot s x n false with
  | some t => touchLeaves s t false
  | none => s

/-- The side values that a push keeps: none when the node area has no room for another record (R312). -/
def sideSig (s : State) (v : Nat) (g : Sig) : Option Sig :=
  let n := sideCount s v
  if sideNodes (n + 1) ≤ sideNodes n ∨ 0 < freeNodes s v then some g else none

/-- The bytes of a record written at a place of its ring. -/
def writeTask (s : State) (t : Trans) (r : W512) : State := writePhys (touchLeaves s t true) t.pa (toBytes 64 r) false {}

/-- A record pushed at the tail, as one event; none where it does not fit or its slot cannot be reached (R253). -/
def pushTail (s : State) (q : Nat) (r : W512) (g : Sig) : Option State :=
  let x := getTQ s q
  if tqFull x then none
  else
    (tqSlot s x x.tail true).map fun t =>
      let side := sideSig s (x.vf.getD 0) g
      setTQ (writeTask s t r) q { x with tail := x.tail + 1, sigs := SMap.set (fun _ => none) x.sigs x.tail side }

/-- A record put at the head (R251, R371, R398): head falls by one. -/
def pushHead (s : State) (q : Nat) (r : W512) (g : Sig) : Option State :=
  let x := getTQ s q
  if tqFull x ∨ x.head = 0 then none
  else
    (tqSlot s x (x.head - 1) true).map fun t =>
      let side := sideSig s (x.vf.getD 0) g
      setTQ (writeTask s t r) q
        { x with head := x.head - 1, sigs := SMap.set (fun _ => none) x.sigs (x.head - 1) side }

/-- The queue belongs to the function. -/
def ownsQueue (s : State) (v q : Nat) : Bool := decide (q < 256) && decide ((getTQ s q).vf = some v)

/-! ### Joins (R247, R254, R299, R425) -/

/-- Where a completion reaches its join block: R and W under an ASID (R425). -/
def joinAt (s : State) (v asid ja : Nat) : Except (BitVec 8) Trans :=
  match translate s v asid ja true true false [] with
  | .ok t => if isPackageMem s t.pa then .ok t else .error cAccess
  | .fault c _ => .error c
  | .stage2 c _ _ _ => .error c

/-- count of a join block. -/
def joinCount (s : State) (pa : Nat) : Nat := natOfBytes (memBytes s pa 4)
/-- failed. -/
def joinFailed (s : State) (pa : Nat) : Nat := natOfBytes (memBytes s (pa + 4) 4)
/-- CONT. -/
def joinCont (s : State) (pa : Nat) : Bool := bit (memByte s (pa + 10)) 0
/-- queue. -/
def joinQueue (s : State) (pa : Nat) : Nat := natOfBytes (memBytes s (pa + 8) 2)
/-- The continuation. -/
def joinRecord (s : State) (pa : Nat) : W512 := ofBytes 512 (memBytes s (pa + 64) 64)

/-- What a completion reads of its join block is poisoned (R381; assumption 71). -/
def joinPoison (s : State) (pa : Nat) : Bool :=
  poisonedAt s pa 64 || (decide (joinCount s pa = 1) && joinCont s pa && poisonedAt s (pa + 64) 64)

/-- The decrement of a completion: one atomic event on count and failed; a count of 0 stays and counts as failed. -/
def decrement (s : State) (pa : Nat) (failed : Bool) : State :=
  let n := joinCount s pa
  let f := joinFailed s pa
  let f' := if failed ∨ n = 0 then min (f + 1) (2 ^ 32 - 1) else f
  let s := writePhys s pa (toBytes 4 (BitVec.ofNat 32 (n - 1))) false {}
  writePhys s (pa + 4) (toBytes 4 (BitVec.ofNat 32 f')) false {}

/-- What remains of a completion: nothing, a continuation to enqueue, or a continuation that its queue cannot take. -/
inductive After where
  | done
  | enqueue (r : W512) (q : Nat)
  | misnamed (r : W512)

/-- A completion on a reached join block. -/
def completeAt (s : State) (v : Nat) (t : Trans) (failed : Bool) : State × After :=
  let pa := t.pa
  let fires := joinCount s pa = 1 ∧ joinCont s pa
  let r := joinRecord s pa
  let q := joinQueue s pa
  let s := decrement (touchLeaves s t true) pa failed
  (s, if !fires then .done else if ownsQueue s v q then .enqueue r q else .misnamed r)

/-- The continuation is enqueued, or waits for room (R254). -/
def enqueueCont (s : State) (x : Cont) : State :=
  match pushTail s x.queue x.record x.sig with
  | some s => s
  | none => { s with conts := s.conts ++ [x] }

/-- A completion that hardware makes, under an ASID; a fault drops it and is reported, and a continuation that no queue of the
function can take completes as FAILED in its turn, under defasid (R241, R425). -/
def hardwareComplete : Nat → State → Nat → Nat → Nat → Nat → Bool → Sig → State
  | 0, s, _, _, _, _, _, _ => s
  | n + 1, s, v, asid, g, ja, failed, sg =>
    if ja = 0 then s
    else
      match joinAt s v asid ja with
      | .error c => hardwareFault s v g c 0 0 ja
      | .ok t =>
        let s := prepare s t.pa 128 {}
        if joinPoison s t.pa then hardwareFault s v g 0x10 0 0 ja
        else
          let (s, r) := completeAt s v t failed
          match r with
          | .done => s
          | .enqueue r q => enqueueCont s { record := r, queue := q, vf := v, sig := sg }
          | .misnamed r =>
            hardwareComplete n (hardwareFault s v g cAccess 0 0 ja) v (getFctx s v).defasid.toNat g (recJoin r) true sg

/-- A bound on a chain of misnamed continuations, that every chain keeps: the count of each join block that fires is 1, so that
it has a listed byte of memory, and 0 from then on. -/
def contFuel (s : State) : Nat := s.mem.length + 1

/-- A completion as cancelled or FAILED of a record of function `v`, under an ASID, with path 0 and no reference. -/
def completeUnder (s : State) (v asid g : Nat) (r : W512) : State :=
  hardwareComplete (contFuel s) s v asid g (recJoin r) true { stamp := phys s }

/-- The completion of a record that no run holds, under the function's defasid (R241). -/
def completeFailed (s : State) (v g : Nat) (r : W512) : State := completeUnder s v (getFctx s v).defasid.toNat g r

/-- CONTINUATION_ENQUEUE (R254): the `i`-th continuation that waits for room is enqueued. -/
def execContinuationEnqueue (i : Nat) (s : State) : Out :=
  .next (match s.conts[i]? with
    | none => s
    | some x =>
      match pushTail s x.queue x.record x.sig with
      | some s => { s with conts := s.conts.eraseIdx i }
      | none => s)

/-! ### Tags (R256 to R258, R302, R303) -/

/-- Tag `t`. -/
def getTag (s : State) (t : Nat) : Tag := SMap.get (fun _ => {}) s.tags t

/-- A tag replaced. -/
def setTag (s : State) (t : Nat) (x : Tag) : State := { s with tags := SMap.set (fun _ => {}) s.tags t x }

/-- LIVE: neither free nor CANCELLING. -/
def tagLive (x : Tag) : Bool := x.live && !x.cancelling

/-- The lowest number from `n` that a rising list of keys leaves out. -/
def lowestFree {V : Type} : Nat → SMap V → Nat
  | n, [] => n
  | n, (k, _) :: t => if k = n then lowestFree (n + 1) t else n

/-- A free tag number, at or after a free start, or after 65,535 from 0 (R256). -/
def freeTag (s : State) : Nat :=
  let i := freeStart s 65536
  let n := lowestFree i (s.tags.filter fun e => decide (i ≤ e.1))
  if n < 65536 then n else lowestFree 0 s.tags

/-- Live tags of a function. -/
def tagCount (s : State) (v : Nat) : Nat := (s.tags.filter fun e => e.2.live && decide (e.2.vf = v)).length

/-- `t` is `r` or a descendant of it, looking upwards at most 32 levels. -/
def inSubtree (s : State) (r : Nat) : Nat → Nat → Bool
  | 0, _ => false
  | n + 1, t =>
    if t = r then true
    else
      match (getTag s t).parent with
      | none => false
      | some p => inSubtree s r n p

/-- The tag with every descendant becomes CANCELLING. -/
def cancelTree (s : State) (r : Nat) : State :=
  { s with tags := s.tags.map fun e =>
      if e.2.live && inSubtree s r 33 e.1 then (e.1, { e.2 with cancelling := true }) else e }

/-- Every LIVE tag of a function bound to a pod group is cancelled with its subtree (R257). -/
def cancelGroup (s : State) (v : Nat) (g : W32) : State :=
  ((s.tags.filter fun e => tagLive e.2 && decide (e.2.vf = v) && decide (e.2.group = g)).map fun e => e.1).foldl
    cancelTree s

/-- A cancellation covers the run of a core: a wake event (R377). -/
def wakeCovered (s : State) : State :=
  eachCore s fun _ k =>
    if k.phase ≠ .idle ∧ (getTag s (recTag k.run.record)).cancelling then { k with wake := true } else k

/-- CANCEL t, one event; with a pod group it reaches the other packages of the pod too (R257). -/
def cancelTag (s : State) (t : Nat) : State :=
  let x := getTag s t
  let s := cancelTree s t
  wakeCovered (if x.group = 0 then s
    else { cancelGroup s x.vf x.group with podOut := s.podOut ++ [.cancel x.vf x.group] })

/-- POD_CANCEL (R257): a cancellation reaches this package. -/
def execPodCancel (vf : Nat) (group : W32) (s : State) : Out :=
  .next (if group = 0 then s else wakeCovered (cancelGroup s vf group))

/-- A tag that an instruction of function `v` may not name: free, or another function's in either state (R298, R302). -/
def tagRefused (s : State) (v t : Nat) : Bool := !(getTag s t).live || decide ((getTag s t).vf ≠ v)

/-- ACCESS_FAULT that names a tag. -/
def tagFault (t : Nat) : PTrap := { cause := cAccess, einfo := BitVec.ofNat 64 (2 ^ 63 + t % 2 ^ 16) }

/-- CANCELLED (R258). -/
def cancelledFault (t : Nat) : PTrap := { cause := 0x0E, einfo := BitVec.ofNat 64 (t % 2 ^ 16) }

/-- A fault met at an instruction's event: the head leaves and the trap is pending (R421). -/
def eventTrap (s : State) (c : Nat) (b : BufItem) (t : PTrap) : State := eventBlock s c b (.trap t)

/-- TAGNEW (R302). -/
def execTagnew (f : Frame) (o : OpY) (s : State) : Out :=
  .next (whenPred f s (lateS
    (enbuf s false (.tagnew false (field (srcS s o.y) 0 16) ((srcS s o.z).setWidth 32) o.x.toNat)) o.x.toNat))

/-- TAGNEW.root (R302): supervisor-only. -/
def execTagnewRoot (f : Frame) (o : OpY) (s : State) : Out :=
  .next (orBlock s (supBlock s)
    (whenPred f s (lateS (enbuf s false (.tagnew true 0 ((srcS s o.z).setWidth 32) o.x.toNat)) o.x.toNat)))

/-- The creation event's result is returned. -/
def endTagnew (s : State) (c : Nat) (b : BufItem) (dst : Nat) (v : W64) : State :=
  dropHead (pushRet s c { dest := .s dst, val := v.setWidth 512, dead := b.dead }) c

/-- PERFORM of TAGNEW: ownership, state, quota and depth, then a LIVE child (R256, R258, R302). -/
def performTagnew (s : State) (c : Nat) (b : BufItem) (root : Bool) (parent : Nat) (group : W32) (dst : Nat) : State :=
  let v := vmid (getCore s c)
  let p := getTag s parent
  if !root && tagRefused s v parent then eventTrap s c b (tagFault parent)
  else if !root && p.cancelling then eventTrap s c b (cancelledFault parent)
  else
    let n := freeTag s
    let depth := if root then 1 else p.depth + 1
    let s := { s with free := s.free + 1 }
    if (getFctx s v).tagquota ≤ tagCount s v ∨ 32 < depth ∨ 65536 ≤ n then
      endTagnew (warnC s c wFallback) c b dst 0xFFFFFFFFFFFFFFFF
    else
      endTagnew (setTag s n { live := true, parent := if root then none else some parent, depth := depth,
                              group := if group = 0 then (if root then 0 else p.group) else group, vf := v })
        c b dst (BitVec.ofNat 64 n)

/-- CANCEL (R303): where the run's own tag lies in the subtree, no bundle issues after it. -/
def execCancel (f : Frame) (o : OpY) (s : State) : Out :=
  let t := field (srcS s o.y) 0 16
  .next (whenPred f s (enbuf s (inSubtree s t 33 (runTag (cc s))) (.cancel false t none)))

/-- CANCEL.wait (R303). -/
def execCancelWait (f : Frame) (o : OpY) (s : State) : Out :=
  .next (whenPred f s (enbuf s true (.cancel true (field (srcS s o.y) 0 16) none)))

/-- The tags that are CANCELLING. -/
def cancellingTags (s : State) : List Nat := (s.tags.filter fun e => e.2.live && e.2.cancelling).map fun e => e.1

/-- Tags whose cancellation has not had all its effects yet, of those that a CANCEL made CANCELLING (R257, R303). -/
def cancelPending (s : State) (l : List Nat) : Bool := (cancellingTags s).any l.contains

/-- PERFORM of CANCEL: the event, and for .wait the end of every effect in this package, those on the tags of its pod group
too. -/
def performCancel (s : State) (c : Nat) (b : BufItem) (wait : Bool) (t : Nat) (done : Option (List Nat)) : State :=
  match done with
  | some l => if cancelPending s l then s else dropHead s c
  | none =>
    let x := getTag s t
    if x.live && decide (x.vf ≠ vmid (getCore s c)) then eventTrap s c b (tagFault t)
    else if !x.live then dropHead (warnC s c wFallback) c
    else if x.cancelling then dropHead s c
    else
      let before := cancellingTags s
      let s := cancelTag s t
      let made := (cancellingTags s).filter fun u => !before.contains u
      if wait then setHead s c { b with ev := .cancel wait t (some made), began := true } else dropHead s c

/-- A cancellation covers the run, or its trap found no handler: it is to stop (R257, R360). -/
def runCancelled (s : State) (k : Core) : Bool :=
  k.phase ≠ .idle && (k.cancelled || (getTag s (recTag k.run.record)).cancelling)

/-! ### SPAWN (R253, R298) -/

/-- Check 1 of SPAWN: alignment, translation, R and CC. -/
def spawnBlock (f : Frame) (o : OpY) (s : State) : Option Block :=
  if !predOk s f then none
  else
    let ea := (eaY s o).toNat
    if ea % 64 ≠ 0 then accessTrap ea
    else accessBlock s (asidOf s (oldCore s)) .dld ea 64 true false

/-- SPAWN in either form. -/
def spawnForm (nb : Bool) (f : Frame) (o : OpY) (s : State) : State :=
  orBlock s (spawnBlock f o s) (whenPred f s (lateS
    (enbuf s (!nb) (.spawn nb (eaY s o).toNat (srcS s o.z).toNat o.x.toNat [] false none)) o.x.toNat))

/-- SPAWN (R298). -/
def execSpawn (f : Frame) (o : OpY) (s : State) : Out := .next (spawnForm false f o s)

/-- SPAWN.nb (R298). -/
def execSpawnNb (f : Frame) (o : OpY) (s : State) : Out := .next (spawnForm true f o s)

/-- A SPAWN ends with its status. -/
def endSpawn (s : State) (c : Nat) (b : BufItem) (dst status : Nat) : State :=
  dropHead (pushRet s c { dest := .s dst, val := BitVec.ofNat 512 status, dead := b.dead }) c

/-- The record as pushed: ctx and the code's low bits are 0. -/
def spawnRecord (img : List Byte) : W512 := setField (setField (ofBytes 512 img) 256 64 0) 0 5 0

/-- The image changed as it was pushed, which sets W_FALLBACK. -/
def spawnAdjusted (img : List Byte) : Bool := decide (spawnRecord img ≠ ofBytes 512 img)

/-- Checks 2 to 5 of SPAWN in their order (R298). -/
def spawnFault (s : State) (v ea q : Nat) (img : List Byte) (poison : Bool) : Option PTrap :=
  let t := recTag (ofBytes 512 img)
  if poison then some { cause := 0x10, einfo := BitVec.ofNat 64 ea }
  else if tagRefused s v t then some (tagFault t)
  else if (getTag s t).cancelling then some (cancelledFault t)
  else if !ownsQueue s v q then
    some { cause := cAccess, einfo := BitVec.ofNat 64 (2 ^ 62 + (if 256 ≤ q then 0x1FF else q)) }
  else none

/-- SPAWN_FULL (R253, R265). -/
def spawnFullTrap (q : Nat) : PTrap := { cause := 0x0C, einfo := BitVec.ofNat 64 (q % 256) }

/-- A SPAWN finds its queue full (R253). -/
def spawnWaits (s : State) (c : Nat) (b : BufItem) (nb : Bool) (ea q dst : Nat) (img : List Byte) (poison : Bool) : State :=
  if nb then endSpawn s c b dst 2
  else if (getCore s c).regs.cr.spawnwait.toNat = 0 then eventTrap s c b (spawnFullTrap q)
  else setHead s c { b with ev := .spawn nb ea q dst img poison (some 0), began := true }

/-- The push event of SPAWN. A ring whose slot stage 2 refuses is not a full queue: the run is held for the PF (R328, R336). -/
def spawnPush (s : State) (c : Nat) (b : BufItem) (nb : Bool) (ea q dst : Nat) (img : List Byte) (poison : Bool) : State :=
  match spawnFault s (vmid (getCore s c)) ea q img poison with
  | some t => eventTrap s c b t
  | none =>
    match pushTail s q (spawnRecord img) (sigOf s c 0), tqReach s (getTQ s q) (getTQ s q).tail true with
    | some s, _ => endSpawn (if spawnAdjusted img then warnC s c wFallback else s) c b dst 0
    | none, .error f =>
      if tqFull (getTQ s q) then spawnWaits s c b nb ea q dst img poison else eventBlock s c b (.s2 f)
    | none, .ok _ => spawnWaits s c b nb ea q dst img poison

/-- PERFORM of a SPAWN: the next granule of its image, or its push (R298). -/
def performSpawn (s : State) (c : Nat) (b : BufItem) (nb : Bool) (ea q dst : Nat) (img : List Byte) (poison : Bool)
    (full : Option Nat) : State :=
  if full.isSome ∨ imagePending (getCore s c) then s
  else if 64 ≤ img.length then spawnPush s c b nb ea q dst img poison
  else
    let va := ea + img.length
    match translate s (vmid (getCore s c)) b.asid va true false false [0] with
    | .ok t =>
      if needsRepair s t.pa then s
      else
        let s := touchLeaves s t false
        if isFar t.pa || t.host then
          forward s c (farQueue t.pa) { pa := t.pa, va := va, size := 16,
                                        who := .image }
        else
          let r := readPhys s t.pa 16 { l1 := some c }
          setHead r.1 c { b with ev := .spawn nb ea q dst (img ++ r.2.1) (poison || r.2.2) none }
    | x =>
      match xlBlock 0 false ea x with
      | some bl => eventBlock s c b bl
      | none => s

/-- SPAWN_RETRY (R253): at a pop from its queue, a waiting SPAWN re-evaluates. -/
def execSpawnRetry (c : Nat) (s : State) : Out :=
  .next (match (getCore s c).buf with
    | b :: _ =>
      match b.ev with
      | .spawn nb ea q dst img poison (some _) =>
        if tqFull (getTQ s q) || performStops (getCore s c) then s else spawnPush s c b nb ea q dst img poison
      | _ => s
    | [] => s)

/-- SPAWN_FULL (R253): cr.spawnwait cycles have passed and the queue is still full. -/
def execSpawnFull (c : Nat) (s : State) : Out :=
  .next (match (getCore s c).buf with
    | b :: _ =>
      match b.ev with
      | .spawn _ _ q _ _ _ (some _) =>
        if (getCore s c).regs.cr.spawnwait.toNat ≤ b.waited ∧ tqFull (getTQ s q) ∧ !performStops (getCore s c) then
          eventTrap s c b (spawnFullTrap q) else s
      | _ => s
    | [] => s)

/-! ### JOINADD and SELF (R255, R301, R304) -/

/-- The join block that a JOINADD names: aligned and writable, else ACCESS_FAULT; as an atomic it needs the CC bit too, whose
want is ENGINE_PERMISSION (R217, R301, R327). -/
def joinXl (s : State) (c asid : Nat) (va : W64) : Except Block Trans :=
  match blockXl s c asid va 128 (fun m => decide (m ≠ 2)) true true, translate s (vmid (getCore s c)) asid va.toNat true true false [0] with
  | .ok t, _ => .ok t
  | .error b, .fault cause l =>
    .error (if cause = cEngine ∧ va.toNat % 128 = 0 then .trap { cause := cause, einfo := xlInfo 0 l true va.toNat } else b)
  | .error b, _ => .error b

/-- JOINADD's check at issue. -/
def joinaddBlock (f : Frame) (o : OpY) (s : State) : Option Block :=
  if predOk s f then blockOf (joinXl s s.cur (asidOf s (oldCore s)) (srcS s o.y)) else none

/-- JOINADD (R301). -/
def execJoinadd (f : Frame) (o : OpY) (s : State) : Out :=
  let n := o.imm.toNat % 65536
  .next (orBlock s (joinaddBlock f o s)
    (whenPred f s (if n = 0 then warn s wFallback else enbuf s false (.joinadd (srcS s o.y).toNat n))))

/-- JOIN_AFTER_ZERO (R255). -/
def joinTrap (case ea : Nat) : PTrap := { cause := 0x0D, einfo := BitVec.ofNat 64 (case * 2 ^ 62 + ea % 2 ^ 55) }

/-- PERFORM of JOINADD: one atomic event (R255). DESIGN CHOICE, assumption 67: a poisoned block is consumed as an atomic's
operand is, with POISON_CONSUMED and s[y] in cr.einfo, and nothing is written (R101, R386).-/
def performJoinadd (s : State) (c : Nat) (b : BufItem) (ea n : Nat) : State :=
  match joinXl s c b.asid (BitVec.ofNat 64 ea) with
  | .error bl => eventBlock s c b bl
  | .ok t =>
    let pa := t.pa
    let r := readPhys (touchLeaves s t true) pa 4 {}
    let v := natOfBytes r.2.1
    if r.2.2 then eventTrap r.1 c b { cause := 0x10, einfo := BitVec.ofNat 64 ea }
    else if v = 0 then eventTrap r.1 c b (joinTrap 1 ea)
    else if 2 ^ 32 ≤ v + n then eventTrap r.1 c b (joinTrap 2 ea)
    else dropHead (writePhys r.1 pa (toBytes 4 (BitVec.ofNat 32 (v + n))) false {}) c

/-- The virtual address of the run's record-page copy (R246). -/
def recordVa (s : State) (c v : Nat) : Nat := (getFctx s v).jrec + 64 * c

/-- A fact of the current run (R304). -/
def selfFact (s : State) (c : Nat) (k : Core) (n : Nat) : W64 :=
  match n with
  | 0 => BitVec.ofNat 64 (recordVa s c k.run.vf)
  | 1 => BitVec.ofNat 64 (recTag k.run.record)
  | 2 => BitVec.ofNat 64 k.run.queue
  | 3 => BitVec.ofNat 64 k.run.vf
  | _ => BitVec.ofNat 64 (recJoin k.run.record)

/-- SELF (R304). -/
def execSelf (f : Frame) (o : OpY) (s : State) : Out :=
  .next (whenPred f s (putS s o.x (selfFact s s.cur (cc s) o.fn.toNat)))

/-! ### YIELD and FINISH (R40, R299, R300) -/

/-- YIELD (R300). -/
def execYield (f : Frame) (_ : OpY) (s : State) : Out := .next (whenPred f s (enbuf s true .yield))

/-- The core admits the queue (R249). -/
def admits (c : Nat) (k : Core) (x : TaskQ) : Bool :=
  !k.fenced && x.enabled && x.vf.isSome && x.coremask.getLsbD c && x.stagemask.getLsbD (k.stage % 16)

/-- A record of the queue may be popped by core `c`: one held for it, or the head. -/
def hasRecord (c : Nat) (x : TaskQ) : Bool :=
  (x.heldFor.any fun h => decide (h.core = c)) || decide (x.head < x.tail)

/-- Some queue that the core admits, of an enabled function, holds a record. -/
def workWaits (s : State) (c : Nat) : Bool :=
  s.tqs.any fun e => admits c (getCore s c) e.2 && hasRecord c e.2 && (getFctx s (e.2.vf.getD 0)).enabled

/-- The run's saved record would be held for its core (R371): it has arrived at a barrier, or an FFENCE holds it. -/
def pinned (k : Core) : Bool :=
  (k.buf ++ k.parked).any fun b => match b.ev with
    | .bar _ _ _ arrived _ => arrived.isSome
    | .ffence _ _ => true
    | _ => false

/-- PERFORM of YIELD: it completes, or the run is to be saved: a record held for its core needs no room (R251, R300). A save
that has been decided already stands. -/
def performYield (s : State) (c : Nat) : State :=
  if workWaits s c && (pinned (getCore s c) || !tqFull (getTQ s (getCore s c).run.queue)) then
    onCore (dropHead s c) c fun k => { k with save := k.save <|> some .yield, wake := true }
  else dropHead s c

/-- FINISH in either form: the core is in Finishing from its issue on (R299). -/
def finishForm (fail : Bool) (f : Frame) (s : State) : State :=
  whenPred f s (onCur (enbuf s true (.finish fail)) fun k => { k with phase := .finishing 1 fail s.ctx.pc })

/-- FINISH (R299). -/
def execFinish (f : Frame) (_ : OpY) (s : State) : Out := .next (finishForm false f s)

/-- FINISH.fail (R299). -/
def execFinishFail (f : Frame) (_ : OpY) (s : State) : Out := .next (finishForm true f s)

/-- Far accesses of a run that has ended return to nobody. -/
def orphanFar (k : Core) : Core :=
  { k with far := k.far.map fun e => (e.1, e.2.map fun it => { it with who := .none }) }

/-- What ends with a run: rules, bindings, windows, queues, RQ, pops, tokens, program buffer, pending traps and the
Sorus bank's contents (R40, R114, R257, R286, R296). Results of retired vector commands have landed; lanes left undefined
stay so (R145, R147). -/
def clearRun (k : Core) : Core :=
  let k := orphanFar k
  { k with rules := [], binds := [], wins := [], rq := [], pops := [], owed := [], tokens := [], engines := [],
           chans := [], eng := (k.flight.filter fun r => r.landed && !r.stuck).foldl landRec k.eng,
           flight := k.flight.filter (fun r => r.stuck), buf := [], parked := [], rets := [], ptraps := [], trapHold := 0, holdStack := [], depth := 0, hdrOk := none, stepDue := none, save := none, outRests := [],
           s2fault := none, cancelled := false, drained := false, stall := .none, waited := 0, deadlock := 0,
           stop := none, frozen := false, paths := [], phase := .idle, held := false, prevVf := some k.run.vf }

/-- The rules of a core are taken off their tensors, feeds included. -/
def dropRules (s : State) (c : Nat) : State :=
  ((getCore s c).rules.map fun e => e.1).foldl (fun s n => freeRule s c n) s

/-- Every frame that a core's commands hold. -/
def coreHolds (k : Core) : List Nat :=
  (k.engines.flatMap fun e => (e.2.active ++ e.2.again).flatMap fun a => a.holds)
    ++ k.chans.flatMap fun e => e.2.flatMap fun a => a.holds

/-- Appends of commands that are discarded no longer hold the publishes above them (R269). -/
def dropClaimsOf (s : State) (acts : List Active) : State :=
  acts.foldl (fun s a => a.pubs.foldl (fun s p => dropClaim s p.1 p.2) s) s

/-- Those of a core. -/
def dropClaims (s : State) (c : Nat) : State :=
  let k := getCore s c
  dropClaimsOf s ((k.engines.flatMap fun e => e.2.active) ++ k.chans.flatMap fun e => e.2)

/-- Dirty granules of a window are dropped: memory holds its own bytes again, with their marks, and so does its mirror (R119,
R385, R389). -/
def dropDirty (s : State) (w : Win) : State :=
  w.dirty.foldl (fun s d => setPz (putMemory s d.pa (toBytes 64 d.old) d.oldPz.poison) (d.pa / 64) d.oldPz) s

/-- The dirty granules of every window of a core are dropped. -/
def dropWindows (s : State) (c : Nat) : State := (getCore s c).wins.foldl dropDirty s

/-- The journal slot of a core at the end of its run (R396). -/
def journalDone (k : Core) : Core := { k with journal := { k.journal with phase := .done } }

/-- What is kept of a saved context under a handle. -/
def getRest (s : State) (h : Nat) : CtxRest := SMap.get (fun _ => {}) s.rests h

/-- A saved rule is discarded with its context (R257, R368); one that SLDROP has revoked is gone already. -/
def dropRule (s : State) (r : Rule) : State := if ruleStands r then unlinkRule s r else s

/-- A saved context is dropped: its claims and its rules end and its holds are released (R180, R257, R269). -/
def dropRestOne (s : State) (h : Nat) : State :=
  let r := getRest s h
  let s := { s with rests := SMap.erase s.rests h }
  if r.used then s
  else
    let s := dropClaimsOf s ((r.engines.flatMap fun e => e.2) ++ r.chans.flatMap fun e => e.2)
    releaseHolds ((r.rules.map fun e => e.2).foldl dropRule s) (restHolds r)

/-- A saved context is dropped, with those that its own supervisor had saved. -/
def dropRest (s : State) (h : Nat) : State := (getRest s h).outs.foldl dropRestOne (dropRestOne s h)

/-- A page that returns to its pool with a granule of media origin is quarantined (R391). -/
def quarantineIf (s : State) (fr : Nat) : State :=
  if hasMedia s fr then { s with quarantine := SMap.set (fun _ => false) s.quarantine fr true } else s

/-- The pages of a context that hardware saved return to the pool (R371, R391, R398). -/
def freeCtxPages (s : State) (pa : Nat) : State :=
  let e := SMap.get (fun _ => ([], 0)) s.ctxPages (pa / 65536)
  let s := (e.1.map fun p => p / 65536).foldl quarantineIf s
  { s with savePages := s.savePages.filter fun p => !e.1.contains (p.1 * 65536),
           ctxPages := SMap.erase s.ctxPages (pa / 65536) }

/-- A saved run is discarded: its context goes with its pages and its holds, and the barriers at which it has arrived are
broken (R257, R263). -/
def dropContext (s : State) (r : W512) : State :=
  if recCtx r = 0 then s
  else
    let h := (SMap.get (fun _ => ([], 0)) s.ctxPages (recCtx r / 65536)).2
    dropRest (freeCtxPages (breakSaved s (getRest s h)) (recCtx r)) h

/-- A run ends: its holds are released, those of contexts that its supervisor saved too, and the core is idle. -/
def endRun (s : State) (c : Nat) : State :=
  let s := looseWindows s c
  let k := getCore s c
  let holds := coreHolds k
  k.outRests.foldl dropRest (releaseHolds (setCore s c (clearRun k)) holds)

/-- A run is discarded with what it held (R257): rules, claims, dirty granules, barriers, and a context not yet
restored. -/
def discardRun (s : State) (c : Nat) : State :=
  let s := if (getCore s c).phase = .starting then dropContext s (getCore s c).run.record else s
  let s := dropClaims s c
  let s := dropRules s c
  let s := dropWindows s c
  endRun (breakBarriers s c (vmid (getCore s c))) c

/-- The decrement of a FINISH, with the journal settled in the same event; a fault on the join block is the run's
(R254, R396, R425). -/
def finishDecrement (s : State) (c : Nat) (b : BufItem) (fail : Bool) (pc : Nat) : State :=
  let k := getCore s c
  let v := vmid k
  let ja := recJoin k.run.record
  let finished := fun s : State => endRun (onCore (if fail then breakBarriers s c v else s) c journalDone) c
  if ja = 0 then finished s
  else
    match translate s v (field k.regs.cr.asid 0 12) ja true true false [] with
    | .fault cause l => pendC s c { cause := cause, eslot := BitVec.ofNat 2 b.slot, einfo := xlInfo 0 l true ja }
    | .stage2 cause i l w => onCore s c fun k =>
        { k with s2fault := some { port := 0, cause := cause, level := l, ipa := i, va := if w then 0 else ja } }
    | .ok t =>
      if !isPackageMem s t.pa then
        pendC s c { cause := cAccess, eslot := BitVec.ofNat 2 b.slot, einfo := BitVec.ofNat 64 ja }
      else if joinPoison (prepare s t.pa 128 {}) t.pa then
        pendC (prepare s t.pa 128 {}) c { cause := 0x10, eslot := BitVec.ofNat 2 b.slot, einfo := BitVec.ofNat 64 ja }
      else
        let g := sigOf s c 0
        let (s, r) := completeAt (prepare s t.pa 128 {}) v t fail
        match r with
        | .done => finished s
        | .misnamed r =>
          let s := hardwareFault s v c cAccess 0 0 ja
          finished (hardwareComplete (contFuel s) s v (getFctx s v).defasid.toNat c (recJoin r) true g)
        | .enqueue r q =>
          match pushTail s q r g with
          | some s => finished s
          | none =>
            let s := if fail then breakBarriers s c v else s
            onCore { s with conts := s.conts ++ [{ record := r, queue := q, vf := v, sig := g, core := some c }] } c
              fun k => { journalDone k with phase := .finishing 5 fail pc }

/-- PERFORM of a FINISH: its next step (R40, R299). -/
def performFinish (s : State) (c : Nat) (b : BufItem) : State :=
  match (getCore s c).phase with
  | .finishing step fail pc =>
    let goto := fun (s : State) n => onCore s c fun k => { k with phase := .finishing n fail pc }
    match step with
    | 1 => if coreIdle (getCore s c) && lanesEmpty s c then goto s 2 else s
    | 2 =>
      let s := ((getCore s c).rules.map fun e => e.1).foldl (fun s n => revokeRule s c n) s
      if ((getCore s c).rules.all fun e => decide (e.2.st = .free)) && coreIdle (getCore s c) then goto s 3 else s
    | 3 => goto (onCore (looseWindows s c) c fun k => { k with wins := [] }) 4
    | 4 => if (getCore s c).ptraps.isEmpty then finishDecrement s c b fail pc else s
    | _ => if s.conts.any fun x => decide (x.core = some c) then s else endRun s c
  | _ => s

/-! ### What a cancellation does (R257) -/

/-- Entries that only wait, or that have not been pushed: a stopped run discards them. Earlier accesses are performed
first. -/
def discardable (e : Ev) : Bool :=
  match e with
  | .push _ _ => true
  | .waitf _ _ _ _ _ _ => true
  | .drain _ => true
  | .ffence _ _ => true
  | .bar _ _ _ _ _ => true
  | .squash _ => true
  | .spawn _ _ _ _ _ _ _ => true
  | .cancel _ _ _ => true
  | .sflush _ _ => true
  | .sdrop _ _ => true
  | .stepmark _ => true
  | .stepend _ _ _ => true
  | .wfi => true
  | .yield => true
  | .finish _ => true
  | .ctxsave _ _ _ => true
  | .ctxload _ _ _ => true
  | _ => false

/-- The run may stop here: it is at a bundle boundary with its issued accesses performed. -/
def canStop (k : Core) : Bool :=
  k.s2fault.isSome || match k.buf with
    | [] => true
    | b :: _ => discardable b.ev

/-- The completion of a FINISH stands once its decrement is performed (R299). -/
def pastDecrement (k : Core) : Bool :=
  match k.phase with
  | .finishing 5 _ _ => true
  | _ => false

/-- CANCEL_RUN_STOP (R257, R360): the run stops, its work is discarded, and it completes as cancelled. -/
def execCancelRunStop (c : Nat) (s : State) : Out :=
  let k := getCore s c
  .next (if runCancelled s k && !k.frozen && canStop k && !pastDecrement k then
      let v := vmid k
      let r := k.run.record
      completeFailed (onCore (discardRun s c) c journalDone) v c r
    else s)

/-- A queued record is discarded, by a pop or by the sweep: its tag is not LIVE, or is another function's (R257). -/
def recordDead (s : State) (v : Nat) (r : W512) : Bool :=
  !tagLive (getTag s (recTag r)) || decide ((getTag s (recTag r)).vf ≠ v)

/-- The records of a queue that are kept, in order, with their side values. -/
def keptRecords (s : State) (x : TaskQ) : List (W512 × Option Sig) :=
  ((List.range (x.tail - x.head)).filterMap fun i => (readTask s x (x.head + i)).map fun r =>
      (r, SMap.get (fun _ => none) x.sigs (x.head + i))).filter
    fun e => !(getTag s (recTag e.1)).cancelling

/-- The records that the sweep discards. -/
def sweptRecords (s : State) (x : TaskQ) : List W512 :=
  ((List.range (x.tail - x.head)).filterMap fun i => readTask s x (x.head + i)).filter
    fun r => (getTag s (recTag r)).cancelling

/-- The pages of a saved context return to the pool, and the holds it kept are released (R368, R370): given later as an
argument, so that the sweep and a pop share it. -/
def sweepOne (drop : State → Nat → W512 → State) (v : Nat) (s : State) (r : W512) : State :=
  completeFailed (drop s v r) v 0xFF r

/-- Every slot of the ring that holds a record can be read, and written as the records close up. -/
def ringReached (s : State) (x : TaskQ) : Bool :=
  (List.range (x.tail - x.head)).all fun i => (tqSlot s x (x.head + i) false).isSome && (tqSlot s x (x.head + i) true).isSome

/-- The sweep of one queue: the kept records close up from the head (R257). A ring that stage 2 refuses is left as it is until
it can be reached. -/
def sweepQueue (drop : State → Nat → W512 → State) (s : State) (q : Nat) : State :=
  let x := getTQ s q
  match x.vf with
  | none => s
  | some v =>
    let dead := sweptRecords s x ++ (x.heldFor.filter fun h => (getTag s (recTag h.record)).cancelling).map
      fun h => h.record
    if dead.isEmpty || !ringReached s x then s
    else
      let kept := keptRecords s x
      let s := (List.range (x.tail - x.head)).foldl (fun s i => touchTask s x (x.head + i)) s
      let s := setTQ s q { x with
        tail := x.head, sigs := [],
        heldFor := x.heldFor.filter fun h => !(getTag s (recTag h.record)).cancelling }
      let s := kept.foldl (fun s e =>
        let y := getTQ s q
        match tqSlot s y y.tail true with
        | some t => setTQ (writeTask s t e.1) q
            { y with tail := y.tail + 1, sigs := SMap.set (fun _ => none) y.sigs y.tail e.2 }
        | none => s) s
      dead.foldl (sweepOne drop v) s

/-- Every effect of the cancellation of tag `t` has finished: no run, no queued or held record and no open tensor of it
remains (R257). -/
def cancelDone (s : State) (t : Nat) : Bool :=
  !(s.cores.any fun e => decide (e.2.phase ≠ .idle) && decide (recTag e.2.run.record = t))
    && !(s.tqs.any fun e =>
      ((List.range (e.2.tail - e.2.head)).any fun i =>
        match readTask s e.2 (e.2.head + i) with
        | some r => decide (recTag r = t)
        | none => decide (e.2.vf = some (getTag s t).vf))
      || e.2.heldFor.any fun h => decide (recTag h.record = t))
    && !(s.held.any fun h => decide (recTag h.record = t))
    && !(s.ots.any fun e => decide (e.2.st ≠ 0) && decide (e.2.owner = t) && decide (e.2.vf = (getTag s t).vf))

/-- TAG_RELEASE (R257): a CANCELLING tag, with no child left, returns to free. -/
def execTagRelease (t : Nat) (s : State) : Out :=
  .next (if (getTag s t).cancelling && cancelDone s t && !(s.tags.any fun e => e.2.live && decide (e.2.parent = some t))
    then setTag s t {} else s)

end Sys2Proof.Machine
end

