-- ==== Sys2Proof/Machine/Descr.lean ====
section
/-! DEFINITION. Loading, storing and editing descriptors, and the window instructions (R116 to R119). -/

namespace Sys2Proof.Machine

open Sys2Proof

/-! ### DLD, DST, DSET, DGET, DADV (R116 to R118) -/

/-- The descriptor register that x<4:0> or y<4:0> names. -/
def dReg (n : BitVec 6) : Nat := n.toNat % 32

/-- DLD's and DST's block: 64-byte alignment, then translation with R or W and CC (R116). -/
def descBlock (store : Bool) (f : Frame) (o : OpY) (s : State) : Option Block :=
  if !predOk s f then none
  else
    let ea := (eaY s o).toNat
    if ea % 64 ≠ 0 then accessTrap ea
    else accessBlock s (asidOf s (oldCore s)) (if store then .dst else .dld) ea 64 (!store) store

/-- DLD (R116): the access holds issue, and the register is written when all four granules have returned. -/
def execDld (f : Frame) (o : OpY) (s : State) : Out :=
  .next (orBlock s (descBlock false f o s) (whenPred f s
    (noteWrite (enbuf s true (.access { kind := .dld, ea := (eaY s o).toNat, size := 64, dst := dReg o.x })) 2 (dReg o.x))))

/-- DST (R116). -/
def execDst (f : Frame) (o : OpY) (s : State) : Out :=
  .next (orBlock s (descBlock true f o s) (whenPred f s
    (enbuf s false (.access { kind := .dst, ea := (eaY s o).toNat, size := 64, x := srcD s (dReg o.x) }))))

/-- The fields of R117: the lowest bit, the width, and whether the field is signed. -/
def descField (fn : Nat) : Nat × Nat × Bool :=
  match fn with
  | 0 => (60, 4, false)
  | 1 => (0, 55, false)
  | 2 => (117, 2, false)
  | 3 => (116, 1, false)
  | 4 => (112, 4, false)
  | 5 => (64, 16, false)
  | 6 => (80, 16, false)
  | 7 => (96, 16, false)
  | 8 => (128, 32, true)
  | 9 => (160, 32, true)
  | 10 => (192, 32, true)
  | 11 => (224, 32, true)
  | 12 => (300, 1, false)
  | 13 => (286, 14, false)
  | 14 => (272, 14, false)
  | 15 => (258, 14, false)
  | 16 => (256, 2, false)
  | 17 => (344, 40, true)
  | 18 => (328, 16, false)
  | 19 => (320, 2, false)
  | 20 => (424, 16, false)
  | 21 => (408, 16, false)
  | 22 => (392, 16, false)
  | 23 => (384, 3, false)
  | 24 => (448, 55, false)
  | n => (64 * (n - 32), 64, false)

/-- The value is representable in a field. -/
def fits (v : W64) (width : Nat) (signed : Bool) : Bool :=
  if width = 64 then true
  else if signed then decide (-(2 ^ (width - 1) : Int) ≤ v.toInt) && decide (v.toInt < (2 ^ (width - 1) : Int))
  else decide (v.toNat < 2 ^ width)

/-- DSET (R117): the low bits are written, with W_FALLBACK where the value is not representable. -/
def execDset (f : Frame) (o : OpY) (s : State) : Out :=
  let p := descField o.fn.toNat
  let v := srcS s o.y
  .next (whenPred f s (putD (warnIf s (!fits v p.2.1 p.2.2) wFallback) (dReg o.x)
    (setField (srcD s (dReg o.x)) p.1 p.2.1 v.toNat)))

/-- DGET (R117): a signed field is sign-extended, any other zero-extended. -/
def execDget (f : Frame) (o : OpY) (s : State) : Out :=
  let p := descField o.fn.toNat
  let d := srcD s (dReg o.y)
  .next (whenPred f s (putS s o.x
    (if p.2.2 then BitVec.ofInt 64 (sfield d p.1 p.2.1) else BitVec.ofNat 64 (field d p.1 p.2.1))))

/-- DADV (R118): base := wrap(base + n × advstride, 55). -/
def execDadv (f : Frame) (o : OpY) (s : State) : Out :=
  let d := srcD s (dReg o.x)
  .next (whenPred f s (putD s (dReg o.x) (setField d 0 55 (va55 (dBase d) (o.imm.toInt * dAdv d)))))

/-! ### SFLUSH and SDROP (R119) -/

/-- A descriptor of kind 0 or a reserved kind faults at issue. -/
def windowBlock (f : Frame) (o : OpY) (s : State) : Option Block :=
  let k := dKind (srcD s (dReg o.x))
  if predOk s f && (decide (k = 0) || decide (4 ≤ k)) then some (descTrap 0x14 1 (dReg o.x)) else none

/-- A window instruction enters the buffer with the descriptor as it stood. -/
def windowOp (ev : W512 → Ev) (f : Frame) (o : OpY) (s : State) : State :=
  orBlock s (windowBlock f o s) (whenPred f s (enbuf s true (ev (srcD s (dReg o.x)))))

/-- SFLUSH (R119). -/
def execSflush (f : Frame) (o : OpY) (s : State) : Out := .next (windowOp (fun d => .sflush false d) f o s)

/-- SFLUSH.unmap (R119). -/
def execSflushUnmap (f : Frame) (o : OpY) (s : State) : Out := .next (windowOp (fun d => .sflush true d) f o s)

/-- SDROP (R119). -/
def execSdrop (f : Frame) (o : OpY) (s : State) : Out := .next (windowOp (fun d => .sdrop d none) f o s)

/-- The entry that a descriptor maps (R114). -/
def windowOf (k : Core) (d : W512) : Option Win :=
  if hasWindow d then k.wins.find? fun w => sameMapping w.desc d else none

/-- Step 1 of R119: a command with a window that overlaps the range has not retired, or a firing that had begun when the
instruction was first tried; later firings are not waited for (assumption 63). -/
def windowBusy (k : Core) (mark : Nat) (d : W512) : Bool :=
  let hits := fun c : Cmd => !c.tokenOnly && c.descs.any fun x => hasWindow x && overlaps x d
  let stands := fun a : Active => hits a.cmd && (a.rule.isNone || decide (a.id ≤ mark))
  (k.engines.any fun e => e.2.queue.any hits || e.2.active.any stands || e.2.again.any stands)
    || k.chans.any fun e => e.2.any stands

/-- A window's entry changed. -/
def onWindow (k : Core) (w : Win) (f : Win → Option Win) : Core :=
  { k with wins := k.wins.flatMap fun x => if sameMapping x.desc w.desc then (f x).toList else [x] }

end Sys2Proof.Machine
end

