-- ==== Sys2Proof/Machine/Commands.lean ====
section
/-! DEFINITION. Queue-routed slots: their checks, their push and their installation (R28, R72, R120, R128, R279), and the
phases in which an agent performs an active command (R201, R203). -/

namespace Sys2Proof.Machine

open Sys2Proof

/-! ### Pushing (R28, R72, R279) -/

/-- A queue-routed opcode. -/
def queueRouted (w : W64) : Bool := decide (0x60 ≤ opcodeOf w) && decide (opcodeOf w ≤ 0xBF)

/-- The lowest free rule slot (R279). -/
def freeRuleSlot (k : Core) : Option Nat := (List.range 32).find? fun n => decide ((getRule k n).st = .free)

/-- The open source that an install reads. -/
def sourceDesc (us : List Use) (pos : Nat) (rd : Nat → W512) : W512 :=
  match us.find? fun u => decide (u.pos = pos) with
  | some u => rd u.reg
  | none => 0

/-- An installed command's source record translates, is the function's own, and is LIVE. -/
def sourceBlock (s : State) (c asid : Nat) (d : W512) : Option Block :=
  match translate s (vmid (getCore s c)) asid (dOtr d) false false false [] with
  | .ok t =>
    if (getOT s t.pa).st ≠ 1 ∨ (getOT s t.pa).vf ≠ vmid (getCore s c) then accessTrap (dOtr d) else none
  | x => xlBlock 0 false (dOtr d) x

/-- The checks of one queue-routed slot whose predicate holds, in their order: descriptors, the instruction's own
reasons, the bank rule, and a free rule slot (R120, R128, R279). Windows and the rule slot are reserved in the core that
it answers, for the slots after it. -/
def queueCheck (s : State) (c asid : Nat) (rd : Nat → W512) (i : Instr) (w : W64) (k : Core) : Except Block Core :=
  let us := usesOf i w rd
  let ik := instKind w us rd
  match ik with
  | .none => .ok k
  | _ =>
    let used := commandUses w us ik
    match checkUses asid rd k used with
    | .error b => .error b
    | .ok k =>
      match specialReason i w used ik rd with
      | some (r, reg) => .error (descTrap 0x14 r reg)
      | none =>
        match bankReason i w used rd with
        | some (r, reg) => .error (descTrap 0x08 r reg)
        | none =>
          match ik with
          | .install pos =>
            match sourceBlock s c asid (sourceDesc us pos rd) with
            | some b => .error b
            | none =>
              match freeRuleSlot k with
              | none => .error (.trap { cause := 0x0A })
              | some n => .ok (setRule k n { st := .armed })
          | _ => .ok k

/-- A queue-routed slot's block at issue. -/
def queueBlock (i : Instr) (f : Frame) (s : State) : Option Block :=
  if predOk s f then blockOf (queueCheck s s.cur (asidOf s (oldCore s)) (srcD s) i s.ctx.word (cc s)) else none

/-- The command of the slot in issue. -/
def commandOf (s : State) (descs : List W512) (tokenOnly : Bool) : Cmd :=
  { word := s.ctx.word, lit := s.ctx.lit, asid := asidOf s (oldCore s), gen := s.ctx.gen, tokenOnly := tokenOnly,
    descs := descs, shortmass := s.ctx.old.cr.shortmass.setWidth 32 }

/-- The windows of a command's descriptors enter the map (R114). -/
def mapWindows (asid : Nat) (rule : Option Nat) (descs : List W512) (k : Core) : Core :=
  descs.foldl (fun k d => addWindow k asid rule d) k

/-- Windows of these descriptors that the map holds already, and that no rule stands on, are filled anew, since they are to map
one slice (R418). -/
def shareWindows (s : State) (c : Nat) (descs : List W512) : State :=
  let hit := fun w : Win => w.rule.isNone && descs.any fun d => hasWindow d && sameMapping w.desc d
  let s := ((getCore s c).wins.filter hit).foldl (looseWindow c) s
  onCore s c fun k => { k with wins := k.wins.map fun w => if hit w then { w with filled := [], dirty := [] } else w }

/-- The windows of a rule's descriptors are the rule's and stand on a slice, but for one on which another rule stands. -/
def ruleWindows (k : Core) (n slice : Nat) (descs : List W512) : Core :=
  { k with wins := k.wins.map fun w =>
      if (w.rule.isNone || decide (w.rule = some n)) && descs.any fun d => hasWindow d && sameMapping w.desc d then
        { w with rule := some n, slice := slice } else w }

/-- The installation of a standing rule (R279, R280): the lowest free slot, the source's nrules, and the cursor at
holdlow. -/
def installRule (s : State) (cmd : Cmd) (src : W512) : State :=
  match freeRuleSlot (cc s), recordPa s s.cur cmd.asid (dOtr src) with
  | some n, some pa =>
    let o := getOT s pa
    let s := shareWindows s s.cur cmd.descs
    let s := onCur s fun k =>
      let k := mapWindows cmd.asid (some n) cmd.descs k
      let k := ruleWindows k n o.holdlow cmd.descs
      { setRule k n { st := .armed, cmd := cmd, src := dOtr src, srcPa := pa, cursor := o.holdlow,
                      seq := k.installSeq + 1, last := o.holdlow } with installSeq := k.installSeq + 1 }
    let s := putOT s pa { getOT s pa with nrules := o.nrules + 1 }
    warnIf s (decide (0 < o.holdlow)) wFallback
  | _, _ => s

/-- A queue-routed slot takes effect at issue: a push, which carries takes and gives alone when the predicate is false
or two descriptors are open, or an installation. -/
def pushCommand (i : Instr) (f : Frame) (s : State) : State :=
  let w := s.ctx.word
  let rd := srcD s
  let us := usesOf i w rd
  let q := (queueOf w us rd).getD 0
  if !predOk s f then enbuf s false (.push q (commandOf s [] true))
  else
    let ik := instKind w us rd
    let s := match ik with
      | .once => warn s wInstall
      | .none => warn s wInstall
      | _ => s
    match ik with
    | .none => enbuf s false (.push q (commandOf s [] true))
    | .install pos => installRule s (commandOf s (capture us rd) false) (sourceDesc us pos rd)
    | _ =>
      let descs := capture (commandUses w us ik) rd
      enbuf (onCur s fun k => mapWindows (asidOf s (oldCore s)) none descs k) false (.push q (commandOf s descs false))

/-! ### Active commands -/

/-- The active commands of an agent: an engine (1 to 6) or a channel (8 to 15). -/
def actsOf (k : Core) (a : Nat) : List Active := if a < 8 then (getEng k (a - 1)).active else getChan k (a - 8)

/-- The core with an agent's active commands replaced. -/
def setActs (k : Core) (a : Nat) (l : List Active) : Core :=
  if a < 8 then setEng k (a - 1) { getEng k (a - 1) with active := l } else setChan k (a - 8) l

/-- The `i`-th active command of an agent. -/
def getAct (k : Core) (a i : Nat) : Active := (actsOf k a).getD i {}

/-- An active command replaced. -/
def putAct (s : State) (c a i : Nat) (x : Active) : State :=
  onCore s c fun k => setActs k a ((actsOf k a).set i x)

/-- A port of a command is halted at a fault (R335). -/
def haltedAt (x : Active) (port : Nat) : Bool :=
  x.halted.any (fun t => decide (t.port = some port)) || x.halted2.any fun t => decide (t.port = some port)

/-- Some port of a command is halted. -/
def isHalted (x : Active) : Bool := x.halted.isSome || x.halted2.isSome

/-- A command is halted at a fault of a port, which is pending (R232, R335). -/
def haltWith (s : State) (c : Nat) (x : Active) (t : PTrap) (port : Nat) : State × Active :=
  let t := { t with port := some port }
  (pendC s c t, if x.halted.isSome then { x with halted2 := some t } else { x with halted := some t })

/-- A command is held by a block: a fault halts it, a stage-2 fault holds the run. -/
def haltBlock (s : State) (c : Nat) (x : Active) (b : Block) (port : Nat) : State × Active :=
  match b with
  | .trap t => haltWith s c x { t with eslot := 0 } port
  | .s2 f => (onCore s c fun k => { k with s2fault := some { f with port := port } }, { x with s2 := true })

/-- The count of a port's accesses, changed: of an MMA's OPB, or of any other port. -/
def countAt (x : Active) (port : Nat) (f : Nat → Nat) : Active :=
  if port = 2 then { x with count2 := f x.count2 } else { x with count := f x.count }

/-- The reads of a command take holds on the Frond pages that they touch, until it retires (R270). -/
def holdReads (s : State) (x : Active) (reads : List Item) : State × Active :=
  let fs := (framesOf reads).filter fun fr => !x.holds.contains fr
  (fs.foldl holdFrame s, { x with holds := x.holds ++ fs })

/-- What the first phase of a command plans: its reads, and the values that need none. -/
abbrev Plan := State → Nat → Active → List Item × List Got

/-- What the operation of a command does once its data are read: the new state, and the command with its writes. -/
abbrev Perform := State → Nat → Active → State × Active

/-- The writes of RSKIP: those the firing would make, each carrying poison (R287, R308). -/
def poisonWrites (l : List Item) : List Item :=
  l.map fun i => { i with elems := i.elems.map fun e => { e with poison := true } }

/-- A skipped firing makes its writes with poison, and nothing else of its operation. -/
def skipFiring (act : Perform) (s : State) (c a i : Nat) (x : Active) : State :=
  let r := act s c x
  putAct s c a i { x with stage := 2, ran := true, writes := poisonWrites r.2.writes }

/-- A command in two phases: the reads are planned at issue, and the operation is performed when all are made. -/
def twoPhase (plan : Plan) (act : Perform) (a i : Nat) (s : State) : State :=
  let c := s.cur
  let x := getAct (getCore s c) a i
  if x.stage = 0 ∧ x.skip then skipFiring act s c a i x
  else if x.stage = 0 then
    let p := plan s c x
    let r := holdReads s x p.1
    putAct r.1 c a i { r.2 with stage := 1, reads := p.1, got := p.2 }
  else if x.stage = 1 ∧ x.reads = [] ∧ x.farOut = 0 then
    let r := act s c x
    putAct r.1 c a i { r.2 with stage := 2, ran := true }
  else s

/-- A queue-routed instruction: pushed by its slot, and performed by its agent. -/
def queued (i : Instr) (f : Frame) (act : Nat → Nat → State → State) (s : State) : Out :=
  .next (match s.role with
    | .slot => orBlock s (queueBlock i f s) (pushCommand i f s)
    | .agent a n => act a n s)

/-- Nothing is read. -/
def noPlan : Plan := fun _ _ _ => ([], [])

/-! ### Shared pieces of operations -/

/-- The body of an active command's format E word. -/
def actE (x : Active) : OpE := opEOf (bodyOf x.cmd.word)

/-- The body of an active command's format V word. -/
def actV (x : Active) : OpV := opVOf (bodyOf x.cmd.word)

/-- A dimension of an operand, its bound not taken: 1 along an axis that one slice carries. DESIGN CHOICE, assumption 64:
R131 does not say what an MMA's firing takes along the open axis; it stands at index 0, with extent 1 there, and neither the
dimension nor the bound along that axis limits it. -/
def rawDim (o : Opd) (k : Nat) : Nat := if o.slice.isSome ∧ k = o.axis then 1 else dDim o.d k

/-- A dimension of an operand lowered by its own bound. -/
def ownDim (o : Opd) (k : Nat) : Nat := if o.slice.isSome ∧ k = o.axis then 1 else bounded o.d k

/-- An index lies below an operand's dimension and its non-zero bound (R136). -/
def inside (o : Opd) (k i : Nat) : Bool := decide (i < ownDim o k)

/-- Bits of the poisoned result of a type (R100). -/
def poisonBits (t : Nat) : Nat := if isFloat t then nanOf t else 2 ^ tyBits t - 1

/-- A converted element: its bits, its poison, and what TRAP counts (R90, R100). -/
structure Conv where
  bits : Nat := 0
  poison : Bool := false
  trap : Bool := false
  dz : Bool := false
deriving DecidableEq, Repr

/-- A value converted to a type, or the poisoned result of it (R91, R92, R100). -/
def convertTo (v : FV) (poison : Bool) (t mode pol : Nat) : Conv :=
  if poison then { bits := poisonBits t, poison := true }
  else
    let r := roundTo v t mode pol
    { bits := r.bits, trap := r.trap, dz := r.dz }

/-- A command that keeps count of the elements that took the SAT value under TRAP (R90). -/
def countTraps (x : Active) (l : List Conv) : Active :=
  { x with fpN := x.fpN + (l.filter fun e => e.trap).length, fpDz := x.fpDz || l.any fun e => e.dz }

/-- The FP32 bits of a value. -/
def bits32 (v : FV) : W32 := BitVec.ofNat 32 (rneBits v)

/-- A 32-bit result with its poison. -/
def pv32 (v : FV) (poison : Bool) : PV 32 :=
  if poison then { bits := BitVec.ofNat 32 (nanOf 0), poison := true } else { bits := bits32 v }

end Sys2Proof.Machine
end

