-- ==== Sys2Proof/Machine/Matrix.lean ====
section
/-! DEFINITION. The matrix and epilogue engines (R93 to R100, R121 to R141). -/

namespace Sys2Proof.Machine

open Sys2Proof

/-! ### Register state -/

/-- Entry `e` of table tbN. -/
def getTb (g : EngRegs) (t e : Nat) : PV 16 := SMap.get (fun _ => {}) g.tb (16 * t + e)

/-- Entry (a, b) of the product table. -/
def getProd (g : EngRegs) (a b : Nat) : PV 64 := SMap.get (fun _ => {}) g.prod (16 * a + b)

/-- Element (i, j) of tile `t`. -/
def getAcc (g : EngRegs) (t i j : Nat) : PV 32 := SMap.get (fun _ => {}) g.acc (8192 * t + 64 * i + j)

/-- Elements of a tile replaced. -/
def putAccs (k : Core) (t : Nat) (l : List ((Nat × Nat) × PV 32)) : Core :=
  let acc := SMap.setAll (fun _ => {}) k.eng.acc (l.map fun e => (8192 * t + 64 * e.1.1 + e.1.2, e.2))
  { k with eng := { k.eng with acc := acc } }

/-- Every element of a tile is +0, not poisoned. -/
def clearTile (k : Core) (t : Nat) : Core :=
  { k with eng := { k.eng with acc := k.eng.acc.filter fun e => decide (e.1 / 8192 ≠ t) } }

/-- The identity activation table (R137). -/
def actDefault (n : Nat) : PV 32 :=
  let v : Int := if n = 0 then 0 else if n = 1 then 1 else if n = 2 ∨ n = 4 then 1 else if n < 8 then 0
    else if (n - 8) % 4 = 0 then ((n - 8) / 4 : Nat) else if (n - 8) % 4 = 1 then 1 else 0
  { bits := bits32 (ofInt v) }

/-- Word `n` of the activation table. -/
def getActWord (g : EngRegs) (n : Nat) : PV 32 := SMap.get actDefault g.act n

/-! ### MMA (R121 to R131) -/

/-- The lengths M, N and K of R124, with the number of fallbacks taken. -/
def mmaLengths (a b : Opd) : Nat × Nat × Nat × Nat :=
  let m := rawDim a 1
  let n := rawDim b 1
  let k := min (rawDim a 0) (rawDim b 0)
  (min m 128, min n 64, min k 4096,
   (if 128 < m then 1 else 0) + (if 64 < n then 1 else 0) + (if rawDim a 0 ≠ rawDim b 0 then 1 else 0)
     + (if 4096 < k then 1 else 0))

/-- Elements of K below K and every non-zero column bound (R98). -/
def mmaReadK (a b : Opd) (k : Nat) : Nat := min k (min (ownDim a 0) (ownDim b 0))

/-- Block length in elements (R39). -/
def blockLen (d : W512) : Nat :=
  match dBlen d with
  | 1 => 32
  | 2 => 64
  | _ => 128

/-- Along dim0 of an open operand element k lies in slice k, and has its block byte there: each element has a byte of its
own (R94, R270). -/
def blockPerElem (o : Opd) : Bool := o.ot.isSome && o.slice.isNone && decide (o.axis = 0)

/-- The key of the block byte of element `k` of a row. -/
def blockKey (o : Opd) (k : Nat) : Nat := if blockPerElem o then k else k / blockLen o.d

/-- The place of the block byte of row `y` under a key (R94): its block's, in the slice that is read. DESIGN CHOICE,
assumption 65: `y × bdstride` is added where dim1 is the open axis too, with y the slice for a command that is not installed and
0 for a firing; and a firing on oaxis 0, which stands at k = 0, reads its block byte at b = 0. -/
def blockPlace (o : Opd) (y key : Nat) : Place :=
  let b := if blockPerElem o then key / blockLen o.d else key
  let off := o.base + dBdoff o.d + y * dBdstride o.d + b
  let k := o.slice.getD (if o.axis = 0 then key else if o.axis = 1 then y else 0)
  match o.ot with
  | some pa => .slice pa k (if o.bad then -1 else off) 0 0
  | none => if o.axis < 3 then .lost else .va (off % 2 ^ 55).toNat 0 0

/-- The reads of the block bytes of an operand: one byte for each block of which an element is read (R95). DESIGN CHOICE,
assumption 65: where the slice of a block byte cannot be read, it is the low 8 bits of the descriptor's pad value. -/
def blockReads (s : State) (o : Opd) (opnd port rows kr : Nat) : List Item × List Got :=
  if dType o.d ≠ 5 then ([], [])
  else
    let n := if blockPerElem o then kr else ceilDiv kr (blockLen o.d)
    let l := (List.range rows).flatMap fun y => (List.range n).map fun b => (y, b)
    let bytes : Opd := { o with d := setField o.d 112 4 8 }
    let (reads, pads) := splitWants opnd (l.flatMap fun (y, b) =>
      wantRead s bytes (keyOf b y 0) (blockPlace o y b))
    (groupWants opnd port none false (sortWants reads), pads)

/-- A plan less the reads that have been made before the issue (R125). -/
def takeEarly (l : List Got) (p : List Item × List Got) : List Item × List Got :=
  if l.isEmpty then p
  else
    let made := fun (i : Item) (e : Elem) => l.any fun g => decide (g.opnd = i.opnd) && decide (g.key = e.key)
    ((p.1.map fun i => { i with elems := i.elems.filter fun e => !made i e }).filter fun i => !i.elems.isEmpty, p.2 ++ l)

/-- MMA's reads: A as operand 0 and B as operand 1, the block bytes as 2 and 3 (R123, R125). -/
def mmaPlan : Plan := fun s c x =>
  let a := operand s c x 0 false
  let b := operand s c x 1 false
  let (m, n, k, _) := mmaLengths a b
  let kr := mmaReadK a b k
  let rows := min m (ownDim a 1)
  let cols := min n (ownDim b 1)
  let ix := fun (r : Nat) => (List.range r).flatMap fun y => (List.range kr).map fun e => (e, y, 0)
  let p0 := planReads s a 0 1 (ix rows)
  let p1 := planReads s b 1 2 (ix cols)
  let p2 := blockReads s a 2 1 rows kr
  let p3 := blockReads s b 3 2 cols kr
  takeEarly x.cmd.early (p0.1 ++ p1.1 ++ p2.1 ++ p3.1, p0.2 ++ p1.2 ++ p2.2 ++ p3.2)

/-- An operand element as it enters a product: its value with the block adjustment, and its poison; for cb4 also its
code and the adjustment (R95). -/
structure Factor where
  val : FV := .fin false 0 0
  poison : Bool := false
  code : Nat := 0
  adj : Int := 0

/-- Element k of row y of an operand, with its block byte where the type is cb4. -/
def factor (g : EngRegs) (x : Active) (o : Opd) (opnd y k : Nat) : Factor :=
  let e := gotElem x opnd (keyOf k y 0)
  if dType o.d ≠ 5 then { val := decodeF (dType o.d) e.bits.toNat, poison := e.poison }
  else
    let blk := gotElem x (opnd + 2) (keyOf (blockKey o k) y 0)
    let code := e.bits.toNat % 16
    let t := getTb g ((dTbase o.d + field blk.bits 6 2) % 8) code
    { val := scaleF (sfield blk.bits 0 6) (decodeF 1 t.bits.toNat), poison := e.poison || blk.poison || t.poison,
      code := code, adj := sfield blk.bits 0 6 }

/-- The poison of a cb4 × cb4 factor: the table selector is not read (R96). -/
def codePoison (x : Active) (o : Opd) (opnd y k : Nat) : Bool :=
  (gotElem x opnd (keyOf k y 0)).poison || (gotElem x (opnd + 2) (keyOf (blockKey o k) y 0)).poison

/-- The exact product p(k) of element (i, j) (R96, R97). -/
def product (g : EngRegs) (x : Active) (a b : Opd) (i j k : Nat) : FV × Bool :=
  let fa := factor g x a 0 i k
  let fb := factor g x b 1 j k
  if dType a.d = 5 ∧ dType b.d = 5 then
    let p := getProd g fa.code fb.code
    (scaleF (fa.adj + fb.adj) (productVal p.bits), p.poison || codePoison x a 0 i k || codePoison x b 1 j k)
  else (mulF fa.val fb.val, fa.poison || fb.poison)

/-- A chain with its poison. -/
abbrev Chain := FV × Bool

/-- A chain steps by an exact value, with one rounding. -/
def stepChain (c : Chain) (p : FV × Bool) : Chain := (rne (addF false c.1 p.1), c.2 || p.2)

/-- `chain_pair` of R98. -/
def chainPair (c : Chain) (p q : Option (FV × Bool)) : Chain :=
  match p, q with
  | none, none => c
  | some p, none => stepChain c (rne p.1, p.2)
  | none, some q => stepChain c (rne q.1, q.2)
  | some p, some q => stepChain c (rne (addF false p.1 q.1), p.2 || q.2)

/-- `mma_element` of R98: `p k` is the product where element k is read. -/
def mmaElement (prior : Chain) (pairs : Bool) (kmax : Nat) (p : Nat → Option (FV × Bool)) : PV 32 :=
  let zero : Chain := (.fin false 0 0, false)
  let r :=
    if pairs then
      (List.range (ceilDiv kmax 4)).foldl (fun (eo : Chain × Chain) q =>
        (chainPair eo.1 (p (4 * q)) (p (4 * q + 2)), chainPair eo.2 (p (4 * q + 1)) (p (4 * q + 3)))) (prior, zero)
    else
      (List.range kmax).foldl (fun (eo : Chain × Chain) k =>
        match p k with
        | none => eo
        | some v => if k % 2 = 0 then (stepChain eo.1 v, eo.2) else (eo.1, stepChain eo.2 v)) (prior, zero)
  pv32 (addF false r.1.1 r.2.1) (r.1.2 || r.2.2)

/-- k values of a K-step (R121). -/
def kPerStep (a b : W512) : Nat :=
  if dType a = 5 ∧ dType b = 5 then 4 else if dType a ≤ 2 then 1 else 2

/-- MMA's operation (R131). -/
def mmaAct : Perform := fun s c x =>
  let e := actE x
  let a := operand s c x 0 false
  let b := operand s c x 1 false
  let (m, n, k, falls) := mmaLengths a b
  let kr := mmaReadK a b k
  let g := (getCore s c).eng
  let t := e.acc.toNat
  let zflag := e.mods.getLsbD 0
  let out := (List.range m).flatMap fun i => (List.range n).map fun j =>
    let prior := getAcc g t i j
    let start : Chain := if zflag then (.fin false 0 0, false) else (f32 prior.bits.toNat, prior.poison)
    let reads := decide (i < ownDim a 1) && decide (j < ownDim b 1)
    ((i, j), mmaElement start (decide (dType a.d = 5) && decide (dType b.d = 5)) k
      fun q => if reads ∧ q < kr then some (product g x a b i j q) else none)
  let s := (List.range falls).foldl (fun s _ => warnC s c wFallback) s
  (onCore s c fun k' => bump (putAccs k' t out) 11 (ceilDiv k (kPerStep a.d b.d)), x)

/-- MMA (R131). -/
def execMma (f : Frame) (o : OpE) (s : State) : Out := queued (.mma f o) f (twoPhase mmaPlan mmaAct) s

/-! ### MZERO, MTBL, MTBL.prod (R133 to R135) -/

/-- MZERO's operation. -/
def mzeroAct : Perform := fun s c x => (onCore s c fun k => clearTile k (actE x).acc.toNat, x)

/-- MZERO (R133). -/
def execMzero (f : Frame) (o : OpE) (s : State) : Out := queued (.mzero f o) f (twoPhase noPlan mzeroAct) s

/-- The elements (0..n−1, 0, 0) of an operand that its index rule lets be read. -/
def rowReads (o : Opd) (n : Nat) : List (Nat × Nat × Nat) := (List.range (min n (ownDim o 0))).map fun i => (i, 0, 0)

/-- MTBL's reads. -/
def mtblPlan : Plan := fun s c x =>
  let a := operand s c x 0 false
  planReads s a 0 2 (rowReads a 16)

/-- MTBL's operation: an entry not read is +0. -/
def mtblAct : Perform := fun s c x =>
  let a := operand s c x 0 false
  let t := (actE x).acc.toNat
  let l := (List.range 16).map fun e =>
    let v := gotElem x 0 (keyOf e 0 0)
    (16 * t + e, if inside a 0 e then ({ bits := v.bits.setWidth 16, poison := v.poison } : PV 16) else {})
  (onCore s c fun k => { k with eng := { k.eng with tb := SMap.setAll (fun _ => {}) k.eng.tb l } }, x)

/-- MTBL (R134). -/
def execMtbl (f : Frame) (o : OpE) (s : State) : Out := queued (.mtbl f o) f (twoPhase mtblPlan mtblAct) s

/-- MTBL.prod's operation: every entry is the exact product, with the sign a zero or infinity takes (R135). -/
def mtblProdAct : Perform := fun s c x =>
  let g := (getCore s c).eng
  let tx := (actE x).acc.toNat
  let ty := (actE x).mods.toNat % 8
  let l := (List.range 16).flatMap fun a => (List.range 16).map fun b =>
    let p := getTb g tx a
    let q := getTb g ty b
    (16 * a + b, ({ bits := productWord (mulF (decodeF 1 p.bits.toNat) (decodeF 1 q.bits.toNat)),
                    poison := p.poison || q.poison } : PV 64))
  (onCore s c fun k => { k with eng := { k.eng with prod := SMap.setAll (fun _ => {}) k.eng.prod l } }, x)

/-- MTBL.prod (R135). -/
def execMtblProd (f : Frame) (o : OpE) (s : State) : Out := queued (.mtblProd f o) f (twoPhase noPlan mtblProdAct) s

/-! ### The epilogue (R136 to R140) -/

/-- ovf, rnd, rs, cs, bias, act, clr and ncol of R136. -/
def epOvf (e : OpE) : Nat := field e.mods 18 2
/-- rnd. -/
def epRnd (e : OpE) : Nat := field e.mods 15 3
/-- rs. -/
def epRs (e : OpE) : Bool := e.mods.getLsbD 14
/-- cs. -/
def epCs (e : OpE) : Bool := e.mods.getLsbD 13
/-- bias. -/
def epBias (e : OpE) : Bool := e.mods.getLsbD 12
/-- act. -/
def epAct (e : OpE) : Bool := e.mods.getLsbD 11
/-- clr. -/
def epClr (e : OpE) : Bool := e.mods.getLsbD 10
/-- ncol: 0 means 64. -/
def epNcol (e : OpE) : Nat := if field e.mods 4 6 = 0 then 64 else field e.mods 4 6

/-- Rows and columns that the operation reads: of the output for EPI, rows of the output and ncol for EPIRED. -/
def epShape (red : Bool) (e : OpE) (o : Opd) : Nat × Nat :=
  if red then (min (ownDim o 0) 128, epNcol e) else (min (ownDim o 1) 128, min (ownDim o 0) 64)

/-- The reads of the parameter streams: row scales, column scales and biases that lie inside their streams (R136). -/
def epPlan (red : Bool) : Plan := fun s c x =>
  let e := actE x
  let (r, n) := epShape red e (operand s c x 0 true)
  let pr := operand s c x 1 false
  let pc := operand s c x 2 false
  let rows := if epRs e then ((List.range r).filter fun i => inside pr 0 i).map fun i => (i, 0, 0) else []
  let cols := if epCs e then ((List.range n).filter fun j => inside pc 0 j).map fun j => (j, 0, 0) else []
  let bias := if epBias e ∧ inside pc 1 1 then ((List.range n).filter fun j => inside pc 0 j).map fun j => (j, 1, 0) else []
  let p1 := planReads s pr 1 6 rows
  let p2 := planReads s pc 2 6 (cols ++ bias)
  (p1.1 ++ p2.1, p1.2 ++ p2.2)

/-- A parameter, or the value that stands for one not read. -/
def param (x : Active) (o : Opd) (opnd i j : Nat) (dflt : Int) : FV × Bool :=
  if inside o 0 i && inside o 1 j then
    let v := gotElem x opnd (keyOf i j 0)
    (f32 v.bits.toNat, v.poison)
  else (ofInt dflt, false)

/-- `act_tail` of R137. -/
def actTail (a b : PV 32) (v : FV) : FV × Bool :=
  if isZeroF (f32 a.bits.toNat) then (f32 b.bits.toNat, a.poison || b.poison)
  else (add32 (mul32 (f32 a.bits.toNat) v) (f32 b.bits.toNat), a.poison || b.poison)

/-- `act_eval` of R137 with the poison of the words it reads. -/
def actEval (g : EngRegs) (v : FV) : FV × Bool :=
  if isNan v then (.nan, false)
  else
    let w := getActWord g
    let u := mul32 (rne (addF false v (negF (f32 (w 0).bits.toNat)))) (f32 (w 1).bits.toNat)
    let p := (w 0).poison || (w 1).poison
    let zero : FV := .fin false 0 0
    if isNan u then (.nan, p)
    else if ltF u zero then
      let t := actTail (w 2) (w 3) v
      (t.1, t.2 || p)
    else if leF (ofInt 64) u then
      let t := actTail (w 4) (w 5) v
      (t.1, t.2 || p)
    else
      let j := (floorF u).toNat
      let xr := addF false u (negF (ofInt j))
      let cf := fun m => f32 (w (8 + 4 * j + m)).bits.toNat
      let y := add32 (mul32 (cf 3) xr) (cf 2)
      let y := add32 (mul32 y xr) (cf 1)
      let y := add32 (mul32 y xr) (cf 0)
      (y, p || (List.range 4).any fun m => (w (8 + 4 * j + m)).poison)

/-- The value of a tile element before conversion, by EPI's loop (R139). -/
def epValue (g : EngRegs) (x : Active) (e : OpE) (pr pc : Opd) (i j : Nat) : FV × Bool :=
  let a := getAcc g e.acc.toNat i j
  let v : FV × Bool := (f32 a.bits.toNat, a.poison)
  let v := if epRs e then (let p := param x pr 1 i 0 1; (mul32 v.1 p.1, v.2 || p.2)) else v
  let v := if epCs e then (let p := param x pc 2 j 0 1; (mul32 v.1 p.1, v.2 || p.2)) else v
  let v := if epBias e then (let p := param x pc 2 j 1 0; (add32 v.1 p.1, v.2 || p.2)) else v
  if epAct e then (let p := actEval g v.1; (p.1, v.2 || p.2)) else v

/-- The tile is cleared after it is read, under clr. -/
def epClear (s : State) (c : Nat) (e : OpE) : State :=
  if epClr e then onCore s c fun k => clearTile k e.acc.toNat else s

/-- EPI's operation: rows in ascending order and, within a row, ascending addresses. -/
def epiAct : Perform := fun s c x =>
  let e := actE x
  let o := operand s c x 0 true
  let pr := operand s c x 1 false
  let pc := operand s c x 2 false
  let (r, n) := epShape false e o
  let g := (getCore s c).eng
  let rows := (List.range r).map fun i => (List.range n).map fun j =>
    let v := epValue g x e pr pc i j
    ((j, i, 0), convertTo v.1 v.2 (dType o.d) (epRnd e) (epOvf e))
  let writes := rows.flatMap fun row =>
    planWrites o 0 6 true (row.map fun w => (w.1, BitVec.ofNat 64 w.2.bits, w.2.poison))
  (epClear s c e, countTraps { x with writes := writes } (rows.flatMap fun row => row.map fun w => w.2))

/-- EPI (R139). -/
def execEpi (f : Frame) (o : OpE) (s : State) : Out := queued (.epi f o) f (twoPhase (epPlan false) epiAct) s

/-- `epired_row` of R140. -/
def reduceRow (op : Nat) (v : List (FV × Bool)) : FV × Bool :=
  let poison := v.any fun e => e.2
  let zero : FV := .fin false 0 0
  if op = 0 ∨ op = 3 then
    let sums := (v.zip (List.range v.length)).foldl (fun (eo : FV × FV) (w, j) =>
      let t := if op = 3 then mulF w.1 w.1 else w.1
      if j % 2 = 0 then (rne (addF false eo.1 t), eo.2) else (eo.1, rne (addF false eo.2 t))) (zero, zero)
    (rne (addF false sums.1 sums.2), poison)
  else
    match v with
    | [] => (zero, poison)
    | h :: t => (t.foldl (fun m w => extF (decide (op = 1)) m w.1) h.1, poison)

/-- EPIRED's operation. -/
def epiredAct : Perform := fun s c x =>
  let e := actE x
  let o := operand s c x 0 true
  let pr := operand s c x 1 false
  let pc := operand s c x 2 false
  let (r, n) := epShape true e o
  let g := (getCore s c).eng
  let rows := (List.range r).map fun i =>
    let v := reduceRow e.fn.toNat ((List.range n).map fun j => epValue g x e pr pc i j)
    ((i, 0, 0), convertTo v.1 v.2 (dType o.d) (epRnd e) (epOvf e))
  let writes := planWrites o 0 6 true (rows.map fun w => (w.1, BitVec.ofNat 64 w.2.bits, w.2.poison))
  (epClear s c e, countTraps { x with writes := writes } (rows.map fun w => w.2))

/-- EPIRED (R140). -/
def execEpired (f : Frame) (o : OpE) (s : State) : Out := queued (.epired f o) f (twoPhase (epPlan true) epiredAct) s

/-- EPIFN's reads. -/
def epifnPlan : Plan := fun s c x =>
  let a := operand s c x 0 false
  planReads s a 0 6 (rowReads a 264)

/-- lo is finite, and sc is a positive finite number (R138). -/
def actUsable (lo sc : FV) : Bool :=
  match lo, sc with
  | .fin _ _ _, .fin false m _ => decide (m ≠ 0)
  | _, _ => false

/-- EPIFN's operation (R138). DESIGN CHOICE, assumption 66: a poisoned lo or sc is judged finite or positive by the bits that
it holds. -/
def epifnAct : Perform := fun s c x =>
  let a := operand s c x 0 false
  let word := fun n => if inside a 0 n then
      let v := gotElem x 0 (keyOf n 0 0)
      ({ bits := v.bits.setWidth 32, poison := v.poison } : PV 32)
    else actDefault n
  if actUsable (f32 (word 0).bits.toNat) (f32 (word 1).bits.toNat) then
    let table := SMap.setAll actDefault [] ((List.range 264).map fun n => (n, word n))
    (onCore s c fun k => { k with eng := { k.eng with act := table } }, x)
  else (warnC (onCore s c fun k => { k with eng := { k.eng with act := [] } }) c wFallback, x)

/-- EPIFN (R138). -/
def execEpifn (f : Frame) (o : OpE) (s : State) : Out := queued (.epifn f o) f (twoPhase epifnPlan epifnAct) s

end Sys2Proof.Machine
end

