-- ==== Sys2Proof/Machine/Vector.lean ====
section
/-! DEFINITION. The vector engine: issue positions and results in flight (R142 to R148), and every form of R152 to R168. -/

namespace Sys2Proof.Machine

open Sys2Proof

/-! ### Results in flight (R143 to R145) -/

/-- Lane `l` of register `r` as it stands. -/
def regLane (g : EngRegs) (r l : Nat) : PV 32 := SMap.get (fun _ => {}) g.v (64 * r + l)

/-- Mask register kN as it stands; k0 is all ones. -/
def regMask (g : EngRegs) (n : Nat) : W64 := if n = 0 then 0xFFFFFFFFFFFFFFFF else SMap.get (fun _ => 0) g.k n

/-- Every result due by position `p` lands, in issue order (R144). One whose command has still to retire is kept for the record
that a save makes of it (R359). -/
def landTo (p : Nat) (k : Core) : Core :=
  let due := fun r : VRec => !r.stuck && !r.stood && decide (r.due ≤ p)
  { k with eng := (k.flight.filter due).foldl landRec k.eng,
           flight := (k.flight.filter fun r => !(due r && r.landed)).map fun r => if due r then { r with stood := true } else r }

/-- The command takes `n` issue positions; its position is the last of them (R143). -/
def takePositions (s : State) (c n : Nat) (x : Active) : State × Active :=
  let k := getCore s c
  let p := k.vpos + n - 1
  (onCore s c fun k => bump (landTo p { k with vpos := k.vpos + n }) 10 n, { x with pos := p })

/-- Lanes of a register that a result in flight leaves undefined (R144, R145). -/
def pendingLanes (k : Core) (mask : Bool) (r : Nat) : W64 :=
  k.flight.foldl (fun m e => if e.stood = false ∧ e.mask = mask ∧ e.reg = r then m ||| e.lanes else m) 0

/-- A vector source as the engine reads it: an undefined lane is a fresh free value with a free mark (R5, R144). -/
def readReg (s : State) (c r : Nat) : State × List (PV 32) :=
  let k := getCore s c
  let u := pendingLanes k false r
  let vals := (List.range 64).map fun l =>
    if u.getLsbD l then
      ({ bits := (Config.freeValue (s.free + 2 * l)).setWidth 32,
         poison := (Config.freeValue (s.free + 2 * l + 1)).getLsbD 0 } : PV 32)
    else regLane k.eng r l
  (if u = 0 then s else { s with free := s.free + 128 }, vals)

/-- A mask source as the engine reads it. -/
def readMask (s : State) (c n : Nat) : State × W64 :=
  let k := getCore s c
  let u := if n = 0 then 0 else pendingLanes k true n
  let m := regMask k.eng n
  if u = 0 then (s, m)
  else ({ s with free := s.free + 1 }, (m &&& ~~~u) ||| (Config.freeValue s.free &&& u))

/-- What a new result does to one in flight whose lanes it also writes: the earlier loses them when the new one lands
no sooner; else they stay undefined until rewritten (R145). -/
def overlapRec (new : VRec) (r : VRec) : List VRec :=
  let both := r.lanes &&& new.lanes
  if r.stood = true ∨ r.mask ≠ new.mask ∨ r.reg ≠ new.reg ∨ both = 0 then [r]
  else
    let rest := { r with lanes := r.lanes &&& ~~~both }
    let kept := if rest.lanes = 0 then [] else [rest]
    if new.due < r.due then kept ++ [{ r with lanes := both, stuck := true, landed := false }] else kept

/-- The lanes of a new result that will land: not those that an earlier result in flight leaves undefined. -/
def landingLanes (k : Core) (new : VRec) : W64 :=
  k.flight.foldl (fun m r =>
    if r.stood = false ∧ r.mask = new.mask ∧ r.reg = new.reg ∧ new.due < r.due then m &&& ~~~r.lanes else m) new.lanes

/-- A result enters flight, or is discarded when its destination is k0 (R16). -/
def addRec (k : Core) (new : VRec) : Core :=
  if (new.mask ∧ new.reg = 0) ∨ new.lanes = 0 then k
  else
    let mine := landingLanes k new
    let rest := k.flight.flatMap (overlapRec new)
    { k with flight := rest ++ (if mine = 0 then [] else [{ new with lanes := mine }]) }

/-- A command at its position writes a vector register with a latency. -/
def writeReg (s : State) (c : Nat) (x : Active) (r lat : Nat) (lanes : W64) (vals : List (PV 32)) : State :=
  onCore s c fun k => addRec k { reg := r, lanes := lanes, due := x.pos + lat, vals := vals, id := x.id }

/-- A command at its position writes a mask register. -/
def writeMask (s : State) (c : Nat) (x : Active) (r lat : Nat) (lanes bits_ : W64) : State :=
  onCore s c fun k => addRec k { mask := true, reg := r, lanes := lanes, due := x.pos + lat, bits := bits_, id := x.id }

/-- Lanes of a register that an issued load or VSHORT will write, whose reads have not all returned (R193). -/
def loadingLanes (k : Core) (r : Nat) : W64 :=
  (getEng k 3).active.foldl (fun m x =>
    let o := actV x
    if x.ran || x.stage = 0 then m
    else
      match pick x.cmd.word with
      | some (.vld _ _) => if o.vd.toNat = r then allOnes64 else m
      | some (.vldg _ _) => if o.vd.toNat = r then m ||| BitVec.ofNat 64 x.lo else m
      | some (.vshort _ _) => if o.vd.toNat = r ∨ o.vb.toNat = r then allOnes64 else m
      | _ => m) 0
where
  /-- Every lane. -/
  allOnes64 : W64 := 0xFFFFFFFFFFFFFFFF

/-- A register as another engine sees it: a result whose command has retired stands in it; else its lanes are undefined
(R147, R193). -/
def readRetired (s : State) (c r : Nat) : State × List (PV 32) :=
  let k := getCore s c
  let loading := loadingLanes k r
  let val := fun l : Nat => if loading.getLsbD l then none else
    (k.flight.filter fun e => !e.stood && !e.mask && decide (e.reg = r) && e.lanes.getLsbD l).foldl
      (fun (_ : Option (PV 32)) e => if e.landed && !e.stuck then some (e.vals.getD l {}) else none)
      (some (regLane k.eng r l))
  let vals := (List.range 64).map fun l => (val l).getD
    { bits := (Config.freeValue (s.free + 2 * l)).setWidth 32,
      poison := (Config.freeValue (s.free + 2 * l + 1)).getLsbD 0 }
  (if (List.range 64).any (fun l => (val l).isNone) then { s with free := s.free + 128 } else s, vals)

/-! ### Elements (R142) -/

/-- Elements per lane. -/
def perLane (t : Nat) : Nat := 32 / tyBits t

/-- Element `j` of a lane. -/
def laneEl (t : Nat) (w : W32) (j : Nat) : Nat := w.toNat / 2 ^ (tyBits t * j) % 2 ^ tyBits t

/-- A lane from its elements. -/
def packLane (t : Nat) (l : List Nat) : W32 :=
  BitVec.ofNat 32 ((l.zip (List.range l.length)).map fun e => e.1 % 2 ^ tyBits t * 2 ^ (tyBits t * e.2)).sum

/-- Element `e` of a register. -/
def regEl (t : Nat) (v : List (PV 32)) (e : Nat) : Nat :=
  laneEl t (v.getD (e / perLane t) {}).bits (e % perLane t)

/-- Number of elements of a register. -/
def numEls (t : Nat) : Nat := 64 * perLane t

/-- Poison of the lane of an element. -/
def elPoison (t : Nat) (v : List (PV 32)) (e : Nat) : Bool := (v.getD (e / perLane t) {}).poison

/-- All 64 lanes. -/
abbrev allLanes : W64 := 0xFFFFFFFFFFFFFFFF

/-- The lane mask of imm12<11:9>. -/
def maskOf (o : OpV) : Nat := field o.imm 9 3

/-! ### Element operations -/

/-- What an element-wise operation does: from the instruction's fields and the bits of its sources, the result. -/
abbrev ElemOp := OpV → List Nat → Conv

/-- A rounded result as an element. -/
def ofRnd (r : Rnd) : Conv := { bits := r.bits, trap := r.trap, dz := r.dz }

/-- rnd of the instruction. -/
def vRnd (o : OpV) : Nat := o.rnd.toNat
/-- ovf. -/
def vPol (o : OpV) : Nat := o.ovf.toNat
/-- type. -/
def vTy (o : OpV) : Nat := o.type.toNat
/-- The first, second and third source element. -/
def src (l : List Nat) (i : Nat) : Nat := l.getD i 0

/-- An integer result: exact, placed by the policy, or wrapped (R153). -/
def placeInt (o : OpV) (i : Int) : Conv :=
  if o.fn = 1 then { bits := (i % 2 ^ tyBits (vTy o)).toNat } else ofRnd (roundTo (ofInt i) (vTy o) 0 (vPol o))

/-- A two-source arithmetic form: on exact values, or on exact integers (R152, R153). -/
def arith (ff : Bool → FV → FV → FV) (fi : Int → Int → Int) : ElemOp := fun o l =>
  let t := vTy o
  if isFloat t then
    ofRnd (roundTo (ff (decide (vRnd o = 3)) (decodeF t (src l 0)) (decodeF t (src l 1))) t (vRnd o) (vPol o))
  else placeInt o (fi (intOf t (src l 0)) (intOf t (src l 1)))

/-- VADD. -/
def elAdd : ElemOp := arith addF (fun x y => x + y)
/-- VSUB. -/
def elSub : ElemOp := arith (fun d x y => addF d x (negF y)) (fun x y => x - y)
/-- VMUL. -/
def elMul : ElemOp := arith (fun _ x y => mulF x y) (fun x y => x * y)

/-- VFMA, or VFMS with the third operand negated: one rounding (R152). -/
def elFma (neg : Bool) : ElemOp := fun o l =>
  let t := vTy o
  let z := decodeF t (src l 2)
  ofRnd (roundTo (addF (decide (vRnd o = 3)) (mulF (decodeF t (src l 0)) (decodeF t (src l 1))) (if neg then negF z else z))
    t (vRnd o) (vPol o))

/-- The bits of a value that its type holds exactly. -/
def exactBits (t : Nat) (v : FV) : Nat := (roundTo v t 0 0).bits

/-- VMIN or VMAX (R152, R153). -/
def elExt (isMax : Bool) : ElemOp := fun o l =>
  let t := vTy o
  if isFloat t then { bits := exactBits t (extF isMax (decodeF t (src l 0)) (decodeF t (src l 1))) }
  else
    let x := intOf t (src l 0)
    let y := intOf t (src l 1)
    { bits := (((if isMax then max x y else min x y) : Int) % 2 ^ tyBits t).toNat }

/-- VABS (R152, R153). -/
def elAbs : ElemOp := fun o l =>
  let t := vTy o
  if isFloat t then
    (if isNan (decodeF t (src l 0)) then { bits := nanOf t } else { bits := src l 0 % signBit t })
  else placeInt o (intOf t (src l 0)).natAbs

/-- VNEG. -/
def elNeg : ElemOp := fun o l =>
  let t := vTy o
  if isFloat t then
    (if isNan (decodeF t (src l 0)) then { bits := nanOf t }
     else { bits := if src l 0 / signBit t % 2 = 1 then src l 0 - signBit t else src l 0 + signBit t })
  else placeInt o (-(intOf t (src l 0)))

/-- An elementary function (R102 to R105). -/
def elFun (g : FV → Nat → Nat → Nat → Rnd) : ElemOp := fun o l =>
  ofRnd (g (decodeF (vTy o) (src l 0)) (vTy o) (vRnd o) (vPol o))

/-- VCVT from the source type of fn<3:0> (R91, R154). -/
def elCvt : ElemOp := fun o l =>
  ofRnd (roundTo (valOf (o.fn.toNat % 16) (src l 0)) (vTy o) (vRnd o) (vPol o))

/-- A bitwise form (R156). -/
def elBits (g : Nat → Nat → Nat → Nat) : ElemOp := fun _ l => { bits := g (src l 0) (src l 1) (src l 2) }

/-- Bits of x outside z, below 2^32. -/
def andNot (x z : Nat) : Nat := (BitVec.ofNat 32 x &&& ~~~(BitVec.ofNat 32 z)).toNat

/-- VSEL. -/
def elSel : ElemOp := elBits fun x y z => (x &&& z) ||| andNot y z

/-- The amount of a shift: the low log2(width) bits of an element, or of imm12<4:0> (R156). -/
def shiftBy (o : OpV) (l : List Nat) : Nat :=
  (if o.fn = 1 then o.imm.toNat % 32 else src l 1) % tyBits (vTy o)

/-- VSHL, VSHR or VSRA (R156). -/
def elShift (kind : Nat) : ElemOp := fun o l =>
  let w := tyBits (vTy o)
  let n := shiftBy o l
  let x := src l 0
  { bits := match kind with
    | 0 => x * 2 ^ n % 2 ^ w
    | 1 => x / 2 ^ n
    | _ => (((if 2 ^ (w - 1) ≤ x then (x : Int) - 2 ^ w else x) / (2 ^ n : Int)) % 2 ^ w).toNat }

/-- VMOV from a register or of imm12<8:0> sign-extended (R156). -/
def elMov : ElemOp := fun o l =>
  if o.fn = 1 then { bits := (sfield o.imm 0 9 % 2 ^ tyBits (vTy o)).toNat } else { bits := src l 0 }

/-! ### Latencies (R146) -/

/-- The latency of an arithmetic form by its type. -/
def latArith (o : OpV) : Nat := if isFloat (vTy o) then 4 else 2

/-! ### Register form of the lane-wise operations (R149, R150) -/

/-- Sources of a lane-wise form: how many of va, vb, vc it reads. -/
def readSources (s : State) (c : Nat) (o : OpV) (n : Nat) : State × List (List (PV 32)) :=
  let r0 := if 0 < n then readReg s c o.va.toNat else (s, [])
  let r1 := if 1 < n then readReg r0.1 c o.vb.toNat else (r0.1, [])
  let r2 := if 2 < n then readReg r1.1 c o.vc.toNat else (r1.1, [])
  (r2.1, [r0.2, r1.2, r2.2].take n)

/-- One lane of a lane-wise result: elements of type `t`, and the canonical value for a poisoned lane of a typed form
(R100). -/
def laneResult (op : ElemOp) (o : OpV) (t : Nat) (typed : Bool) (srcs : List (PV 32)) : PV 32 × List Conv :=
  let poison := srcs.any fun v => v.poison
  let es := (List.range (perLane t)).map fun j =>
    if poison && typed then ({ bits := poisonBits t, poison := true } : Conv)
    else op o (srcs.map fun v => laneEl t v.bits j)
  ({ bits := packLane t (es.map fun e => e.bits), poison := poison }, if poison then [] else es)

/-- A lane-wise form issues: positions, masks and sources are read, and the result enters flight. -/
def lanewise (op : ElemOp) (nsrc : Nat) (typed : Bool) (lat : OpV → Nat) : Perform := fun s c x =>
  let o := actV x
  let t := if typed then vTy o else 0
  let (s, x) := takePositions s c 1 x
  let (s, m) := readMask s c (maskOf o)
  let (s, srcs) := readSources s c o nsrc
  let lanes := (List.range 64).map fun i => laneResult op o t typed (srcs.map fun v => v.getD i {})
  let active := (List.range 64).filter fun i => m.getLsbD i
  (writeReg s c x o.vd.toNat (lat o) m (lanes.map fun l => l.1),
   countTraps x (active.flatMap fun i => (lanes.getD i ({}, [])).2))

/-! ### Stream form (R168) -/

/-- The sources of a stream form: places 1 to n of the capture. -/
def streamSources (s : State) (c : Nat) (x : Active) (n : Nat) : List Opd :=
  (List.range n).map fun i => operand s c x (i + 1) false

/-- The extents of the elements processed: an index beyond any descriptor's dimensions or bounds is not (R168). -/
def streamDims (l : List Opd) : List Nat := (List.range 3).map fun k => l.foldl (fun m o => min m (o.dim k)) 65536

/-- The index triples that a firing processes. -/
def streamIndices (s : State) (c : Nat) (x : Active) (n : Nat) : List (Nat × Nat × Nat) :=
  let d := streamDims (operand s c x 0 true :: streamSources s c x n)
  indices (d.getD 0 0) (d.getD 1 0) (d.getD 2 0)

/-- The reads of a stream form in ascending order of address. -/
def streamPlan (nsrc : Nat) : Plan := fun s c x =>
  let ix := streamIndices s c x nsrc
  let ps := (streamSources s c x nsrc).zip (List.range nsrc) |>.map fun (o, i) => planReads s o (i + 1) 5 ix
  (sortItems (ps.flatMap fun p => p.1), ps.flatMap fun p => p.2)

/-- One element of a stream form: a poisoned element of a form with a type takes its canonical value (R100). -/
def streamElem (op : ElemOp) (o : OpV) (typed : Bool) (x : Active) (n key : Nat) : Conv :=
  let vs := (List.range n).map fun i => gotElem x (i + 1) key
  let poison := vs.any fun v => v.poison
  if poison && typed then { bits := poisonBits (vTy o), poison := true }
  else { op o (vs.map fun v => v.bits.toNat) with poison := poison }

/-- A stream form's operation: its writes in ascending address order. -/
def streamAct (op : ElemOp) (nsrc : Nat) (typed : Bool) : Perform := fun s c x =>
  let o := actV x
  let d := operand s c x 0 true
  let out := (streamIndices s c x nsrc).map fun (i0, i1, i2) =>
    ((i0, i1, i2), streamElem op o typed x nsrc (keyOf i0 i1 i2))
  let writes := planWrites d 0 5 true (out.map fun e => (e.1, BitVec.ofNat 64 e.2.bits, e.2.poison))
  (s, countTraps { x with writes := writes } (out.map fun e => e.2))

/-- The positions of a stream-form firing (R143). -/
def streamStart (nsrc : Nat) (a i : Nat) (s : State) : State :=
  let c := s.cur
  let x := getAct (getCore s c) a i
  if x.stage = 0 then
    let n := (streamIndices s c x nsrc).length
    let r := takePositions s c (max 1 (ceilDiv n 64)) x
    putAct r.1 c a i r.2
  else s

/-- A command performed whole at its issue. -/
def onePhase (act : Perform) (a i : Nat) (s : State) : State :=
  let c := s.cur
  let x := getAct (getCore s c) a i
  if x.stage = 0 then
    let r := act s c x
    putAct r.1 c a i { r.2 with stage := 2, ran := true }
  else s

/-- A form with a register form and a stream form. -/
def vecForm (op : ElemOp) (nsrc : OpV → Nat) (typed : Bool) (lat : OpV → Nat) (o : OpV) (a i : Nat) (s : State) : State :=
  let x := getAct (getCore s s.cur) a i
  if x.rule.isSome then
    twoPhase (streamPlan (nsrc o)) (streamAct op (nsrc o) typed) a i (streamStart (nsrc o) a i s)
  else onePhase (lanewise op (nsrc o) typed lat) a i s

/-- VADD (R152). -/
def execVadd (f : Frame) (o : OpV) (s : State) : Out :=
  queued (.vadd f o) f (vecForm elAdd (fun _ => 2) true latArith o) s

/-- VSUB (R152). -/
def execVsub (f : Frame) (o : OpV) (s : State) : Out :=
  queued (.vsub f o) f (vecForm elSub (fun _ => 2) true latArith o) s

/-- VMUL (R152): latency 4 on every type. -/
def execVmul (f : Frame) (o : OpV) (s : State) : Out :=
  queued (.vmul f o) f (vecForm elMul (fun _ => 2) true (fun _ => 4) o) s

/-- VFMA (R152). -/
def execVfma (f : Frame) (o : OpV) (s : State) : Out :=
  queued (.vfma f o) f (vecForm (elFma false) (fun _ => 3) true (fun _ => 5) o) s

/-- VFMS (R152). -/
def execVfms (f : Frame) (o : OpV) (s : State) : Out :=
  queued (.vfms f o) f (vecForm (elFma true) (fun _ => 3) true (fun _ => 5) o) s

/-- VMIN (R152). -/
def execVmin (f : Frame) (o : OpV) (s : State) : Out :=
  queued (.vmin f o) f (vecForm (elExt false) (fun _ => 2) true latArith o) s

/-- VMAX (R152). -/
def execVmax (f : Frame) (o : OpV) (s : State) : Out :=
  queued (.vmax f o) f (vecForm (elExt true) (fun _ => 2) true latArith o) s

/-- VABS (R152). -/
def execVabs (f : Frame) (o : OpV) (s : State) : Out :=
  queued (.vabs f o) f (vecForm elAbs (fun _ => 1) true latArith o) s

/-- VNEG (R152). -/
def execVneg (f : Frame) (o : OpV) (s : State) : Out :=
  queued (.vneg f o) f (vecForm elNeg (fun _ => 1) true latArith o) s

/-- VRCP (R102). -/
def execVrcp (f : Frame) (o : OpV) (s : State) : Out :=
  queued (.vrcp f o) f (vecForm (elFun vrcp) (fun _ => 1) true (fun _ => 8) o) s

/-- VRSQRT (R102). -/
def execVrsqrt (f : Frame) (o : OpV) (s : State) : Out :=
  queued (.vrsqrt f o) f (vecForm (elFun vrsqrt) (fun _ => 1) true (fun _ => 8) o) s

/-- VSQRT (R102). -/
def execVsqrt (f : Frame) (o : OpV) (s : State) : Out :=
  queued (.vsqrt f o) f (vecForm (elFun vsqrt) (fun _ => 1) true (fun _ => 8) o) s

/-- VEXP2 (R103). -/
def execVexp2 (f : Frame) (o : OpV) (s : State) : Out :=
  queued (.vexp2 f o) f (vecForm (elFun vexp2) (fun _ => 1) true (fun _ => 8) o) s

/-- VLOG2 (R104). -/
def execVlog2 (f : Frame) (o : OpV) (s : State) : Out :=
  queued (.vlog2 f o) f (vecForm (elFun vlog2) (fun _ => 1) true (fun _ => 8) o) s

/-! ### VCVT in register form (R154) -/

/-- Source element of a destination element, where the instruction writes it. -/
def cvtSource (st dt p e : Nat) : Option Nat :=
  let a := perLane st
  let b := perLane dt
  let n := 64 * min a b
  if a ≤ b then (if p * n ≤ e ∧ e < (p + 1) * n then some (e - p * n) else none)
  else if e < n then some (p * n + e) else none

/-- VCVT's operation on registers: a lane is written where it is active and holds a converted element. -/
def cvtAct : Perform := fun s c x =>
  let o := actV x
  let dt := vTy o
  let st := o.fn.toNat % 16
  let p := o.fn.toNat / 16
  let (s, x) := takePositions s c 1 x
  let (s, m) := readMask s c (maskOf o)
  let (s, v) := readReg s c o.va.toNat
  let (s, old) := readReg s c o.vd.toNat
  let lanes := (List.range 64).map fun i =>
    let ss := (List.range (perLane dt)).map fun j => cvtSource st dt p (i * perLane dt + j)
    let some? := ss.any fun e => e.isSome
    let kept := ss.any fun e => e.isNone
    let poison := ss.any fun e => e.any fun q => elPoison st v q
    let es := (ss.zip (List.range ss.length)).map fun (e, j) => match e with
      | none => ({ bits := laneEl dt (old.getD i {}).bits j } : Conv)
      | some q => if poison then { bits := poisonBits dt, poison := true } else elCvt o [regEl st v q]
    let done := (ss.zip es).filterMap fun (e, r) => if e.isSome && !poison then some r else none
    (some?, ({ bits := packLane dt (es.map fun e => e.bits),
               poison := poison || (kept && (old.getD i {}).poison) } : PV 32), done)
  let hit := BitVec.ofNat 64 ((List.range 64).map fun i => if (lanes.getD i (false, {}, [])).1 then 2 ^ i else 0).sum
  let w := m &&& hit
  (writeReg s c x o.vd.toNat 4 w (lanes.map fun l => l.2.1),
   countTraps x (((List.range 64).filter fun i => w.getLsbD i).flatMap fun i => (lanes.getD i (false, {}, [])).2.2))

/-- VCVT (R154); in stream form part is not read (R168). -/
def execVcvt (f : Frame) (o : OpV) (s : State) : Out :=
  queued (.vcvt f o) f (fun a i s =>
    if (getAct (getCore s s.cur) a i).rule.isSome then
      twoPhase (streamPlan 1) (streamAct elCvt 1 true) a i (streamStart 1 a i s)
    else onePhase cvtAct a i s) s

/-! ### Compare, select, logic, shifts, moves (R155, R156) -/

/-- A condition of VCMP on two elements. -/
def cmpHolds (t cond x y : Nat) : Bool :=
  let a := valOf t x
  let b := valOf t y
  match cond with
  | 0 => eqF a b
  | 1 => !eqF a b
  | 2 => ltF a b
  | 3 => leF a b
  | 4 => ltF b a
  | _ => leF b a

/-- VCMP's operation: a poisoned lane writes 0 (R155). -/
def cmpAct : Perform := fun s c x =>
  let o := actV x
  let t := vTy o
  let sub := o.fn.toNat / 8 % 4
  let (s, x) := takePositions s c 1 x
  let (s, m) := readMask s c (maskOf o)
  let (s, a) := readReg s c o.va.toNat
  let (s, b) := readReg s c o.vb.toNat
  let set := (List.range 64).map fun i =>
    let e := i * perLane t + sub
    if !elPoison t a e && !elPoison t b e && cmpHolds t (o.fn.toNat % 8) (regEl t a e) (regEl t b e) then 2 ^ i else 0
  (writeMask s c x (o.vd.toNat % 8) 2 m (BitVec.ofNat 64 set.sum), x)

/-- VCMP (R155). -/
def execVcmp (f : Frame) (o : OpV) (s : State) : Out := queued (.vcmp f o) f (onePhase cmpAct) s

/-- VSEL (R156). -/
def execVsel (f : Frame) (o : OpV) (s : State) : Out :=
  queued (.vsel f o) f (vecForm elSel (fun _ => 3) false (fun _ => 2) o) s

/-- VAND (R156). -/
def execVand (f : Frame) (o : OpV) (s : State) : Out :=
  queued (.vand f o) f (vecForm (elBits fun x y _ => x &&& y) (fun _ => 2) false (fun _ => 2) o) s

/-- VOR (R156). -/
def execVor (f : Frame) (o : OpV) (s : State) : Out :=
  queued (.vor f o) f (vecForm (elBits fun x y _ => x ||| y) (fun _ => 2) false (fun _ => 2) o) s

/-- VXOR (R156). -/
def execVxor (f : Frame) (o : OpV) (s : State) : Out :=
  queued (.vxor f o) f (vecForm (elBits fun x y _ => x ^^^ y) (fun _ => 2) false (fun _ => 2) o) s

/-- Sources of a shift: the amount is an immediate under fn 1. -/
def shiftSources (o : OpV) : Nat := if o.fn = 1 then 1 else 2

/-- VSHL (R156). -/
def execVshl (f : Frame) (o : OpV) (s : State) : Out :=
  queued (.vshl f o) f (vecForm (elShift 0) shiftSources true (fun _ => 2) o) s

/-- VSHR (R156). -/
def execVshr (f : Frame) (o : OpV) (s : State) : Out :=
  queued (.vshr f o) f (vecForm (elShift 1) shiftSources true (fun _ => 2) o) s

/-- VSRA (R156). -/
def execVsra (f : Frame) (o : OpV) (s : State) : Out :=
  queued (.vsra f o) f (vecForm (elShift 2) shiftSources true (fun _ => 2) o) s

/-- VMOV (R156). -/
def execVmov (f : Frame) (o : OpV) (s : State) : Out :=
  queued (.vmov f o) f (vecForm elMov (fun o => if o.fn = 1 then 0 else 1) true (fun _ => 2) o) s

/-! ### Reductions and scans (R158, R159) -/

/-- Elements of active lanes as exact values, absent where the lane is inactive. -/
def activeEls (t : Nat) (m : W64) (v : List (PV 32)) : List (Option FV) :=
  (List.range (numEls t)).map fun e => if m.getLsbD (e / perLane t) then some (valOf t (regEl t v e)) else none

/-- Some active lane is poisoned. -/
def anyPoison (m : W64) (v : List (PV 32)) : Bool :=
  (List.range 64).any fun i => m.getLsbD i && (v.getD i {}).poison

/-- `tree_add` of R159. -/
def treeAdd (exact : Bool) (a b : Option FV) : Option FV :=
  match a, b with
  | none, b => b
  | a, none => a
  | some x, some y => some (if exact then addF false x y else add32 x y)

/-- Adjacent pairs joined. -/
def pairUp (exact : Bool) : List (Option FV) → List (Option FV)
  | a :: b :: t => treeAdd exact a b :: pairUp exact t
  | l => l

/-- The tree over a power of two of leaves: `n` halvings. -/
def tree (exact : Bool) : Nat → List (Option FV) → Option FV
  | 0, l => (l.head?).join
  | n + 1, l => tree exact n (pairUp exact l)

/-- The identity of a reduction over no element (R159). -/
def identityOf (t op : Nat) : Nat :=
  let w := tyBits t
  match op with
  | 0 => 0
  | 1 => if isFloat t then infSigned t true else if isSigned t then 2 ^ (w - 1) else 0
  | 2 => if isFloat t then infSigned t false else if isSigned t then 2 ^ (w - 1) - 1 else 2 ^ w - 1
  | 3 => 2 ^ w - 1
  | _ => 0

/-- Greatest or least of exact values, by the NaN and zero rules of R152. -/
def extAll (isMax : Bool) : List FV → Option FV
  | [] => none
  | h :: t => some (t.foldl (extF isMax) h)

/-- A reduction other than a sum over the bits of the active elements. -/
def reduceBits (t op : Nat) (l : List Nat) : Nat :=
  match op with
  | 1 => match extAll true (l.map (valOf t)) with
    | some v => exactBits t v
    | none => identityOf t op
  | 2 => match extAll false (l.map (valOf t)) with
    | some v => exactBits t v
    | none => identityOf t op
  | 3 => l.foldl (fun a b => a &&& b) (2 ^ tyBits t - 1)
  | 4 => l.foldl (fun a b => a ||| b) 0
  | _ => l.foldl (fun a b => a ^^^ b) 0

/-- Bits of the active elements. -/
def activeBits (t : Nat) (m : W64) (v : List (PV 32)) : List Nat :=
  ((List.range (numEls t)).filter fun e => m.getLsbD (e / perLane t)).map fun e => regEl t v e

/-- VRED's result. -/
def vredResult (o : OpV) (m : W64) (v : List (PV 32)) : Conv :=
  let t := vTy o
  if anyPoison m v then { bits := poisonBits t, poison := true }
  else if o.fn = 0 then
    let r := tree (!isFloat t) (Nat.log2 (numEls t)) (activeEls t m v)
    ofRnd (roundTo (r.getD (.fin false 0 0)) t (vRnd o) (vPol o))
  else { bits := reduceBits t o.fn.toNat (activeBits t m v) }

/-- A register whose every element is one value. -/
def splat (t : Nat) (r : Conv) : List (PV 32) :=
  List.replicate 64 { bits := packLane t (List.replicate (perLane t) r.bits), poison := r.poison }

/-- VRED's operation: every element of vd is written, whatever the mask. -/
def vredAct : Perform := fun s c x =>
  let o := actV x
  let (s, x) := takePositions s c 1 x
  let (s, m) := readMask s c (maskOf o)
  let (s, v) := readReg s c o.va.toNat
  let r := vredResult o m v
  (writeReg s c x o.vd.toNat 12 allLanes (splat (vTy o) r), countTraps x [r])

/-- VRED (R159). -/
def execVred (f : Frame) (o : OpV) (s : State) : Out := queued (.vred f o) f (onePhase vredAct) s

/-- The running results of VSCAN, element by element, with the poison of the lanes read so far. -/
def scanGo (o : OpV) (t : Nat) (m : W64) (v : List (PV 32)) : List Nat → FV → Option FV → Bool → List Conv
  | [], _, _, _ => []
  | e :: es, sum, best, poison =>
    let on := m.getLsbD (e / perLane t)
    let xv := valOf t (regEl t v e)
    let poison := poison || (on && elPoison t v e)
    let sum := if on then (if isFloat t then add32 sum xv else addF false sum xv) else sum
    let best := if on then some (match best with
      | none => xv
      | some b => extF (decide (o.fn = 1)) b xv) else best
    let r : Conv :=
      if poison then { bits := poisonBits t, poison := true }
      else if o.fn = 0 then ofRnd (roundTo sum t (vRnd o) (vPol o))
      else { bits := match best with
        | some b => exactBits t b
        | none => identityOf t o.fn.toNat }
    r :: scanGo o t m v es sum best poison

/-- A register from its elements: a lane is poisoned if one of its elements is. -/
def packReg (t : Nat) (l : List Conv) : List (PV 32) :=
  (List.range 64).map fun i =>
    let es := (l.drop (i * perLane t)).take (perLane t)
    let poison := es.any fun e => e.poison
    { bits := packLane t (es.map fun e => if poison then poisonBits t else e.bits), poison := poison }

/-- VSCAN's operation. -/
def vscanAct : Perform := fun s c x =>
  let o := actV x
  let t := vTy o
  let (s, x) := takePositions s c 1 x
  let (s, m) := readMask s c (maskOf o)
  let (s, v) := readReg s c o.va.toNat
  let r := scanGo o t m v (List.range (numEls t)) (.fin false 0 0) none false
  (writeReg s c x o.vd.toNat 12 allLanes (packReg t r), countTraps x r)

/-- VSCAN (R159). -/
def execVscan (f : Frame) (o : OpV) (s : State) : Out := queued (.vscan f o) f (onePhase vscanAct) s

/-! ### Moves between lanes (R160), VIOTA, masks (R156, R157) -/

/-- VPERM's operation: a lane is poisoned by its index lane or by the lane it names. -/
def vpermAct : Perform := fun s c x =>
  let o := actV x
  let (s, x) := takePositions s c 1 x
  let (s, m) := readMask s c (maskOf o)
  let (s, a) := readReg s c o.va.toNat
  let (s, b) := readReg s c o.vb.toNat
  let out := (List.range 64).map fun i =>
    let ix := b.getD i {}
    let v := a.getD (ix.bits.toNat % 64) {}
    ({ bits := v.bits, poison := v.poison || ix.poison } : PV 32)
  (writeReg s c x o.vd.toNat 6 m out, x)

/-- VPERM (R160). -/
def execVperm (f : Frame) (o : OpV) (s : State) : Out := queued (.vperm f o) f (onePhase vpermAct) s

/-- The element that imm12<7:0> names, taken modulo the count with W_FALLBACK. -/
def elemIndex (s : State) (c : Nat) (o : OpV) : State × Nat :=
  let e := o.imm.toNat % 256
  let n := numEls (vTy o)
  (if n ≤ e then warnC s c wFallback else s, e % n)

/-- VBCAST's operation. -/
def vbcastAct : Perform := fun s c x =>
  let o := actV x
  let t := vTy o
  let (s, x) := takePositions s c 1 x
  let (s, e) := elemIndex s c o
  let (s, m) := readMask s c (maskOf o)
  let (s, a) := readReg s c o.va.toNat
  let p := elPoison t a e
  (writeReg s c x o.vd.toNat 6 m (splat t { bits := if p then poisonBits t else regEl t a e, poison := p }), x)

/-- VBCAST (R160). -/
def execVbcast (f : Frame) (o : OpV) (s : State) : Out := queued (.vbcast f o) f (onePhase vbcastAct) s

/-- VIOTA's operation. -/
def viotaAct : Perform := fun s c x =>
  let o := actV x
  let t := vTy o
  let (s, x) := takePositions s c 1 x
  let (s, m) := readMask s c (maskOf o)
  let out := (List.range 64).map fun i =>
    ({ bits := packLane t ((List.range (perLane t)).map fun j => i * perLane t + j) } : PV 32)
  (writeReg s c x o.vd.toNat 2 m out, x)

/-- VIOTA (R156). -/
def execViota (f : Frame) (o : OpV) (s : State) : Out := queued (.viota f o) f (onePhase viotaAct) s

/-- VINS's operation: one lane is written, its other elements unchanged. DESIGN CHOICE, assumption 78: a lane that was poisoned
and of which only a part is written keeps its poison, with the bits of its elements as they then stand (R100). -/
def vinsAct : Perform := fun s c x =>
  let o := actV x
  let t := vTy o
  let (s, x) := takePositions s c 1 x
  let (s, e) := elemIndex s c o
  let (s, a) := readReg s c o.va.toNat
  let (s, d) := readReg s c o.vd.toNat
  let lane := e / perLane t
  let old := d.getD lane {}
  let p := elPoison t a 0
  let es := (List.range (perLane t)).map fun j =>
    if j = e % perLane t then (if p then poisonBits t else regEl t a 0) else laneEl t old.bits j
  let new : PV 32 := { bits := packLane t es, poison := p || (decide (1 < perLane t) && old.poison) }
  (writeReg s c x o.vd.toNat 6 ((1 : W64) <<< lane) (List.replicate 64 new), x)

/-- VINS (R160). -/
def execVins (f : Frame) (o : OpV) (s : State) : Out := queued (.vins f o) f (onePhase vinsAct) s

/-- VEXT's operation: the RQ entry is due at its retirement; a poisoned one holds the poisoned value of its type (R100). -/
def vextAct : Perform := fun s c x =>
  let o := actV x
  let t := vTy o
  let (s, x) := takePositions s c 1 x
  let (s, e) := elemIndex s c o
  let (s, a) := readReg s c o.va.toNat
  let el := if elPoison t a e then poisonBits t else regEl t a e
  let v : W64 := if isSigned t then BitVec.ofInt 64 (intOf t el) else BitVec.ofNat 64 el
  (s, { x with rq := [{ bits := v, poison := elPoison t a e }] })

/-- VEXT (R160). -/
def execVext (f : Frame) (o : OpV) (s : State) : Out := queued (.vext f o) f (onePhase vextAct) s

/-- KOP's operation (R157). -/
def kopAct : Perform := fun s c x =>
  let o := actV x
  let (s, x) := takePositions s c 1 x
  let (s, a) := readMask s c (o.va.toNat % 8)
  let (s, b) := if o.fn = 4 then (s, (0 : W64)) else readMask s c (o.vb.toNat % 8)
  let r := match o.fn.toNat with
    | 0 => a &&& b
    | 1 => a ||| b
    | 2 => a ^^^ b
    | 3 => a &&& ~~~b
    | _ => ~~~a
  (writeMask s c x (o.vd.toNat % 8) 2 allLanes r, x)

/-- KOP (R157). -/
def execKop (f : Frame) (o : OpV) (s : State) : Out := queued (.kop f o) f (onePhase kopAct) s

/-- KPOPC's operation. -/
def kpopcAct : Perform := fun s c x =>
  let o := actV x
  let (s, x) := takePositions s c 1 x
  let (s, a) := readMask s c (o.va.toNat % 8)
  (s, { x with rq := [{ bits := BitVec.ofNat 64 (popCount 64 a) }] })

/-- KPOPC (R157). -/
def execKpopc (f : Frame) (o : OpV) (s : State) : Out := queued (.kpopc f o) f (onePhase kpopcAct) s

/-! ### The stash forms (R161, R162, R238) -/

/-- A fault taken at issue: the command performs nothing and no later VXQ command issues before the trap (R169). -/
def issueFault (s : State) (c : Nat) (x : Active) (t : PTrap) : State × Active :=
  (pendC s c { t with port := some 5 }, { x with stage := 2, ran := true })

/-- An offset that a lane gives: POISON_CONSUMED for a poisoned lane, ACCESS_FAULT for one that is not aligned (R101,
R161, R162, R169). -/
def offsetFault (l : PV 32) (off align : Nat) : Option PTrap :=
  if l.poison then some { cause := 0x10, einfo := BitVec.ofNat 64 off }
  else if off % align ≠ 0 then some { cause := cAccess, einfo := BitVec.ofNat 64 off }
  else none

/-- Four bytes of the stash for a lane. -/
def laneWant (lane off : Nat) (v : PV 32) : Want :=
  { space := .stash,
    elem := { key := lane, addr := off % 2 ^ 22, size := 4, val := v.bits.setWidth 64, poison := v.poison } }

/-- The events of the 256 bytes of VLD or VST: one per granule, in ascending order, wrapping (R238). -/
def rowItems (off : Nat) (v : List (PV 32)) (write : Bool) : List Item :=
  groupWants 0 5 none write ((List.range 64).map fun i => laneWant i (off + 4 * i) (v.getD i {}))

/-- One event per active lane. -/
def laneItems (m : W64) (offs : List (PV 32)) (v : List (PV 32)) (write : Bool) : List Item :=
  ((List.range 64).filter fun i => m.getLsbD i).flatMap fun i =>
    groupWants 0 5 none write [laneWant i (offs.getD i {}).bits.toNat (v.getD i {})]

/-- A loaded register. -/
def loadedReg (x : Active) : List (PV 32) :=
  (List.range 64).map fun i =>
    let v := gotElem x 0 i
    { bits := v.bits.setWidth 32, poison := v.poison }

/-- The offset of VLD and VST. -/
def rowOffset (o : OpV) (l : PV 32) : Nat := (l.bits.toNat + 64 * o.imm.toNat) % 2 ^ 22

/-- VLD: its reads at issue, its result when they are made. -/
def vldRun (a i : Nat) (s : State) : State :=
  let c := s.cur
  let x := getAct (getCore s c) a i
  let o := actV x
  if x.stage = 0 then
    let (s, x) := takePositions s c 1 x
    let (s, va) := readReg s c o.va.toNat
    let off := rowOffset o (va.getD 0 {})
    match offsetFault (va.getD 0 {}) off 4 with
    | some t =>
      let r := issueFault s c x t
      putAct r.1 c a i r.2
    | none => putAct s c a i { x with stage := 1, reads := rowItems off [] false }
  else if x.stage = 1 ∧ x.reads = [] ∧ x.farOut = 0 then
    putAct (writeReg s c x o.vd.toNat 16 allLanes (loadedReg x)) c a i { x with stage := 2, ran := true }
  else s

/-- VLD (R161). -/
def execVld (f : Frame) (o : OpV) (s : State) : Out := queued (.vld f o) f vldRun s

/-- VST: its data are read as it issues. -/
def vstAct : Perform := fun s c x =>
  let o := actV x
  let (s, x) := takePositions s c 1 x
  let (s, va) := readReg s c o.va.toNat
  let (s, vb) := readReg s c o.vb.toNat
  let off := rowOffset o (va.getD 0 {})
  match offsetFault (va.getD 0 {}) off 4 with
  | some t => issueFault s c x t
  | none => (s, { x with writes := rowItems off vb true })

/-- VST (R161). -/
def execVst (f : Frame) (o : OpV) (s : State) : Out := queued (.vst f o) f (onePhase vstAct) s

/-- The first fault of the active lanes' offsets, a poisoned lane before a misaligned one. -/
def lanesFault (m : W64) (v : List (PV 32)) : Option PTrap :=
  let act := (List.range 64).filter fun i => m.getLsbD i
  let off := fun i : Nat => (v.getD i {}).bits.toNat % 2 ^ 22
  match act.find? fun i => (v.getD i {}).poison with
  | some i => offsetFault (v.getD i {}) (off i) 4
  | none =>
    match act.find? fun i => decide (off i % 4 ≠ 0) with
    | some i => offsetFault (v.getD i {}) (off i) 4
    | none => none

/-- VLDG: its gather at issue, its result when every lane is read. -/
def vldgRun (a i : Nat) (s : State) : State :=
  let c := s.cur
  let x := getAct (getCore s c) a i
  let o := actV x
  if x.stage = 0 then
    let (s, x) := takePositions s c 1 x
    let (s, m) := readMask s c (maskOf o)
    let (s, va) := readReg s c o.va.toNat
    match lanesFault m va with
    | some t =>
      let r := issueFault s c x t
      putAct r.1 c a i r.2
    | none => putAct s c a i { x with stage := 1, lo := m.toNat, reads := laneItems m va [] false }
  else if x.stage = 1 ∧ x.reads = [] ∧ x.farOut = 0 then
    putAct (writeReg s c x o.vd.toNat 16 (BitVec.ofNat 64 x.lo) (loadedReg x)) c a i { x with stage := 2, ran := true }
  else s

/-- VLDG (R162). -/
def execVldg (f : Frame) (o : OpV) (s : State) : Out := queued (.vldg f o) f vldgRun s

/-- VSTS: one write per active lane, in ascending order, so that the higher lane's value stands. -/
def vstsAct : Perform := fun s c x =>
  let o := actV x
  let (s, x) := takePositions s c 1 x
  let (s, m) := readMask s c (maskOf o)
  let (s, va) := readReg s c o.va.toNat
  let (s, vb) := readReg s c o.vb.toNat
  match lanesFault m va with
  | some t => issueFault s c x t
  | none => (s, { x with writes := laneItems m va vb true })

/-- VSTS (R162). -/
def execVsts (f : Frame) (o : OpV) (s : State) : Out := queued (.vsts f o) f (onePhase vstsAct) s

/-! ### VTOPK, VSHORT, VRAND, VNOP (R163 to R167) -/

/-- `a` ranks before `b`: a greater value, or an equal one with the lower index; NaNs last (R163). -/
def ranksBefore (a b : Nat × FV) : Bool :=
  if isNan a.2 then isNan b.2 && decide (a.1 < b.1)
  else if isNan b.2 then true
  else if eqF a.2 b.2 then decide (a.1 < b.1) else ltF b.2 a.2

/-- Insertion into a ranked list. -/
def insertRank (a : Nat × FV) : List (Nat × FV) → List (Nat × FV)
  | [] => [a]
  | b :: t => if ranksBefore a b then a :: b :: t else b :: insertRank a t

/-- The best `k`, ranked: at most `k` are kept as each is inserted. -/
def rankAll (k : Nat) (l : List (Nat × FV)) : List (Nat × FV) :=
  l.foldl (fun acc e => (insertRank e acc).take k) []

/-- The two registers of a ranking: indices with all ones beyond, values with 0 beyond (R163, R164). -/
def rankRegs (t : Nat) (l : List (Nat × FV)) (poison : Bool) : List (PV 32) × List (PV 32) :=
  let get := fun j : Nat => l[j]?
  ((List.range 64).map fun j =>
     { bits := if poison then 0xFFFFFFFF else match get j with
         | some e => BitVec.ofNat 32 e.1
         | none => 0xFFFFFFFF
       poison := poison },
   (List.range 64).map fun j =>
     { bits := if poison then BitVec.ofNat 32 (poisonBits t) else match get j with
         | some e => BitVec.ofNat 32 (exactBits t e.2)
         | none => 0
       poison := poison })

/-- VTOPK's operation (R163). -/
def vtopkAct : Perform := fun s c x =>
  let o := actV x
  let t := vTy o
  let k := o.imm.toNat % 128
  let (s, x) := takePositions s c 1 x
  let (s, m) := readMask s c (maskOf o)
  let (s, va) := readReg s c o.va.toNat
  let same := decide (o.vd = o.vb)
  let s := if 64 < k then warnC s c wFallback else s
  let s := if same then warnC s c wFallback else s
  let l := ((List.range 64).filter fun i => m.getLsbD i).map fun i => (i, valOf t (va.getD i {}).bits.toNat)
  let r := rankRegs t (rankAll (if k = 0 ∨ 64 < k then 64 else k) l) (anyPoison m va)
  let s := if same then s else writeReg s c x o.vd.toNat 24 allLanes r.1
  (writeReg s c x o.vb.toNat 24 allLanes r.2, x)

/-- VTOPK (R163). -/
def execVtopk (f : Frame) (o : OpV) (s : State) : Out := queued (.vtopk f o) f (onePhase vtopkAct) s

/-- V as VSHORT takes it (R164). -/
def shortLen (v : Nat) : Nat := if v = 0 then 1 else min v 1048576

/-- The events of a VSHORT row: its bytes as 4-byte parts grouped by granule, in ascending order. -/
def shortItems (t off n : Nat) : List Item :=
  let sz := tySize t
  groupWants 0 5 none false ((List.range n).map fun i =>
    { space := .stash, elem := { key := i, addr := off + sz * i, size := sz } })

/-- The mass of R165 and its slow bit, from the row and its ranking. -/
def shortMass (row : List FV) (rank : List (Nat × FV)) (limit : W32) : Nat × Bool :=
  let m := match rank with
    | [] => .fin false 0 0
    | e :: _ => e.2
  let tOf := fun v : FV => f32 (vexp2 (rne (addF false v (negF m))) 0 0 0).bits
  let chain := fun q : Nat =>
    ((row.zip (List.range row.length)).filter fun e => decide (e.2 % 64 = q)).foldl
      (fun acc e => add32 acc (tOf e.1)) (FV.fin false 0 0)
  let total := tree false 6 ((List.range 64).map fun q => some (chain q))
  let top := tree false 6 ((List.range 64).map fun j => (rank[j]?).map fun e => tOf e.2)
  let zero : FV := .fin false 0 0
  let mass := (roundTo (divF (top.getD zero) (total.getD zero)) 0 0 0).bits
  (mass, isNan (f32 mass) || ltF (f32 mass) (f32 limit.toNat))

/-- VSHORT: its positions and row at issue, its shortlist when the row is read (R164, R165). A poisoned mass is the canonical
NaN, and so its row is slow (R100). DESIGN CHOICE, assumption 68: with vd and vb the same register the values of vb stand, and
no warning is set. -/
def vshortRun (a i : Nat) (s : State) : State :=
  let c := s.cur
  let x := getAct (getCore s c) a i
  let o := actV x
  let t := vTy o
  if x.stage = 0 then
    let s := onCore s c fun k => landTo (k.vpos + 8) k
    let v0 := (readReg s c o.va.toNat).2
    let n := shortLen (v0.getD 1 {}).bits.toNat
    let (s, x) := takePositions s c (ceilDiv (n * tySize t) 256 + 8) x
    let (s, va) := readReg s c o.va.toNat
    let l0 := va.getD 0 {}
    let l1 := va.getD 1 {}
    let off := l0.bits.toNat % 2 ^ 22
    let v := shortLen l1.bits.toNat
    let bad := if l0.poison || l1.poison then some { cause := (0x10 : BitVec 8), einfo := BitVec.ofNat 64 off }
      else if off % tySize t ≠ 0 ∨ 2 ^ 22 < off + v * tySize t then some { cause := cAccess, einfo := BitVec.ofNat 64 off }
      else (none : Option PTrap)
    match bad with
    | some p =>
      let r := issueFault s c x p
      putAct r.1 c a i r.2
    | none =>
      let s := if v ≠ l1.bits.toNat then warnC s c wFallback else s
      putAct s c a i { x with stage := 1, lo := v, reads := shortItems t off v }
  else if x.stage = 1 ∧ x.reads = [] ∧ x.farOut = 0 then
    let els := (List.range x.lo).map fun e => gotElem x 0 e
    let poison := els.any fun e => e.poison
    let row := els.map fun e => decodeF t e.bits.toNat
    let rank := rankAll 64 ((List.range row.length).zip row)
    let r := rankRegs 0 rank poison
    let ms := if poison then (nanOf 0, true) else shortMass row rank x.cmd.shortmass
    let reply := BitVec.ofNat 64 (ms.1 + if ms.2 then 2 ^ 32 else 0)
    let s := if ms.2 then warnC s c wSlowrow else s
    let s := writeReg s c x o.vd.toNat 24 allLanes r.1
    putAct (writeReg s c x o.vb.toNat 24 allLanes r.2) c a i
      { x with stage := 2, ran := true, rq := [{ bits := reply, poison := poison }] }
  else s

/-- VSHORT (R164). -/
def execVshort (f : Frame) (o : OpV) (s : State) : Out := queued (.vshort f o) f vshortRun s

/-- `vrand_lane` of R166. -/
def vrandLane (key ctr : W64) (i : Nat) : W64 :=
  let x := (ctr * 64 + BitVec.ofNat 64 i) ^^^ key
  let x := (x ^^^ (x >>> 31)) * 0x8F3A6C15D2E74B19
  let x := (x ^^^ (x >>> 29)) * 0xB5D10E973C4AF263
  let x := (x ^^^ (x >>> 32)) * 0xE47C29816AF305DB
  x ^^^ (x >>> 30)

/-- VRAND's operation. -/
def vrandAct : Perform := fun s c x =>
  let o := actV x
  let t := vTy o
  let (s, x) := takePositions s c 1 x
  let (s, m) := readMask s c (maskOf o)
  let (s, a) := readReg s c o.va.toNat
  let (s, b) := readReg s c o.vb.toNat
  let word := fun v : List (PV 32) => ((v.getD 1 {}).bits ++ (v.getD 0 {}).bits : BitVec 64)
  let p := [a.getD 0 {}, a.getD 1 {}, b.getD 0 {}, b.getD 1 {}].any fun l => l.poison
  let out := (List.range 64).map fun i =>
    let y := vrandLane (word a) (word b) i
    let v : Nat := if t = 0 then rneBits (.fin false (field y 40 24) (-24)) else field y 32 32
    ({ bits := BitVec.ofNat 32 (if p then poisonBits t else v), poison := p } : PV 32)
  (writeReg s c x o.vd.toNat 8 m out, x)

/-- VRAND (R166). -/
def execVrand (f : Frame) (o : OpV) (s : State) : Out := queued (.vrand f o) f (onePhase vrandAct) s

/-- VNOP's next position, of max(n, 1) in all; a freeze leaves those that are left for later (R143, R358). -/
def vnopRun (a i : Nat) (s : State) : State :=
  let c := s.cur
  let x := getAct (getCore s c) a i
  let left := if x.stage = 0 then max 1 (actV x).imm.toNat else x.pend
  if x.ran then s
  else
    let r := takePositions s c 1 x
    putAct r.1 c a i { r.2 with stage := if left ≤ 1 then 2 else 1, ran := decide (left ≤ 1), pend := left - 1 }

/-- VNOP (R167). -/
def execVnop (f : Frame) (o : OpV) (s : State) : Out := queued (.vnop f o) f vnopRun s

end Sys2Proof.Machine
end

