-- ==== Sys2Proof/Machine/Copies.lean ====
section
/-! DEFINITION. The copies (R230 to R237) and the mirrors that CPYMIR writes (R389, R392). -/

namespace Sys2Proof.Machine

open Sys2Proof

/-! ### Regions and moves (R230, R233) -/

/-- The port of a copy: LDQ where its destination has a stash side, else STQ (R72, R232, R334). -/
def copyPort (x : Active) : Nat := if opcodeOf x.cmd.word ≠ 0xB5 ∧ onStash (x.cmd.descs.getD 0 0) then 3 else 4

/-- One element to move: its key, its index in the destination and its index in the source. -/
structure Move where
  key : Nat := 0
  dst : Nat × Nat × Nat := (0, 0, 0)
  src : Nat × Nat × Nat := (0, 0, 0)

/-- The reads of some moves, each under its key, in ascending address order, with the values that need none. -/
def moveReads (s : State) (o : Opd) (opnd port : Nat) (l : List Move) : List Item × List Got :=
  let (reads, pads) := splitWants opnd (l.flatMap fun m => wantRead s o m.key (placeOf o m.src.1 m.src.2.1 m.src.2.2))
  let parts := reads.flatMap fun w => (cutElem 3 w.elem).map fun e => { w with elem := e }
  (groupWants opnd port (if hasWindow o.d then some o.d else none) false (sortWants parts), pads)

/-- The writes of some moves. Those of operand 0 take the value read under their key; those of operand 4 carry their
own. -/
def moveWrites (o : Opd) (opnd port : Nat) (sorted : Bool) (v : W64) (l : List Move) : List Item :=
  let ws := l.map fun m => wantWrite o m.key v false (placeOf o m.dst.1 m.dst.2.1 m.dst.2.2)
  let parts := ws.flatMap fun w => (cutElem 3 w.elem).map fun e => { w with elem := e }
  groupWants opnd port (if hasWindow o.d then some o.d else none) true (if sorted then sortWants parts else parts)

/-- The extents of R230. -/
def regionDims (a b : Opd) : Nat × Nat × Nat :=
  (min (a.dim 0) (b.dim 0), min (a.dim 1) (b.dim 1), min (a.dim 2) (b.dim 2))

/-- A copy whose moves are planned: it reads, and writes each element once its own read has returned. -/
def planCopy (s : State) (c : Nat) (x : Active) (sorted : Bool) (moves fills : List Move) : State × Active :=
  let a := operand s c x 0 true
  let b := operand s c x 1 false
  let port := copyPort x
  let r := moveReads s b 1 port moves
  let w := moveWrites a 0 port sorted 0 moves ++ moveWrites a 4 port sorted (padValue b.d) fills
  let h := holdReads s x r.1
  (h.1, { h.2 with stage := 2, ran := true, reads := r.1, got := h.2.got ++ r.2, writes := w })

/-- The descriptor that a copy writes is open, and no firing writes it: the copy appends (R232). -/
def appends (x : Active) : Bool := x.rule.isNone && isOpen (x.cmd.descs.getD 0 0) && x.cmd.word.getLsbD 0

/-- The record that a copy appends to. -/
def appendTo (s : State) (c : Nat) (x : Active) : Option Nat :=
  if appends x then recordPa s c x.cmd.asid (dOtr (x.cmd.descs.getD 0 0)) else none

/-- A copy of the core that issued before this one has its claim on the same tensor still to make: claims are made in issue
order (R232). -/
def claimWaits (s : State) (c : Nat) (x : Active) (pa : Nat) : Bool :=
  (getCore s c).chans.any fun e => e.2.any fun y => !y.begun && decide (y.id < x.id) && decide (appendTo s c y = some pa)

/-- An append claims the next slice of its tensor as it issues (R232, R269), after those that issued before it; QUOTA halts it
until the handler returns (R237, R276). Otherwise pub does nothing, with W_FALLBACK. -/
def claimAppend (s : State) (c : Nat) (x : Active) : State × Active :=
  let done := { x with begun := true }
  if x.begun then (s, x)
  else if appends x then
    match appendTo s c x with
    | none => (s, done)
    | some pa =>
      let o := getOT s pa
      if o.st ≠ 1 ∨ o.vf ≠ vmid (getCore s c) then (s, done)
      else if claimWaits s c x pa then (s, x)
      else
        match claim s pa o.q with
        | .error (k, node) => haltWith s c x (quotaTrap k node) (copyPort x)
        | .ok s =>
          let s := putOT s pa { getOT s pa with claims := o.claims ++ [o.q] }
          (s, { done with appending := true, slice := o.q, pubs := [(pa, o.q)] })
  else if x.cmd.word.getLsbD 0 then (warnC s c wFallback, done)
  else (s, done)

/-- A copy's first phase: the claim of an append as it issues, and its own plan once its turn has come on its channel (R203,
R230). -/
def startCopy (plan : State → Nat → Active → State × Active) (a i : Nat) (s : State) : State :=
  let c := s.cur
  let r := claimAppend s c (getAct (getCore s c) a i)
  if r.2.begun && (decide (a < 8) || decide (i = 0)) then
    let r := plan r.1 c r.2
    putAct r.1 c a i r.2
  else putAct r.1 c a i r.2

/-- The writes of a skipped copy, which carry poison and no data that it reads (R287). -/
def poisonCopy (l : List Item) : List Item := (poisonWrites l).map fun w => { w with opnd := 4 }

/-- A copy with one phase of planning; a skipped firing writes poison alone (R287). -/
def copyRun (plan : State → Nat → Active → State × Active) (a i : Nat) (s : State) : State :=
  let x := getAct (getCore s s.cur) a i
  if x.stage = 0 ∧ x.skip then
    let r := plan s s.cur x
    putAct s s.cur a i { x with stage := 2, ran := true, writes := poisonCopy r.2.writes }
  else if x.stage = 0 then startCopy plan a i s
  else s

/-! ### CPY, CPYIDX, CPYFILL (R233 to R235) -/

/-- Moves of one index triple to the same triple. -/
def sameMoves (l : List (Nat × Nat × Nat)) : List Move :=
  l.map fun p => { key := keyOf p.1 p.2.1 p.2.2, dst := p, src := p }

/-- CPY's plan: the whole region. -/
def cpyPlan (s : State) (c : Nat) (x : Active) : State × Active :=
  let d := regionDims (operand s c x 0 true) (operand s c x 1 false)
  planCopy s c x true (sameMoves (indices d.1 d.2.1 d.2.2)) []

/-- CPY (R230). -/
def execCpy (f : Frame) (o : OpE) (s : State) : Out := queued (.cpy f o) f (copyRun cpyPlan) s

/-- CPYFILL's plan (R235). -/
def cpyfillPlan (s : State) (c : Nat) (x : Active) : State × Active :=
  let a := operand s c x 0 true
  let w := moveWrites a 4 (copyPort x) true (padValue a.d) (sameMoves (indices (a.dim 0) (a.dim 1) (a.dim 2)))
  (s, { x with stage := 2, ran := true, writes := w })

/-- CPYFILL (R235). -/
def execCpyfill (f : Frame) (o : OpE) (s : State) : Out := queued (.cpyfill f o) f (copyRun cpyfillPlan) s

/-- An index is out of range: at or beyond dim1 or a non-zero rowbound of the indexed side (R233). -/
def outOfRange (o : Opd) (i : Nat) : Bool := decide (o.dim 1 ≤ i)

/-- The moves of a row, plane 0. -/
def rowMoves (n0 key dst src : Nat) : List Move :=
  (List.range n0).map fun i => { key := keyOf i key 0, dst := (i, dst, 0), src := (i, src, 0) }

/-- CPYIDX's plan for row `n` of the source (R234). -/
def cpyidxPlan (n : Nat) (s : State) (c : Nat) (x : Active) : State × Active :=
  let b := operand s c x 1 false
  let d := regionDims (operand s c x 0 true) b
  if outOfRange b n then planCopy (warnC s c wFallback) c x true [] (rowMoves d.1 0 0 0)
  else planCopy s c x true (rowMoves d.1 0 0 n) []

/-- CPYIDX takes the head entry of the RQ as it issues; a poisoned one is consumed, and nothing is read or written. Its copy
begins in the phase that follows (R33, R234). -/
def cpyidxRun (a i : Nat) (s : State) : State :=
  let c := s.cur
  let x := getAct (getCore s c) a i
  if x.stage = 0 ∧ x.skip then copyRun (cpyidxPlan 0) a i s
  else if x.stage = 0 ∧ x.rq = [] then
    match (getCore s c).rq.filter (rqTakable s.now), (getCore s c).rq with
    | _ :: _, e :: es =>
      let s := onCore s c fun k => { k with rq := es }
      let s := if x.rule.isSome then releaseEdge s c a 3 0 e.sig x.waited else s
      let t : PTrap := { cause := 0x10, eslot := 0, einfo := 0 }
      if e.val.poison then
        if x.rule.isSome then putAct s c a i { x with stage := 2, ran := true, traps := [t] }
        else putAct (pendC s c t) c a i { x with stage := 2, ran := true }
      else putAct s c a i { x with rq := [e.val] }
    | _, _ => s
  else if x.stage = 0 then
    startCopy (cpyidxPlan (x.rq.headD {}).bits.toNat) a i s
  else s

/-- CPYIDX (R234). -/
def execCpyidx (f : Frame) (o : OpE) (s : State) : Out := queued (.cpyidx f o) f cpyidxRun s

/-! ### CPYG and CPYS (R233) -/

/-- Entries of the index stream: dC's dim0 lowered by its colbound. -/
def indexCount (x : Active) : Nat := bounded (x.cmd.descs.getD 2 0) 0

/-- The reads of the index stream, as operand 2. -/
def indexReads (s : State) (c : Nat) (x : Active) : List Item × List Got :=
  planReads s (operand s c x 2 false) 2 (copyPort x) ((List.range (indexCount x)).map fun r => (r, 0, 0))

/-- The index of entry `r`, as a natural number, with its poison. -/
def indexAt (x : Active) (r : Nat) : PV 64 := gotElem x 2 (keyOf r 0 0)

/-- CPYG's rows: destination row and source row. -/
def gatherPlan (s : State) (c : Nat) (x : Active) : State × Active :=
  let a := operand s c x 0 true
  let b := operand s c x 1 false
  let d := regionDims a b
  let rows := (List.range (min (indexCount x) (rawDim a 1))).map fun r => (r, (indexAt x r).bits.toNat)
  let s := if rows.any fun e => outOfRange b e.2 then warnC s c wFallback else s
  planCopy s c x true ((rows.filter fun e => !outOfRange b e.2).flatMap fun e => rowMoves d.1 e.1 e.1 e.2)
    ((rows.filter fun e => outOfRange b e.2).flatMap fun e => rowMoves d.1 e.1 e.1 0)

/-- CPYS's rows, written in ascending order of the source row. A skipped firing has none for a poisoned index, which names no
row. -/
def scatterPlan (s : State) (c : Nat) (x : Active) : State × Active :=
  let a := operand s c x 0 true
  let b := operand s c x 1 false
  let d := regionDims a b
  let rows := ((List.range (min (indexCount x) (rawDim b 1))).filter fun r => !(indexAt x r).poison).map fun r =>
    (r, (indexAt x r).bits.toNat)
  let s := if rows.any fun e => outOfRange a e.2 then warnC s c wFallback else s
  planCopy s c x false ((rows.filter fun e => !outOfRange a e.2).flatMap fun e => rowMoves d.1 e.1 e.2 e.1) []

/-- The index stream first; a poisoned entry faults before any row, and the copy starts again from its first index
read; for a firing it is a rule fault (R233, R287). A skipped firing reads the stream too, which names the granules that it
poisons: CPYG's rows stand whatever their indices are. -/
def indexedRun (plan : State → Nat → Active → State × Active) (a i : Nat) (s : State) : State :=
  let c := s.cur
  let x := getAct (getCore s c) a i
  let toIndex := fun (s : State) (c : Nat) (x : Active) =>
    let p := indexReads s c x
    let h := holdReads s x p.1
    (h.1, { h.2 with stage := 1, reads := p.1, got := p.2 })
  if x.stage = 0 then startCopy toIndex a i s
  else if x.stage = 1 ∧ x.reads = [] ∧ x.farOut = 0 then
    match (if x.skip then none else (List.range (indexCount x)).find? fun r => (indexAt x r).poison) with
    | some r =>
      let t : PTrap := { cause := 0x10, eslot := 0, einfo := BitVec.ofNat 64 r }
      if x.rule.isSome then putAct s c a i { x with stage := 2, ran := true, traps := [t] }
      else
        let h := haltWith s c { x with stage := 0, got := [], count := 0 } t (copyPort x)
        putAct h.1 c a i h.2
    | none =>
      let r := plan s c x
      if x.skip then putAct s c a i { x with stage := 2, ran := true, writes := poisonCopy r.2.writes }
      else putAct r.1 c a i r.2
  else s

/-- CPYG (R233). -/
def execCpyg (f : Frame) (o : OpE) (s : State) : Out := queued (.cpyg f o) f (indexedRun gatherPlan) s

/-- CPYS (R233). -/
def execCpys (f : Frame) (o : OpE) (s : State) : Out := queued (.cpys f o) f (indexedRun scatterPlan) s

/-! ### CPYMIR (R236, R392) -/

/-- Where slice `k` lies in the mirror region. -/
def mirrorVa (o : OT) (k : Nat) : Nat :=
  (o.mirror + 256 + (if o.mslots = 0 then k else k % o.mslots) * o.slicebytes) % 2 ^ 55

/-- Eight pad bytes of a slice that has no storage, for a descriptor's element type. -/
def padWord (d : W512) : W64 :=
  let v := (padValue d).toNat
  match tyBits (dType d) with
  | 4 => BitVec.ofNat 64 (v % 16 * 0x1111111111111111)
  | 8 => BitVec.ofNat 64 (v % 256 * 0x0101010101010101)
  | 16 => BitVec.ofNat 64 (v % 65536 * 0x0001000100010001)
  | _ => BitVec.ofNat 64 (v % 2 ^ 32 * 0x0000000100000001)

/-- The key of word `w` of slice `k`. -/
def mirrorKey (k w : Nat) : Nat := k * 8192 + w

/-- The reads of the slices from `lo` to `hi`, as 8-byte words. -/
def mirrorReads (s : State) (o : OT) (d : W512) (lo hi : Nat) : List Item × List Got :=
  let words := (List.range (hi - lo)).flatMap fun i => (List.range (o.slicebytes / 8)).map fun w => (lo + i, w)
  let ws := splitWants 1 (words.flatMap fun e =>
    if sliceReadable s o e.1 then slicePartsOf s o e.1 (8 * e.2) 8 0 (mirrorKey e.1 e.2) 0 (padWord d)
    else [.error { key := mirrorKey e.1 e.2, size := 8, val := padWord d }])
  (groupWants 1 4 none false ws.1, ws.2)

/-- The words of the header (R392). -/
def mirrorHeader (s : State) (c : Nat) (o : OT) (hi : Nat) : List W64 :=
  let k := getCore s c
  [BitVec.ofNat 64 (1 + Config.pkg.toNat * 2 ^ 16 + vmid k * 2 ^ 28),
   s.ownInc.setWidth 64,
   BitVec.ofNat 64 (hi % 2 ^ 40),
   BitVec.ofNat 64 (if o.mslots = 0 then 0 else hi - o.mslots),
   BitVec.ofNat 64 (o.slicebytes + o.type * 2 ^ 32),
   BitVec.ofNat 64 (o.sdim0 + o.sdim1 * 2 ^ 16 + o.sdim2 * 2 ^ 32),
   BitVec.ofNat 64 o.mslots,
   k.hlc] ++ List.replicate 24 0

/-- The far stores of the slices, in slice order, and then of the header. -/
def mirrorWrites (s : State) (c : Nat) (o : OT) (lo hi : Nat) : List Item :=
  let data := (List.range (hi - lo)).flatMap fun i => (List.range (o.slicebytes / 8)).map fun w =>
    ({ space := .va, elem := { key := mirrorKey (lo + i) w, addr := (mirrorVa o (lo + i) + 8 * w) % 2 ^ 55, size := 8 } } :
      Want)
  let head := mirrorHeader s c o hi
  let hw := (head.zip (List.range head.length)).map fun e =>
    ({ space := .va, elem := { addr := (o.mirror + 8 * e.2) % 2 ^ 55, size := 8, val := e.1 } } : Want)
  let cut := fun l : List Want => l.flatMap fun w => (cutElem 3 w.elem).map fun e => { w with elem := e }
  groupWants 0 4 none true (cut data) ++ groupWants 4 4 none true (cut hw)

/-- The far physical address of a slice in the mirror. -/
def mirrorPa (s : State) (c asid : Nat) (o : OT) (k : Nat) : Option Nat := recordPa s c asid (mirrorVa o k)

/-- Links to places of the mirror that are about to be overwritten go: they hold those pages no more (R389). -/
def dropLinks (s : State) (c asid : Nat) (o : OT) (lo hi : Nat) : State :=
  let pas := (List.range (hi - lo)).filterMap fun i =>
    if (lo + i) % o.spp = 0 then mirrorPa s c asid o (lo + i) else none
  { s with links := s.links.filter fun e => match e.2 with
      | some l => !pas.contains l.pa
      | none => true }

/-- The slices that a CPYMIR mirrors, from the mirror cursor to C, and the record that they are of (R236). -/
def mirrorRange (s : State) (c : Nat) (x : Active) : Active :=
  let b := operand s c x 1 false
  match b.ot with
  | some pa =>
    let o := getOT s pa
    { x with begun := true, lo := o.mcursor, hi := if o.mirrored && !b.bad then o.c else o.mcursor, geo := [(pa, 0, 0)] }
  | none => { x with begun := true }

/-- CPYMIR's plan. A record that another function owns, or that is FREE, is refused at its first access; one with no mirror
has nothing to be written. -/
def cpymirPlan (s : State) (c : Nat) (x : Active) : State × Active :=
  let d := x.cmd.descs.getD 1 0
  let b := operand s c x 1 false
  let done := { x with stage := 2, ran := true }
  let refuse := fun (sp : Space) (at_ : Nat) =>
    (s, { done with reads := groupWants 1 4 none false [{ space := sp, elem := { addr := at_, size := 8 } }] })
  match b.ot with
  | none => refuse .va (dOtr d)
  | some pa =>
    let o := getOT s pa
    if b.bad then refuse (.slice pa 0) (2 ^ 40)
    else if x.hi ≤ x.lo then (s, done)
    else
      let s := dropLinks s c x.cmd.asid o x.lo x.hi
      let r := mirrorReads s o d x.lo x.hi
      let h := holdReads s done r.1
      (h.1, { h.2 with reads := r.1, got := r.2, writes := mirrorWrites s c o x.lo x.hi })

/-- CPYMIR's agent: mirror cursor and C are read as it issues, and its accesses are planned once its turn has come on its
channel (R203, R236). -/
def cpymirRun (a i : Nat) (s : State) : State :=
  let c := s.cur
  let x := getAct (getCore s c) a i
  if x.stage = 0 then
    let x := if x.begun then x else mirrorRange s c x
    let r := if i = 0 then cpymirPlan s c x else (s, x)
    putAct r.1 c a i r.2
  else s

/-- CPYMIR (R236). -/
def execCpymir (f : Frame) (o : OpE) (s : State) : Out := queued (.cpymir f o) f cpymirRun s

/-- Pages whose every slice a CPYMIR has delivered are linked to their mirror (R389, R392). -/
def linkPages (s : State) (c asid : Nat) (o : OT) (lo hi : Nat) : State :=
  if o.mslots % o.spp ≠ 0 then s
  else
    (List.range (hi / o.spp - lo / o.spp)).foldl (fun s i =>
      let pg := lo / o.spp + i
      let e := leafOf s o pg
      match mirrorPa s c asid o (pg * o.spp) with
      | some pa =>
        if neV e && isFar pa then
          let l : PageLink := { pa := pa, inc := (getPod s (farTarget pa)).inc }
          { s with links := SMap.set (fun _ => none) s.links (nePage e / 65536) (some l) }
        else s
      | none => s) s

/-- CPYMIR retires: the cursor of the record that it read is set to the C read as it issued (R236). -/
def finishMirror (s : State) (c : Nat) (x : Active) : State :=
  match x.geo with
  | [] => s
  | (pa, _, _) :: _ =>
    if x.lo < x.hi ∧ (getOT s pa).st ≠ 0 then
      let s := linkPages s c x.cmd.asid (getOT s pa) x.lo x.hi
      putOT s pa { getOT s pa with mcursor := x.hi }
    else s

end Sys2Proof.Machine
end

