-- ==== Sys2Proof/Machine/Attention.lean ====
section
/-! DEFINITION. Slice attention: SAQ with its triples and their merge, and SAMASK (R170 to R181). -/

namespace Sys2Proof.Machine

open Sys2Proof

/-! ### The instruction's fields (R173) -/

/-- hsel. -/
def saqHsel (e : OpE) : Nat := field e.mods 18 2
/-- kvh. -/
def saqKvh (e : OpE) : Nat := field e.mods 12 6
/-- pub. -/
def saqPub (e : OpE) : Bool := e.mods.getLsbD 11
/-- fen. -/
def saqFen (e : OpE) : Bool := e.mods.getLsbD 10
/-- N of fN. -/
def saqFlag (e : OpE) : Nat := field e.mods 4 6
/-- msk. -/
def saqMsk (e : OpE) : Bool := e.mods.getLsbD 3

/-! ### Range and holds (R174, R178) -/

/-- The counter that hsel selects. -/
def saqHi (e : OpE) (o : OT) : Nat :=
  match saqHsel e with
  | 0 => o.p
  | 1 => o.t
  | _ => o.c

/-- The Frond pages of a tensor that hold a slice of the range. -/
def rangePages (s : State) (v : Bool) (pa lo hi : Nat) : List HeldPage :=
  let o := getOT s pa
  if hi ≤ lo ∨ o.spp = 0 then []
  else
    (List.range ((hi - 1) / o.spp - lo / o.spp + 1)).filterMap fun i =>
      let pg := lo / o.spp + i
      let e := leafOf s o pg
      if neV e then
        some { v := v, page := pg, frame := nePage e / 65536, low := o.holdlow, vis := o.t,
               fresh := o.fresh.filter fun f => decide (f.page = pg) }
      else none

/-- A record of K or V may not be reached: the fault that halts the command before its range is fixed. Its page needs R
and the AXQ bit (R179, R337). -/
def recordFault (s : State) (c asid : Nat) (d : W512) : Option Block :=
  match translate s (vmid (getCore s c)) asid (dOtr d) true false false [portMask 7] with
  | .ok t => if recordBad s (vmid (getCore s c)) (some t.pa) then accessTrap (dOtr d) else none
  | x => xlBlock 7 false (dOtr d) x

/-- A SAQ as it issues: the range [lo, hi), the holds, and the records that it has reached. -/
def saqStart (s : State) (c : Nat) (x : Active) : State × Active :=
  let dk := x.cmd.descs.getD 2 0
  let dv := x.cmd.descs.getD 3 0
  match firstBlock [recordFault s c x.cmd.asid dk, recordFault s c x.cmd.asid dv] with
  | some b => haltBlock s c x b 7
  | none =>
    let kp := (recordPa s c x.cmd.asid (dOtr dk)).getD 0
    let vp := (recordPa s c x.cmd.asid (dOtr dv)).getD 0
    let ok := getOT s kp
    let hi := saqHi (actE x) ok
    let lo := if ok.window = 0 then 0 else hi - ok.window
    let pages := rangePages s false kp lo hi ++ rangePages s true vp lo hi
    let out := if isOpen (x.cmd.descs.getD 0 0) then
      ((recordPa s c x.cmd.asid (dOtr (x.cmd.descs.getD 0 0))).map fun pa => (pa, 0, 0)).toList else []
    let frames := pages.foldl (fun l p => if l.contains p.frame then l else l ++ [p.frame]) []
    (frames.foldl holdFrame s,
     { x with stage := 1, lo := lo, hi := hi, pages := pages, holds := frames, appending := saqPub (actE x), slice := hi - 1,
              geo := [(kp, ok.spp, ok.slicebytes), (vp, (getOT s vp).spp, (getOT s vp).slicebytes)] ++ out })

/-! ### The reads (R172, R178) -/

/-- Query rows read: below dB.dim1 and a non-zero rowbound. -/
def saqRows (x : Active) : Nat := bounded (x.cmd.descs.getD 1 0) 1

/-- Mask row `r` (R181). -/
def maskRow (g : EngRegs) (r : Nat) : W64 := SMap.get (fun _ => 0xFFFFFFFFFFFFFFFF) g.mask r

/-- Slice `k` is read for query row `r` (R175). -/
def sliceRead (g : EngRegs) (x : Active) (r k : Nat) : Bool :=
  decide (x.lo ≤ k) && decide (k < x.hi) &&
    (!saqMsk (actE x) || decide (k + 64 < x.hi) || (maskRow g r).getLsbD (k + 64 - x.hi))

/-- The slices of the range that some row reads, ascending. -/
def slicesRead (g : EngRegs) (x : Active) : List Nat :=
  ((List.range (x.hi - x.lo)).map fun i => x.lo + i).filter fun k =>
    (List.range (saqRows x)).any fun r => sliceRead g x r k

/-- The offset within slice of element (d, kvh): d along the lower and kvh along the higher of the two fixed axes
(R172, R270). -/
def kvOffset (d : W512) (i g : Nat) : Int :=
  let a := if dAxis d = 0 then 1 else 0
  let b := if dAxis d = 2 then 1 else 2
  dBase d + axisStep d a i + axisStep d b g

/-- An element (i, g) of K or V is within its descriptor's non-zero bounds: else it is never read (R39). -/
def kvInside (d : W512) (g i : Nat) : Bool := decide (i < bounded d 0) && decide (g < bounded d 1)

/-- The record of K or V as it stood at the SAQ's issue: its physical address, and its slices per page and bytes per slice
as a record. -/
def kvGeo (x : Active) (isV : Bool) : Nat × OT :=
  let g := x.geo.getD isV.toNat (0, 0, 0)
  (g.1, { spp := g.2.1, slicebytes := g.2.2 })

/-- What of a held page is unwritten: by its record, or once that has let the page go, as it stood at issue. -/
def heldFresh (s : State) (pa : Nat) (p : HeldPage) : List FreshPage :=
  let o := getOT s pa
  if nePage (leafOf s o p.page) / 65536 = p.frame then o.fresh else p.fresh

/-- The read of element `i` of slice `k` of K (operand 2) or V (operand 3) from the page held for it, or its value. -/
def kvWant (s : State) (x : Active) (isV : Bool) (k i : Nat) : List (Except Got Want) :=
  let d := x.cmd.descs.getD (if isV then 3 else 2) 0
  let key := k * 128 + i
  let (pa, o) := kvGeo x isV
  let off := kvOffset d i (saqKvh (actE x))
  let pad := [.error { key := key, size := 2, val := padValue d }]
  if off < 0 ∨ (o.slicebytes : Int) < off + 2 then
    [.ok { space := .slice pa k, elem := { key := key, addr := 2 ^ 40, size := 2 } }]
  else
    match x.pages.find? fun p => decide (p.v = isV) && decide (p.page = slicePage o k) with
    | none => pad
    | some p =>
      if k < p.low ∨ p.vis ≤ k then pad
      else
        partsAt (fun j => byteUnwritten { o with fresh := heldFresh s pa p } k (off.toNat + j) 0)
          (p.frame * 65536 + sliceByte o k + off.toNat) 2 0 key 0 (padValue d)

/-- The reads of K or V. -/
def kvReads (s : State) (c : Nat) (x : Active) (isV : Bool) : List Item × List Got :=
  let d := x.cmd.descs.getD (if isV then 3 else 2) 0
  let opnd := if isV then 3 else 2
  let ws := splitWants opnd ((slicesRead (getCore s c).eng x).flatMap fun k =>
    ((List.range 128).filter (kvInside d (saqKvh (actE x)))).flatMap fun i => kvWant s x isV k i)
  let parts := ws.1.flatMap fun w => (cutElem 2 w.elem).map fun e => { w with elem := e }
  (groupWants opnd 7 none false (sortWants parts), ws.2)

/-- Every read of a SAQ: the query and, once each, the elements of K and V. -/
def saqReads (s : State) (c : Nat) (x : Active) : List Item × List Got :=
  let q := operand s c x 1 false
  let rows := (List.range (saqRows x)).flatMap fun r =>
    ((List.range 128).filter fun d => decide (d < q.dim 0)).map fun d => (d, r, 0)
  let p1 := planReads s q 1 7 rows
  let p2 := kvReads s c x false
  let p3 := kvReads s c x true
  (p1.1 ++ p2.1 ++ p3.1, p1.2 ++ p2.2 ++ p3.2)

/-! ### Triples (R175) -/

/-- A bf16 element with its poison; one that is not read is +0. -/
def bf16El (v : PV 64) : FV × Bool := (decodeF 1 v.bits.toNat, v.poison)

/-- q(d, r). -/
def saqQ (x : Active) (d r : Nat) : FV × Bool := bf16El (gotElem x 1 (keyOf d r 0))

/-- Element `d` of slice `k` of K or V. -/
def saqKv (x : Active) (isV : Bool) (k d : Nat) : FV × Bool := bf16El (gotElem x (if isV then 3 else 2) (k * 128 + d))

/-- `score(r, s)`: two chains, of the even and of the odd dimensions. -/
def saqScore (x : Active) (r k : Nat) : FV × Bool :=
  let zero : FV := .fin false 0 0
  let go := (List.range 128).foldl (fun (acc : FV × FV × Bool) d =>
    let q := saqQ x d r
    let e := saqKv x false k d
    let p := mulF q.1 e.1
    let poison := acc.2.2 || q.2 || e.2
    if d % 2 = 0 then (rne (addF false acc.1 p), acc.2.1, poison) else (acc.1, rne (addF false acc.2.1 p), poison))
    (zero, zero, false)
  (rne (addF false go.1 go.2.1), go.2.2)

/-- `diff(a, b)`. -/
def diffF (a b : FV) : FV := if eqF a b then .fin false 0 0 else rne (addF false a (negF b))

/-- The weight vexp2(diff(a, m)). -/
def weightF (a m : FV) : FV := exp2u (diffF a m)

/-- Values of a triple with one poison mark for all of them. -/
def mkTriple (m l : FV) (o : List FV) (poison : Bool) : Triple :=
  { absent := false, m := pv32 m poison, l := pv32 l poison, o := o.map fun v => pv32 v poison }

/-- `leaf_triple(r, S)`. -/
def leafTriple (x : Active) (r : Nat) (ks : List Nat) : Triple :=
  let sc := ks.map fun k => (k, saqScore x r k)
  match sc with
  | [] => {}
  | h :: t =>
    let m := t.foldl (fun m e => extF true m e.2.1) h.2.1
    let zero : FV := .fin false 0 0
    let r := sc.foldl (fun (acc : FV × List FV) e =>
      let w := weightF e.2.1 m
      (rne (addF false acc.1 w),
       (acc.2.zip (List.range 128)).map fun od => rne (addF false od.1 (mulF w (saqKv x true e.1 od.2).1))))
      (zero, List.replicate 128 zero)
    let poison := sc.any fun e => e.2.2 || (List.range 128).any fun d => (saqKv x true e.1 d).2
    mkTriple m r.1 r.2 poison

/-- `lauter_merge(a, b)`. -/
def lauterMerge (a b : Triple) : Triple :=
  if a.absent then b
  else if b.absent then a
  else
    let f := fun v : PV 32 => f32 v.bits.toNat
    let m := extF true (f a.m) (f b.m)
    let ca := weightF (f a.m) m
    let cb := weightF (f b.m) m
    let mix := fun (u v : PV 32) => rne (addF false (mul32 (f u) ca) (mul32 (f v) cb))
    let poison := a.m.poison || b.m.poison
    mkTriple m (mix a.l b.l) ((a.o.zip b.o).map fun e => mix e.1 e.2) poison

/-! ### The tree (R176) -/

/-- Slices of a K page, as the SAQ issued. -/
def saqSpp (x : Active) : Nat := (kvGeo x false).2.spp

/-- Number of leaves. -/
def leafCount (spp lo hi : Nat) : Nat := if hi ≤ lo ∨ spp = 0 then 1 else (hi - 1) / spp - lo / spp + 1

/-- Levels of the tree over `n` leaves padded to a power of two. -/
def treeLevels (n : Nat) : Nat := if n ≤ 1 then 0 else Nat.log2 (n - 1) + 1

/-- Every leaf of every row, the padding included. -/
def leaves (s : State) (c : Nat) (x : Active) : List TreeNode :=
  let g := (getCore s c).eng
  let spp := saqSpp x
  (List.range (saqRows x)).flatMap fun r => (List.range (2 ^ treeLevels (leafCount spp x.lo x.hi))).map fun j =>
    let ks := if spp = 0 then [] else
      ((List.range spp).map fun i => (x.lo / spp + j) * spp + i).filter fun k => sliceRead g x r k
    { row := r, level := 0, pos := j, tri := leafTriple x r ks }

/-- A node of the tree that holds its triple. -/
def findNodeAt (x : Active) (row level pos : Nat) : Option TreeNode :=
  x.tree.find? fun n => decide (n.row = row) && decide (n.level = level) && decide (n.pos = pos)

/-- A node takes its two children's place once it holds both. -/
def mergeAt (x : Active) (row level e : Nat) : Option Active :=
  if level = 0 then none
  else
    match findNodeAt x row (level - 1) (2 * e), findNodeAt x row (level - 1) (2 * e + 1) with
    | some a, some b =>
      let rest := x.tree.filter fun n =>
        !(decide (n.row = row) && decide (n.level = level - 1) && decide (n.pos / 2 = e))
      some { x with tree := rest ++ [{ row := row, level := level, pos := e, tri := lauterMerge a.tri b.tri }] }
    | _, _ => none

/-- The index of the first active command for which `f` answers, with its answer. -/
def firstAct (f : Active → Option Active) : Nat → List Active → Option (Nat × Active)
  | _, [] => none
  | n, a :: t =>
    match f a with
    | some b => some (n, b)
    | none => firstAct f (n + 1) t

/-- A SAQ. -/
def isSaq (a : Active) : Bool := decide (opcodeOf a.cmd.word = 0xB8)

/-- LAUTER_MERGE (R176): the oldest SAQ of the core whose node can merge. -/
def execLauterMerge (c row level e : Nat) (s : State) : Out :=
  .next (if standsStill (getCore s c) then s
    else
      match firstAct (fun a => if isSaq a then mergeAt a row level e else none) 0 (getEng (getCore s c) 4).active with
      | some (i, x) => putAct s c 5 i x
      | none => s)

/-- The root of a row: the only node of the row that is left, at the top level. -/
def rootOf (x : Active) (r : Nat) : Option Triple :=
  (findNodeAt x r (treeLevels (leafCount (saqSpp x) x.lo x.hi)) 0).map fun n => n.tri

/-! ### SAQ (R172, R177) -/

/-- The agent's part: the range and the holds, the reads, and the leaves. -/
def saqRun (a i : Nat) (s : State) : State :=
  let c := s.cur
  let x := getAct (getCore s c) a i
  if x.halted.isSome ∨ x.s2 then s
  else
    let r := if x.stage = 0 then saqStart s c x else (s, x)
    if r.2.stage = 1 then
      let p := saqReads r.1 c r.2
      putAct r.1 c a i { r.2 with stage := 2, reads := p.1, got := p.2 }
    else if x.stage = 2 ∧ x.reads = [] ∧ x.farOut = 0 then putAct s c a i { x with stage := 3, tree := leaves s c x, got := [] }
    else putAct r.1 c a i r.2

/-- SAQ (R172). -/
def execSaq (f : Frame) (o : OpE) (s : State) : Out := queued (.saq f o) f saqRun s

/-- The values of a root: m, l and o; where every leaf is absent, −∞, +0 and +0. -/
def rootValues (t : Triple) : List (PV 32) :=
  if t.absent then { bits := BitVec.ofNat 32 (infSigned 0 true) } :: List.replicate 129 {} else t.m :: t.l :: t.o

/-- The record of an open dA, as the SAQ reached it at its issue. -/
def saqRecord (s : State) (c : Nat) (x : Active) : Option Nat :=
  match x.geo[2]? with
  | some g => some g.1
  | none => recordPa s c x.cmd.asid (dOtr (x.cmd.descs.getD 0 0))

/-- What keeps a SAQ from its output: the page of an open dA's record needs W and the AXQ bit (R179, R337). -/
def saqOutBlock (s : State) (c : Nat) (x : Active) : Option Block :=
  let d := x.cmd.descs.getD 0 0
  if isOpen d && !(saqPub (actE x) && decide (x.hi = 0)) then
    xlBlock 7 true (dOtr d) (translate s (vmid (getCore s c)) x.cmd.asid (dOtr d) false true false [portMask 7])
  else none

/-- The writes of the rows, in ascending row order. -/
def saqWrites (s : State) (c : Nat) (x : Active) : List Item :=
  let d := x.cmd.descs.getD 0 0
  let o := operand s c x 0 true
  let o := if isOpen d then { o with ot := saqRecord s c x, bad := recordBad s (vmid (getCore s c)) (saqRecord s c x) } else o
  if saqPub (actE x) ∧ x.hi = 0 then []
  else
    (List.range (saqRows x)).flatMap fun r =>
      let v := rootValues ((rootOf x r).getD {})
      planWrites o 0 7 true ((v.zip (List.range 130)).map fun e =>
        ((e.2, r, 0), e.1.bits.setWidth 64, e.1.poison))

/-- Every row of a SAQ has its root, and its writes have not begun. -/
def rootsReady (x : Active) : Bool :=
  isSaq x && decide (x.stage = 3) && !x.ran && x.halted.isNone && !x.s2
    && (List.range (saqRows x)).all fun r => (rootOf x r).isSome

/-- The SAQ's publish through slice hi − 1 of the record that its rows lie in (R177): a shortage of storage is QUOTA, and the
SAQ waits for the handler. -/
def saqPublish (s : State) (c : Nat) (x : Active) : Except (Nat × Bool) State :=
  if !saqPub (actE x) then .ok s
  else if x.hi = 0 then .ok (warnC s c wFallback)
  else
    match saqRecord s c x with
    | none => .ok s
    | some pa => publish s pa (x.hi - 1) (sigOf s c 5)

/-- fN is increased by 1 as one event, if fen is set. -/
def saqFlagAdd (s : State) (c : Nat) (x : Active) : State :=
  let n := saqFlag (actE x)
  if saqFen (actE x) then
    onCore s c fun k =>
      if (getFlag k n).poison then k else setFlag k n { bits := (getFlag k n).bits + 1 } (sigOf s c 5)
  else s

/-- The completion of the oldest SAQ, once it has written every row. -/
def saqDone (s : State) (c : Nat) (x : Active) : State :=
  match (if (saqRecord s c x).isNone then saqOutBlock s c x else none) with
  | some b =>
    let r := haltBlock s c x b 7
    putAct r.1 c 5 0 r.2
  | none =>
    match saqPublish s c x with
    | .error (k, node) =>
      let r := haltWith s c x (quotaTrap k node) 7
      putAct r.1 c 5 0 r.2
    | .ok s => putAct (saqFlagAdd s c x) c 5 0 { x with stage := 4 }

/-- A SAQ begins its writes, or halts at the record of its output. -/
def saqBegin (s : State) (c i : Nat) (x : Active) : State :=
  match saqOutBlock s c x with
  | some b =>
    let r := haltBlock s c x b 7
    putAct r.1 c 5 i r.2
  | none => putAct s c 5 i { x with ran := true, count := 0, writes := saqWrites s c x }

/-- SAQ_COMPLETE (R177): a SAQ with every root begins its writes; the oldest, once its rows are written, publishes and
raises its flag, and can then retire. -/
def execSaqComplete (c : Nat) (s : State) : Out :=
  let l := (getEng (getCore s c) 4).active
  let x := l.headD {}
  .next (if standsStill (getCore s c) then s
    else if isSaq x ∧ x.stage = 3 ∧ x.ran ∧ x.writes = [] ∧ x.farOut = 0 ∧ x.halted = none ∧ !x.s2 then saqDone s c x
    else
      match firstAct (fun a => if rootsReady a then some a else none) 0 l with
      | some (i, x) => saqBegin s c i x
      | none => s)

/-! ### SAMASK (R181) -/

/-- SAMASK's reads: two 32-bit elements of each of 64 rows, where the descriptor and its bounds reach. -/
def samaskPlan : Plan := fun s c x =>
  let a := operand s c x 0 false
  planReads s a 0 7 ((indices 2 64 1).filter fun e => inside a 0 e.1 && inside a 1 e.2.1)

/-- The address of an element, as a trap reports it: its stash offset, its virtual address or its record. -/
def elemAddress (o : Opd) (i0 i1 i2 : Nat) : Nat :=
  match placeOf o i0 i1 i2 with
  | .stash off _ => off
  | .va a _ _ => a
  | .slice _ _ _ _ _ => dOtr o.d
  | .lost => dOtr o.d

/-- SAMASK's operation: the tile, or for a poisoned element no change and a trap due at retirement. -/
def samaskAct : Perform := fun s c x =>
  let a := operand s c x 0 false
  match (indices 2 64 1).find? fun e => (gotElem x 0 (keyOf e.1 e.2.1 0)).poison with
  | some e =>
    (s, { x with traps := [{ cause := 0x10, einfo := BitVec.ofNat 64 (elemAddress a e.1 e.2.1 0) }] })
  | none =>
    let row := fun r : Nat =>
      let g := fun d : Nat => (gotElem x 0 (keyOf d r 0)).bits.setWidth 32
      ((g 1 : W32) ++ (g 0 : W32) : W64)
    let tile := SMap.setAll (fun _ => 0xFFFFFFFFFFFFFFFF) [] ((List.range 64).map fun r => (r, row r))
    (onCore s c fun k => { k with eng := { k.eng with mask := tile } }, x)

/-- SAMASK (R181). -/
def execSamask (f : Frame) (o : OpE) (s : State) : Out := queued (.samask f o) f (twoPhase samaskPlan samaskAct) s

end Sys2Proof.Machine
end

