-- ==== Sys2Proof/Machine/Sorus.lean ====
section
/-! DEFINITION. The Sorus bank (R182 to R196): distances, absorption, merges, and the instructions of AXQ that act on
it. -/

namespace Sys2Proof.Machine

open Sys2Proof

/-! ### The bank (R182, R183) -/

/-- Entry `e` is valid. -/
def srValid (b : Sorus) (e : Nat) : Bool := SMap.get (fun _ => false) b.valid e
/-- count_e. -/
def srCount (b : Sorus) (e : Nat) : W32 := SMap.get (fun _ => 0) b.count e
/-- rcp_e. -/
def srRcp (b : Sorus) (e : Nat) : W32 := SMap.get (fun _ => 0) b.rcp e
/-- sum_e(i). -/
def srSum (b : Sorus) (e i : Nat) : PV 32 := SMap.get (fun _ => {}) b.sum (256 * e + i)

/-- rcp of an exact count (R183). -/
def rcpOf (n : W32) : W32 :=
  if n = 0 then 0 else BitVec.ofNat 32 (roundTo (divF (ofInt 1) (ofInt n.toNat)) 0 0 0).bits

/-- Some sums of an entry set. -/
def srSetSums (b : Sorus) (e : Nat) (l : List (Nat × PV 32)) : Sorus :=
  { b with sum := SMap.setAll (fun _ => {}) b.sum (l.map fun x => (256 * e + x.1, x.2)) }

/-- count_e set, with rcp_e. -/
def srSetCount (b : Sorus) (e : Nat) (n : W32) : Sorus :=
  { b with count := SMap.set (fun _ => 0) b.count e n, rcp := SMap.set (fun _ => 0) b.rcp e (rcpOf n) }

/-- valid_e set. -/
def srSetValid (b : Sorus) (e : Nat) (v : Bool) : Sorus := { b with valid := SMap.set (fun _ => false) b.valid e v }

/-- Entry `e` becomes free: count 0, sums +0, rcp +0. -/
def srFree (b : Sorus) (e : Nat) : Sorus :=
  let b := srSetValid (srSetCount b e 0) e false
  { b with sum := b.sum.filter fun x => decide (x.1 / 256 ≠ e) }

/-- A vector: its values with their poison. -/
abbrev SVec := List (FV × Bool)

/-- The centroid of an entry in the dimensions that are read (R183). -/
def centroid (b : Sorus) (e : Nat) : SVec :=
  (List.range b.dim).map fun i =>
    let s := srSum b e i
    (mul32 (f32 s.bits.toNat) (f32 (srRcp b e).toNat), s.poison)

/-- `sorus_dist(x, e)` (R185). -/
def srDist (b : Sorus) (x : SVec) (e : Nat) : FV × Bool :=
  let zero : FV := .fin false 0 0
  let go := ((x.zip (centroid b e)).zip (List.range b.dim)).foldl (fun (acc : FV × FV × Bool) (xc, i) =>
    let t := if b.ndot then negF (mulF xc.1.1 xc.2.1)
      else
        let g := rne (addF false xc.1.1 (negF xc.2.1))
        mulF g g
    let p := acc.2.2 || xc.1.2 || xc.2.2
    if i % 2 = 0 then (rne (addF false acc.1 t), acc.2.1, p) else (acc.1, rne (addF false acc.2.1 t), p))
    (zero, zero, false)
  (rne (addF false go.1 go.2.1), go.2.2)

/-- Usable: neither a NaN nor poisoned. -/
def usable (d : FV × Bool) : Bool := !isNan d.1 && !d.2

/-- Valid entries, ascending. -/
def validEntries (b : Sorus) : List Nat := (List.range 256).filter (srValid b)

/-- The first of the least usable distances. -/
def leastOf {α : Type} : List (α × (FV × Bool)) → Option (α × FV)
  | [] => none
  | (a, d) :: t =>
    match leastOf t with
    | none => if usable d then some (a, d.1) else none
    | some (c, m) => if usable d && !ltF m d.1 then some (a, d.1) else some (c, m)

/-- The pairs a < b of some entries, in ascending order. -/
def pairsOf : List Nat → List (Nat × Nat)
  | [] => []
  | a :: t => (t.map fun b => (a, b)) ++ pairsOf t

/-- Distances of the pairs below cap (R189). -/
def pairDists (b : Sorus) : List ((Nat × Nat) × (FV × Bool)) :=
  let es := (validEntries b).filter fun e => decide (e < b.cap)
  (pairsOf es).map fun p => (p, srDist b (centroid b p.1) p.2)

/-- The closest pair with its distance and whether any pair distance was poisoned; the two lowest entries if no pair is
usable. -/
def closestPair (b : Sorus) : Option ((Nat × Nat) × (FV × Bool)) × Bool :=
  let ds := pairDists b
  let poison := ds.any fun d => d.2.2
  (match leastOf ds with
   | some (p, d) => some (p, (d, false))
   | none => ds.head?, poison)

/-- The merge of a and b (R189). -/
def srMerge (b : Sorus) (x y : Nat) : Sorus :=
  let sums := (List.range b.dim).map fun i =>
    let p := srSum b x i
    let q := srSum b y i
    (i, pv32 (addF false (f32 p.bits.toNat) (f32 q.bits.toNat)) (p.poison || q.poison))
  let n := min ((srCount b x).toNat + (srCount b y).toNat) (2 ^ 32 - 1)
  srFree (srSetCount (srSetSums b x sums) x (BitVec.ofNat 32 n)) y

/-- `add_to(e, x)`, and whether the count was saturated already. -/
def srAdd (b : Sorus) (e : Nat) (x : SVec) : Sorus × Bool :=
  let sums := (x.zip (List.range b.dim)).map fun (v, i) =>
    let p := srSum b e i
    (i, pv32 (addF false (f32 p.bits.toNat) v.1) (p.poison || v.2))
  (srSetCount (srSetSums b e sums) e (satInc 32 (srCount b e)), decide (srCount b e = BitVec.allOnes 32))

/-- The sums of a vector, +0 at and above dim. -/
def seedSums (b : Sorus) (e : Nat) (x : SVec) : Sorus :=
  let b := { b with sum := b.sum.filter fun s => decide (s.1 / 256 ≠ e) }
  srSetSums b e ((x.zip (List.range b.dim)).map fun (v, i) => (i, pv32 v.1 v.2))

/-- `open_at(e, x)`. -/
def srOpen (b : Sorus) (e : Nat) (x : SVec) : Sorus := srSetValid (srSetCount (seedSums b e x) e 1) e true

/-- A reply word (R188). -/
def srReply (kept freed action entry : Nat) (dist : W32) : W64 :=
  BitVec.ofNat 64 (kept * 2 ^ 56 + freed * 2 ^ 48 + action * 2 ^ 40 + entry * 2 ^ 32 + dist.toNat)

/-- What an absorption comes to: the bank, the reply with its poison, fallbacks, and SORUS_FULL's detail. -/
structure Absorbed where
  bank : Sorus := {}
  reply : Option (PV 64) := none
  warns : Nat := 0
  full : Option W64 := none

/-- dn as reported: +∞ with no nearest entry. -/
def dnBits (n : Option (Nat × FV)) : W32 :=
  match n with
  | some e => bits32 e.2
  | none => BitVec.ofNat 32 (infSigned 0 false)

/-- `force_or_drop(n, x)`. -/
def srForce (b : Sorus) (n : Option (Nat × FV)) (x : SVec) (poison : Bool) (warns : Nat) : Absorbed :=
  let e := match n with
    | some e => e.1
    | none => (validEntries b).headD 0
  let r := srAdd b e x
  { bank := r.1, reply := some { bits := srReply 0 0 4 e (dnBits n), poison := poison },
    warns := warns + r.2.toNat }

/-- `sorus_absorb(x)` (R186, R188). -/
def srAbsorb (b : Sorus) (x : SVec) : Absorbed :=
  let ds := (validEntries b).map fun e => (e, srDist b x e)
  let n := leastOf ds
  let poison := ds.any fun d => d.2.2
  let near := match n with
    | some e => if leF e.2 (f32 b.radius.toNat) && !isNan (f32 b.radius.toNat) then some e.1 else none
    | none => none
  match near with
  | some e =>
    let r := srAdd b e x
    { bank := r.1, reply := some { bits := srReply 0 0 0 e (dnBits n), poison := poison }, warns := r.2.toNat }
  | none =>
    match (List.range b.cap).find? fun e => !srValid b e with
    | some e =>
      { bank := srOpen b e x, reply := some { bits := srReply 0 0 1 e (dnBits n), poison := poison } }
    | none =>
      let nearNo := match n with
        | some e => e.1
        | none => 0xFF
      match b.policy with
      | 0 => { bank := b, full := some (BitVec.ofNat 64 (nearNo * 2 ^ 32 + (dnBits n).toNat)) }
      | 1 =>
        if b.cap = 1 then srForce b n x poison 1
        else
          let cp := closestPair b
          match cp.1 with
          | some ((p, q), _) =>
            { bank := srOpen (srMerge b p q) q x,
              reply := some { bits := srReply p q 2 q (dnBits n), poison := poison || cp.2 } }
          | none => { bank := b }
      | 2 =>
        { bank := { b with drops := satInc 32 b.drops },
          reply := some { bits := srReply 0 0 3 nearNo (dnBits n), poison := poison } }
      | _ => srForce b n x poison 0

/-- The bank of a core. -/
def getBank (s : State) (c : Nat) : Sorus := (getCore s c).eng.sorus

/-- The bank replaced. -/
def putBank (s : State) (c : Nat) (b : Sorus) : State :=
  onCore s c fun k => { k with eng := { k.eng with sorus := b } }

/-- Several W_FALLBACK events. -/
def warnN (s : State) (c n : Nat) : State := (List.range n).foldl (fun s _ => warnC s c wFallback) s

/-! ### SRABS (R187, R191, R193) -/

/-- An absorption applied: the bank, and the reply or the trap due at retirement. -/
def applyAbsorbed (s : State) (c : Nat) (x : Active) (nr : Bool) (r : Absorbed) : State × Active :=
  match r.full with
  | some d => (s, { x with traps := [{ cause := 0x13, einfo := d }] })
  | none => (putBank (warnN s c r.warns) c r.bank, { x with rq := if nr then [] else r.reply.toList })

/-- nr of SRABS. -/
def absNr (x : Active) : Bool := (actE x).mods.getLsbD 0

/-- The reply queue has room for a command that pushes one entry: a Sorus command starts on the bank only then, so that
it has either retired or not started (R190). -/
def rqRoom (k : Core) : Bool := decide (k.rq.length < 32)

/-- An absorption may be applied: it pushes no entry, as under nr or for a bank that refuses it, or the RQ has room
(R187, R190). -/
def absorbs (k : Core) (x : Active) (r : Absorbed) : Bool := rqRoom k || absNr x || r.full.isSome

/-- An absorption is applied once it may be. -/
def absorbStep (s : State) (c a i : Nat) (x : Active) (r : Absorbed) : State :=
  if absorbs (getCore s c) x r then
    let r := applyAbsorbed s c x (absNr x) r
    putAct r.1 c a i { r.2 with stage := 2, ran := true }
  else s

/-- SRABS in register form: the lanes are read as the engine issues it. -/
def srabsRegRun (a i : Nat) (s : State) : State :=
  let c := s.cur
  let x := getAct (getCore s c) a i
  if x.stage = 0 then
    let b := getBank s c
    let regs := (List.range (ceilDiv b.dim 64)).foldl (fun (acc : State × List (List (PV 32))) j =>
      let r := readRetired acc.1 c (((actE x).dA.toNat + j) % 32)
      (r.1, acc.2 ++ [r.2])) (s, [])
    let got := (List.range b.dim).map fun j =>
      let v := (regs.2.getD (j / 64) []).getD (j % 64) {}
      ({ opnd := 0, key := j, size := 4, val := v.bits.setWidth 64, poison := v.poison } : Got)
    putAct regs.1 c a i { x with stage := 1, got := got }
  else if x.stage = 1 then
    let b := getBank s c
    let v := (List.range b.dim).map fun j =>
      let g := gotElem x 0 j
      (f32 (g.bits.toNat % 2 ^ 32), g.poison)
    absorbStep s c a i x (srAbsorb b v)
  else s

/-- SRABS vN (R193). -/
def execSrabsReg (f : Frame) (o : OpE) (s : State) : Out := queued (.srabsReg f o) f srabsRegRun s

/-- Elements (i, 0, 0) below dim that the descriptor and its bounds reach. -/
def vecReads (s : State) (o : Opd) (n : Nat) : List Item × List Got :=
  planReads s o 0 7 (((List.range n).filter fun i => inside o 0 i).map fun i => (i, 0, 0))

/-- The vector read, +0 where an element is not. -/
def vecGot (x : Active) (o : Opd) (n : Nat) : SVec :=
  (List.range n).map fun i =>
    if inside o 0 i then
      let g := gotElem x 0 (keyOf i 0 0)
      (decodeF (dType o.d) g.bits.toNat, g.poison)
    else (.fin false 0 0, false)

/-- SRABS in descriptor form; a skipped firing pushes one poisoned entry with action NONE (R287). -/
def srabsDescRun (a i : Nat) (s : State) : State :=
  let c := s.cur
  let x := getAct (getCore s c) a i
  let o := operand s c x 0 false
  let n := (getBank s c).dim
  if x.stage = 0 ∧ x.skip then
    putAct s c a i { x with stage := 2, ran := true, rq := [{ bits := srReply 0 0 7 0 0, poison := true }] }
  else if x.stage = 0 then
    let p := vecReads s o n
    let h := holdReads s x p.1
    putAct h.1 c a i { h.2 with stage := 1, reads := p.1, got := p.2 }
  else if x.stage = 1 ∧ x.reads = [] ∧ x.farOut = 0 then absorbStep s c a i x (srAbsorb (getBank s c) (vecGot x o n))
  else s

/-- SRABS dA (R193). -/
def execSrabsDesc (f : Frame) (o : OpE) (s : State) : Out := queued (.srabsDesc f o) f srabsDescRun s

/-! ### SRCFG, SRMERGE, SRREAD, SRSET, SRCLR (R192, R194 to R196) -/

/-- SRCFG's operation: a poisoned radius leaves the configuration, with its trap due at retirement. -/
def srcfgAct : Perform := fun s c x =>
  let o := operand s c x 0 false
  let e := actE x
  let g := gotElem x 0 (keyOf 0 0 0)
  if g.poison then (s, { x with traps := [{ cause := 0x10, einfo := BitVec.ofNat 64 (elemAddress o 0 0 0) }] })
  else
    (putBank s c { getBank s c with radius := g.bits.setWidth 32, cap := field e.mods 12 8 + 1,
                                    dim := field e.mods 4 8 + 1, ndot := e.mods.getLsbD 3,
                                    policy := field e.mods 1 2 }, x)

/-- SRCFG (R192). -/
def execSrcfg (f : Frame) (o : OpE) (s : State) : Out :=
  queued (.srcfg f o) f (twoPhase (fun s c x => vecReads s (operand s c x 0 false) 1) srcfgAct) s

/-- nr of SRMERGE. -/
def mergeNr (x : Active) : Bool := (actE x).mods.getLsbD 16

/-- SRMERGE's reply, unless nr is set. -/
def mergeReply (x : Active) (v : W64) (poison : Bool) : Active :=
  { x with rq := if mergeNr x then [] else [{ bits := v, poison := poison }] }

/-- A merge form waits for room in the RQ, and is performed whole. -/
def mergeRun (act : Perform) (a i : Nat) (s : State) : State :=
  let x := getAct (getCore s s.cur) a i
  if rqRoom (getCore s s.cur) || mergeNr x then onePhase act a i s else s

/-- The merge of a pair with its reply. -/
def mergeDone (s : State) (c : Nat) (x : Active) (p q : Nat) (d : FV × Bool) (poison : Bool) : State × Active :=
  (putBank s c (srMerge (getBank s c) p q), mergeReply x (srReply p q 6 p (pv32 d.1 d.2).bits) poison)

/-- SRMERGE's operation: the closest pair (R194). -/
def srmergeAct : Perform := fun s c x =>
  let cp := closestPair (getBank s c)
  match cp.1 with
  | some ((p, q), d) => mergeDone s c x p q d cp.2
  | none => (s, mergeReply x (srReply 0 0 7 0 0) cp.2)

/-- SRMERGE (R194). -/
def execSrmerge (f : Frame) (o : OpE) (s : State) : Out := queued (.srmerge f o) f (mergeRun srmergeAct) s

/-- SRMERGE.pair's operation: the lower index is kept. -/
def srpairAct : Perform := fun s c x =>
  let e := actE x
  let a := field e.mods 8 8
  let b := field e.mods 0 8
  let k := getBank s c
  if a = b ∨ !srValid k a ∨ !srValid k b then (warnC s c wFallback, mergeReply x (srReply 0 0 7 0 0) false)
  else
    let p := min a b
    let q := max a b
    let d := srDist k (centroid k p) q
    mergeDone s c x p q d d.2

/-- SRMERGE.pair (R194). -/
def execSrmergePair (f : Frame) (o : OpE) (s : State) : Out := queued (.srmergePair f o) f (mergeRun srpairAct) s

/-- One output of SRREAD, in ascending order of address within a row and of rows. -/
def srOutput (s : State) (c : Nat) (x : Active) (pos : Nat) (rows : List (List ((Nat × Nat × Nat) × PV 32))) : List Item :=
  let o := operand s c x pos true
  rows.flatMap fun row =>
    planWrites o pos 7 true ((row.filter fun e => inside o 0 e.1.1 && inside o 1 e.1.2.1).map fun e =>
      (e.1, e.2.bits.setWidth 64, e.2.poison))

/-- SRREAD's operation (R195). -/
def srreadAct : Perform := fun s c x =>
  let b := getBank s c
  let m := (actE x).mods
  let all := List.range 256
  let sums := all.map fun e => (List.range b.dim).map fun i => ((i, e, 0), srSum b e i)
  let cens := all.map fun e => ((centroid b e).zip (List.range b.dim)).map fun v =>
    ((v.2, e, 0), if srValid b e then pv32 v.1.1 v.1.2 else {})
  let word := fun w : W32 => ({ bits := w } : PV 32)
  let cnts := all.map fun e =>
    [((0, e, 0), word (srCount b e)), ((1, e, 0), word (if srValid b e then 1 else 0))]
      ++ (if e = 0 then [((2, 0, 0), word b.drops)] else [])
  let s := if m.getLsbD 0 || m.getLsbD 1 || m.getLsbD 2 then s else warnC s c wFallback
  (s, { x with writes := (if m.getLsbD 0 then srOutput s c x 0 sums else [])
                 ++ (if m.getLsbD 1 then srOutput s c x 1 cens else [])
                 ++ (if m.getLsbD 2 then srOutput s c x 2 cnts else []) })

/-- SRREAD (R195). -/
def execSrread (f : Frame) (o : OpE) (s : State) : Out := queued (.srread f o) f (onePhase srreadAct) s

/-- SRSET's operation (R196). -/
def srsetAct : Perform := fun s c x =>
  let o := operand s c x 0 false
  let m := (actE x).mods
  let e := field m 0 8
  let n := field m 8 12
  let b := getBank s c
  if n = 0 then (putBank s c (srFree b e), x)
  else
    (putBank s c (srSetValid (srSetCount (seedSums b e (vecGot x o b.dim)) e (BitVec.ofNat 32 n)) e true), x)

/-- SRSET (R196). -/
def execSrset (f : Frame) (o : OpE) (s : State) : Out :=
  queued (.srset f o) f (twoPhase (fun s c x => vecReads s (operand s c x 0 false) (getBank s c).dim) srsetAct) s

/-- SRCLR's operation (R196). -/
def srclrAct : Perform := fun s c x =>
  let b := getBank s c
  (putBank s c (if (actE x).mods.getLsbD 0 then { b with valid := [], count := [], rcp := [], sum := [], drops := 0 } else {}), x)

/-- SRCLR (R196). -/
def execSrclr (f : Frame) (o : OpE) (s : State) : Out := queued (.srclr f o) f (onePhase srclrAct) s

end Sys2Proof.Machine
end

