-- ==== Sys2Proof/Machine/System.lean ====
section
/-! DEFINITION. The system instructions other than context save and load: TRAP, ERET, CRD, CWR, WFI and BRK (R21, R22,
R362, R373 to R378). -/

namespace Sys2Proof.Machine

open Sys2Proof

/-! ### TRAP, BRK, ERET (R362, R373, R374) -/

/-- TRAP (R373): TRAP_INSN after its bundle; of several, the lowest slot's stands. -/
def execTrap (f : Frame) (o : OpY) (s : State) : Out :=
  let t : PTrap := { cause := 0x04, eslot := BitVec.ofNat 2 s.ctx.slot, einfo := o.imm.setWidth 64 }
  .next (whenPred f s { s with ctx := { s.ctx with after := s.ctx.after <|> some t } })

/-- BREAKPOINT, as the bundle issues (R362). -/
def brkBlock (f : Frame) (o : OpY) (s : State) : Option Block :=
  if predOk s f then some (.trap { cause := 0x15, einfo := o.imm.setWidth 64 }) else none

/-- BRK (R362). -/
def execBrk (f : Frame) (o : OpY) (s : State) : Out := .next (orBlock s (brkBlock f o s) s)

/-- ERET (R374): supervisor-only, and a control transfer; the return is made as the bundle ends. It writes cr.status (R58). -/
def execEret (f : Frame) (_ : OpY) (s : State) : Out :=
  .next (orBlock s (supBlock s) (inSlot3 f s (noteWrite { s with ctx := { s.ctx with eret := true } } 3 0)))

/-! ### Control registers (R21, R22) -/

/-- Index of a control register: imm20<11:0>. -/
def crIndex (o : OpY) : Nat := o.imm.toNat % 4096

/-- The registers that only supervisor level reads (R21). -/
def crSupOnly (n : Nat) : Bool := decide (1 ≤ n) && decide (n ≤ 6)

/-- The registers that task level reads and only supervisor level writes. -/
def crTaskRead (n : Nat) : Bool := decide (n = 0) || decide (n = 0x10) || decide (n = 0x22) || decide (n = 0x28)

/-- A listed index. -/
def crListed (n : Nat) : Bool :=
  crSupOnly n || crTaskRead n || [0x08, 0x09, 0x11, 0x18, 0x19, 0x1A, 0x20, 0x21].contains n

/-- Read-only at every level. -/
def crReadOnly (n : Nat) : Bool := [0x11, 0x1A, 0x20, 0x21].contains n

/-- PRIVILEGED of a CRD or CWR that the access column does not allow at task level (R22). DESIGN CHOICE: only where the
predicate holds, whereas a supervisor-only form faults whatever its predicate (R61). -/
def crBlock (write : Bool) (f : Frame) (o : OpY) (s : State) : Option Block :=
  let n := crIndex o
  if predOk s f && (crSupOnly n || (write && crTaskRead n)) then supBlock s else none

/-- The value of a control register of core `c`, from a register file; cr.hlc is the core's stamp (R21). -/
def crOf (s : State) (c : Nat) (k : Core) (cr : Cr) (n : Nat) : W64 :=
  match n with
  | 0x00 => cr.status
  | 0x01 => cr.cause
  | 0x02 => cr.epc
  | 0x03 => cr.eslot
  | 0x04 => cr.einfo
  | 0x05 => cr.tvec
  | 0x06 => cr.save
  | 0x08 => cr.warn
  | 0x09 => cr.warncount
  | 0x10 => BitVec.ofNat 64 (field cr.asid 0 12 + vmid k * 2 ^ 16)
  | 0x11 => crSelf c k
  | 0x18 => cr.shortmass
  | 0x19 => cr.spawnwait
  | 0x1A => s.limits.agelimit.setWidth 64
  | 0x20 => k.hlc
  | 0x21 => cr.step
  | 0x22 => cr.edgebase
  | 0x28 => cr.farlost
  | _ => 0

/-- A control register as it stood before the bundle (R375). -/
def crRead (s : State) (n : Nat) : W64 := crOf s s.cur (cc s) s.ctx.old.cr n

/-- CRD (R375): an unlisted index reads 0 with W_RESERVED; a CRD of cr.hlc is a local event. -/
def execCrd (f : Frame) (o : OpY) (s : State) : Out :=
  let n := crIndex o
  let t := if n = 0x20 then hlcLocal s s.cur else s
  .next (orBlock s (crBlock false f o s)
    (whenPred f s (putS (warnIf t (!crListed n) wReserved) o.x (crRead t n))))

/-- The low `w` bits of a word. -/
def lowBits (v : W64) (w : Nat) : W64 := BitVec.ofNat 64 (v.toNat % 2 ^ w)

/-- cr.status after a CWR: a level of 1x, current or previous, leaves its field unchanged (R23). -/
def writeStatus (old v : W64) : W64 :=
  mkStatus (if stPL v ≤ 1 then stPL v else stPL old) (if stPPL v ≤ 1 then stPPL v else stPPL old) (stSS v) (stPSS v)

/-- The ASID lies in the function's range (R330). -/
def asidInRange (x : FuncCtx) (a : Nat) : Bool :=
  decide (x.asidbase ≤ a) && decide (a < x.asidbase + x.asidcount)

/-- The control registers after a write of a writable one, in its used bits (R21, R22). -/
def crWrite (s : State) (cr : Cr) (n : Nat) (v : W64) : Cr :=
  match n with
  | 0x00 => { cr with status := writeStatus cr.status v }
  | 0x01 => { cr with cause := lowBits v 8 }
  | 0x02 => { cr with epc := lowBits v 55 }
  | 0x03 => { cr with eslot := lowBits v 2 }
  | 0x04 => { cr with einfo := v }
  | 0x05 => { cr with tvec := BitVec.ofNat 64 (field v 5 50 * 32) }
  | 0x06 => { cr with save := v }
  | 0x08 => { cr with warn := lowBits v 6 }
  | 0x09 => { cr with warncount := lowBits v 32 }
  | 0x10 =>
    if asidInRange (getFctx s (vmid (cc s))) (field v 0 12) then { cr with asid := lowBits v 12 } else cr
  | 0x18 => { cr with shortmass := lowBits v 32 }
  | 0x19 => { cr with spawnwait := lowBits v 32 }
  | 0x22 =>
    { cr with edgebase := BitVec.ofNat 64 ((if field v 60 4 ≤ 8 then field v 60 4 else 0) * 2 ^ 60 + field v 16 39 * 2 ^ 16) }
  | 0x28 => { cr with farlost := lowBits v 32 }
  | _ => cr

/-- A CWR sets W_RESERVED: a read-only or unlisted register, a reserved level or ring size, an ASID out of range, or a
VMID field that differs (R22, R23, R26, R330). -/
def crWarns (s : State) (n : Nat) (v : W64) : Bool :=
  match n with
  | 0x00 => decide (1 < stPL v) || decide (1 < stPPL v)
  | 0x10 =>
    !asidInRange (getFctx s (vmid (cc s))) (field v 0 12) || decide (field v 16 6 ≠ vmid (cc s))
  | 0x22 => decide (8 < field v 60 4)
  | n => crReadOnly n || !crListed n

/-- CWR (R375). A write of cr.warn or cr.warncount stands over the warnings of its own bundle. DESIGN CHOICE, assumption 75: a
CWR that leaves its register or a field of it as it is counts as a write of it (R58), and what it leaves keeps the value of a
lower slot of the bundle. -/
def execCwr (f : Frame) (o : OpY) (s : State) : Out :=
  let n := crIndex o
  let v := srcS s o.y
  let s1 := warnIf s (crWarns s n v) wReserved
  let s2 := if crListed n && !crReadOnly n then noteWrite s1 3 n else s1
  let s3 := onCur s2 fun k => { k with regs := { k.regs with cr := crWrite s k.regs.cr n v } }
  let s4 := if n = 8 ∨ n = 9 then { s3 with ctx := { s3.ctx with cwr := s3.ctx.cwr ++ [(n, v)] } } else s3
  .next (orBlock s (crBlock true f o s) (whenPred f s s4))

/-! ### WFI (R377, R378) -/

/-- WFI holds issue of later bundles. -/
def execWfi (f : Frame) (_ : OpY) (s : State) : Out := .next (whenPred f s (enbuf s true .wfi))

/-- A WFI ends if the wake-pending bit is set, which it clears. -/
def performWfi (s : State) (c : Nat) (b : BufItem) : State :=
  if (getCore s c).wake then dropHead (onCore s c fun k => { k with wake := false }) c
  else setHead s c { b with began := true }

/-- WFI_WAKE (R377): a wake event ends a WFI. -/
def execWfiWake (c : Nat) (s : State) : Out :=
  .next (match (getCore s c).buf with
    | b :: _ =>
      match b.ev with
      | .wfi => if (getCore s c).wake && !standsStill (getCore s c) then performWfi s c b else s
      | _ => s
    | [] => s)

end Sys2Proof.Machine
end

