-- ==== Sys2Proof/Machine/Context.lean ====
section
/-! DEFINITION. The context area (R359, R363 to R368) as a sparse image, and CTXSAVE and CTXLOAD (R379, R380), whose
saving and loading the hardware's own saves share (R369, R371). -/

namespace Sys2Proof.Machine

open Sys2Proof

/-! ### Images -/

/-- Bytes of the area by offset; a byte that is not listed is 0. -/
abbrev Img := List Host.Cell

/-- A field of an image: its offset, its size in bytes and its value. -/
structure AField where
  off : Nat
  size : Nat
  val : Nat

/-- An image with a field written, little-endian. -/
def putField (m : Img) (f : AField) : Img :=
  if f.val = 0 then m else pokeBytes m f.off (toBytes f.size (BitVec.ofNat (8 * f.size) f.val))

/-- A field read. -/
def getN (m : Img) (off n : Nat) : Nat := natOfBytes ((List.range n).map fun i => SMap.get memDefault m (off + i))

/-- A bit of an image: bit `b` of the bits that begin at an offset. -/
def getBit (m : Img) (off b : Nat) : Bool := decide (getN m (off + b / 8) 1 / 2 ^ (b % 8) % 2 = 1)

/-- The bytes of an area in an image. -/
abbrev areaSize : Nat := 761856

/-- Consecutive fields of one size. -/
def fieldsAt (off size : Nat) (l : List Nat) : List AField :=
  (l.zip (List.range l.length)).map fun e => { off := off + size * e.2, size := size, val := e.1 }

/-- A number whose bits are listed, bit 0 first. -/
def natOfBits : List Bool → Nat
  | [] => 0
  | b :: t => b.toNat + 2 * natOfBits t

/-! ### Commands and rules (R365, R366) -/

/-- A command's 384 bytes (R366), with what an abandoned SAQ or a VSHORT puts into bytes 16 to 35. -/
def cmdFields (off : Nat) (c : Cmd) (lo hi hold : Nat) : List AField :=
  [{ off := off, size := 8, val := c.word.toNat },
   { off := off + 8, size := 8,
     val := c.lit.toNat + c.asid % 4096 * 2 ^ 32 + c.gen % 4 * 2 ^ 44 + c.tokenOnly.toNat * 2 ^ 46 },
   { off := off + 16, size := 8, val := lo }, { off := off + 24, size := 8, val := hi },
   { off := off + 32, size := 4, val := hold }] ++ fieldsAt (off + 64) 64 (c.descs.map fun d => d.toNat)

/-- The four captured descriptors at an offset; a command that captured none has none. -/
def loadDescs (m : Img) (off : Nat) : List W512 :=
  let l : List W512 := (List.range 4).map fun i => BitVec.ofNat 512 (getN m (off + 64 * i) 64)
  if l.all fun d => decide (d = 0) then [] else l

/-- A saved queue command. -/
def loadCmd (m : Img) (off : Nat) : Cmd :=
  let a := getN m (off + 8) 8
  { word := BitVec.ofNat 64 (getN m off 8), lit := BitVec.ofNat 32 a, asid := a / 2 ^ 32 % 4096,
    gen := a / 2 ^ 44 % 4, tokenOnly := a / 2 ^ 46 % 2 = 1, descs := loadDescs m (off + 64),
    shortmass := BitVec.ofNat 32 (getN m (off + 16) 8) }

/-- A rule slot's 512 bytes (R365). A firing that is to fire again stands as ARMED (R289). -/
def ruleFields (off : Nat) (firing : Bool) (r : Rule) : List AField :=
  if r.st = .free then []
  else
    let st := if r.st = .firing ∧ !firing ∧ !r.skip then RuleSt.armed else r.st
    [{ off := off, size := 8, val := r.cmd.word.toNat },
     { off := off + 8, size := 8, val := r.cmd.lit.toNat + r.cmd.asid % 4096 * 2 ^ 32 },
     { off := off + 16, size := 8, val := r.src },
     { off := off + 24, size := 8,
       val := r.cursor % 2 ^ 40 + ruleCode st * 2 ^ 40 + (if r.st = .faulted then r.cause.toNat else 0) * 2 ^ 48 },
     { off := off + 32, size := 8, val := r.seq },
     { off := off + 40, size := 8, val := match r.feed with
       | some (va, _) => va % 2 ^ 55 + 2 ^ 63
       | none => 0 },
     { off := off + 48, size := 8, val := r.last % 2 ^ 40 + r.fired.toNat * 2 ^ 63 },
     { off := off + 56, size := 8,
       val := (match r.revokeAt with
         | some n => n % 2 ^ 40 + 2 ^ 63
         | none => 0)
         + (decide (r.pend ≠ .none)).toNat * 2 ^ 62 + (decide (r.pend = .revoke)).toNat * 2 ^ 61 }]
    ++ fieldsAt (off + 64) 64 (r.cmd.descs.map fun d => d.toNat)

/-- A rule's state from its code (R309). -/
def ruleOfCode (n : Nat) : RuleSt :=
  match n with
  | 1 => .armed
  | 2 => .firing
  | 3 => .faulted
  | 4 => .paused
  | 5 => .revoked
  | _ => .free

/-- A saved rule, its records' physical addresses and the values it adopts taken from what was kept of it. A rejection
made while the context was away has lowered the cursor that was kept (R285), and a revocation has freed it (R275). -/
def loadRule (s : State) (c : Nat) (m : Img) (off : Nat) (kept : Rule) : Rule :=
  let a := getN m (off + 8) 8
  let b := getN m (off + 24) 8
  let f := getN m (off + 40) 8
  let g := getN m (off + 48) 8
  let h := getN m (off + 56) 8
  let asid := a / 2 ^ 32 % 4096
  let src := getN m (off + 16) 8
  let same := kept.st ≠ .free ∧ kept.src = src ∧ kept.seq = getN m (off + 32) 8
  let st := ruleOfCode (b / 2 ^ 40 % 8)
  if st = .free ∨ (same ∧ kept.st = .revoked) then {}
  else
    { st := if same ∧ kept.st = .armed ∧ st = .faulted then .armed else st,
      cmd := { word := BitVec.ofNat 64 (getN m off 8), lit := BitVec.ofNat 32 a, asid := asid,
               descs := loadDescs m (off + 64) },
      src := src, srcPa := (recordPa s c asid src).getD 0,
      cursor := if same then min kept.cursor (b % 2 ^ 40) else b % 2 ^ 40,
      cause := BitVec.ofNat 8 (b / 2 ^ 48), seq := getN m (off + 32) 8,
      feed := if f / 2 ^ 63 % 2 = 1 then (recordPa s c asid (f % 2 ^ 55)).map fun p => (f % 2 ^ 55, p) else none,
      fired := g / 2 ^ 63 % 2 = 1, last := g % 2 ^ 40,
      revokeAt := if h / 2 ^ 63 % 2 = 1 then some (h % 2 ^ 40) else none,
      pend := if same ∧ kept.pend = .revoke then .revoke
        else if h / 2 ^ 62 % 2 = 0 then .none else if h / 2 ^ 61 % 2 = 1 then .revoke else .pause,
      skip := st = .firing, skipAt := if same ∧ kept.skip then kept.skipAt else b % 2 ^ 40, skipVoid := kept.skipVoid,
      rearm := kept.rearm }

/-! ### Results in flight (R358, R359) -/

/-- An in-flight record: its result if it has one, the gives and the RQ entry of its command's retirement, and whether
it is the command's last. -/
structure FRec where
  res : Option VRec := none
  gl : Bool := false
  gr : Bool := false
  last : Bool := false
  rq : Option (PV 64) := none
  /-- Positions of a VNOP still to issue. -/
  pend : Nat := 0

/-- Results of the vector engine that will land. -/
def liveRecs (k : Core) : List VRec := k.flight.filter fun r => !r.stuck

/-- The records of one command that has not retired: its gives are those still due (R31). -/
def commandRecs (k : Core) (x : Active) : List FRec :=
  let gl := x.rule.isNone && if x.retiring then x.giveL else x.cmd.word.getLsbD 53
  let gr := x.rule.isNone && if x.retiring then x.giveR else x.cmd.word.getLsbD 52
  let rs : List FRec := ((liveRecs k).filter fun r => decide (r.id = x.id)).map fun r => { res := some r }
  match rs.getLast?, x.rq with
  | some r, [] => rs.dropLast ++ [{ r with gl := gl, gr := gr, last := true }]
  | _, q => rs ++ [{ gl := gl, gr := gr, last := true, rq := q.head?, pend := x.pend }]

/-- Commands of VXQ that stand in records: those that have read and written all they do in the stash, and a VNOP that has
issued some of its positions. -/
def recorded (a : Active) : Bool :=
  a.rule.isNone && (a.ran || decide (0 < a.pend)) && decide (a.reads = []) && decide (a.writes = []) && a.halted.isNone

/-- Every record, in issue order: results of retired commands, and then the commands that have not retired. -/
def flightRecs (k : Core) : List FRec :=
  let acts := (getEng k 3).active.filter recorded
  (((liveRecs k).filter fun r => !acts.any fun x => decide (x.id = r.id)).map fun r => ({ res := some r } : FRec))
    ++ acts.flatMap (commandRecs k)

/-- Words 0 and 1 of a record, its value slot and its slot's poison. -/
def frecFields (k : Core) (n : Nat) (r : FRec) : List AField :=
  let remain := match r.res with
    | some v => v.due - k.vpos
    | none => 0
  let kind := match r.res with
    | some v => if v.mask then 1 else 0
    | none => 2
  let reg := (r.res.map fun v => v.reg).getD 0
  let used := r.res.isSome || r.rq.isSome
  let w0 := remain * 2 ^ 59 + kind * 2 ^ 57 + reg * 2 ^ 52 + (if used then n else 0) * 2 ^ 46 + r.gl.toNat * 2 ^ 45 + r.gr.toNat * 2 ^ 44
    + r.last.toNat * 2 ^ 43 + r.rq.isSome.toNat * 2 ^ 42 + r.pend % 4096 * 2 ^ 30 + 1
  let slot := 0xB000 + 256 * n
  [{ off := 0xA200 + 16 * n, size := 8, val := w0 },
   { off := 0xA208 + 16 * n, size := 8, val := ((r.res.map fun v : VRec => v.lanes).getD 0).toNat }]
  ++ (match r.res with
      | some v =>
        if v.mask then [{ off := slot, size := 8, val := v.bits.toNat }]
        else fieldsAt slot 4 (v.vals.map fun p => p.bits.toNat)
          ++ [{ off := 0xA500 + 8 * n, size := 8, val := natOfBits (v.vals.map fun p => p.poison) }]
      | none => [])
  ++ (match r.rq with
      | some q => [{ off := slot, size := 8, val := q.bits.toNat },
                   { off := 0xA500 + 8 * n, size := 8, val := q.poison.toNat }]
      | none => [])

/-- A record read back: the result with its identity as it was kept, if it was. -/
def loadFrec (m : Img) (vpos n : Nat) (kept : Option VRec) : FRec :=
  let w := getN m (0xA200 + 16 * n) 8
  let slot := 0xB000 + 256 * (w / 2 ^ 46 % 64)
  let pz := 0xA500 + 8 * (w / 2 ^ 46 % 64)
  let kind := w / 2 ^ 57 % 4
  let v : VRec :=
    { mask := kind = 1, reg := w / 2 ^ 52 % 32, lanes := BitVec.ofNat 64 (getN m (0xA208 + 16 * n) 8),
      due := vpos + w / 2 ^ 59 % 32,
      vals := if kind = 0 then (List.range 64).map fun i =>
          ({ bits := BitVec.ofNat 32 (getN m (slot + 4 * i) 4), poison := getBit m pz i } : PV 32)
        else [],
      bits := BitVec.ofNat 64 (getN m slot 8), id := (kept.map fun k => k.id).getD 0,
      landed := match kept with
        | some k => k.landed
        | none => decide (w / 2 ^ 43 % 2 = 0),
      stood := kept.any fun k => k.stood }
  { res := if kind ≤ 1 then some v else none, gl := w / 2 ^ 45 % 2 = 1, gr := w / 2 ^ 44 % 2 = 1,
    last := w / 2 ^ 43 % 2 = 1,
    rq := if w / 2 ^ 42 % 2 = 1 then some { bits := BitVec.ofNat 64 (getN m slot 8), poison := getBit m pz 0 } else none,
    pend := w / 2 ^ 30 % 4096 }

/-! ### Waits (R354, R364) -/

/-- Operands of a held instruction as they were read at issue. -/
def itemOperands (e : Ev) : List Nat :=
  match e with
  | .waitf _ _ v t dst el => [v.toNat, (t.map fun x => x - el).getD 0, dst]
  | .spawn _ _ q dst _ _ _ => [q, dst, 0]
  | _ => [0, 0, 0]

/-- A held instruction, or a barrier pending (R364). -/
def itemFields (b : BufItem) : List AField :=
  match b.ev with
  | .bar _ _ _ _ _ => []
  | e =>
    { off := 0x900, size := 8, val := b.word.toNat } :: fieldsAt 0x908 8 (itemOperands e)
      ++ (match e with
          | .spawn _ _ _ _ img _ _ => fieldsAt 0x940 1 (img.map fun x => x.toNat)
          | _ => [])

/-- Bits 0, 1 and 3 of the word at 0x248 and the fields with them. -/
def itemBits (k : Core) (b : BufItem) : Nat :=
  match b.ev with
  | .bar _ _ dst (some n) _ => 1 + (takeOwed k.owed n).isSome.toNat * 2 + n * 2 ^ 8 + dst * 2 ^ 16
  | .finish _ => 0
  | _ => 8

/-- A held instruction read back from its slot word and operands. -/
def loadItem (m : Img) : Ev :=
  let a := getN m 0x908 8
  let b := getN m 0x910 8
  match pick (BitVec.ofNat 64 (getN m 0x900 8)) with
  | some (.waitf _ o) =>
    .waitf (o.imm.toNat % 64) o.fn.toNat (BitVec.ofNat 32 a) (if o.z = 0 then none else some b) o.x.toNat 0
  | some (.spawn _ o) =>
    .spawn false 0 a o.x.toNat ((List.range 64).map fun i => BitVec.ofNat 8 (getN m (0x940 + i) 1)) false (some 0)
  | some (.drain _ o) => .drain (some (o.imm.toNat % 8))
  | some (.drainAll _ _) => .drain none
  | some (.ffence _ o) => .ffence o.x.toNat none
  | _ => .wfi

/-! ### The image of a core's context (R363, R364) -/

/-- The control registers of R21 in index order. -/
def crList : List Nat :=
  [0x00, 0x01, 0x02, 0x03, 0x04, 0x05, 0x06, 0x08, 0x09, 0x10, 0x11, 0x18, 0x19, 0x1A, 0x20, 0x21, 0x22, 0x28]

/-- What a save says of the run: the resume address and status, whether it is Finishing, and the handle. -/
structure SaveArg where
  resume : Nat
  status : Nat
  finishing : Bool
  handle : Nat
  pages : List Nat := []

/-- The instruction that the run waits in, of those issued at its resume level first. -/
def heldItem (k : Core) (status : Nat) : Option BufItem :=
  let l := k.buf ++ k.parked
  (l.find? fun b => b.sup = decide (status % 4 = 1)) <|> l.head?

/-- The core block up to the flags (R364). -/
def blockFields (s : State) (c : Nat) (k : Core) (a : SaveArg) : List AField :=
  let item := heldItem k a.status
  [{ off := 0, size := 8, val := 1 + vmid k * 2 ^ 16 + c * 2 ^ 24 }, { off := 8, size := 8, val := areaSize },
   { off := 0x10, size := 8, val := k.hlc.toNat },
   { off := 0x20, size := 8,
     val := (flightRecs k).length % 64 + (getEng k 4).again.length % 32 * 2 ^ 8 + k.installSeq % 2 ^ 32 * 2 ^ 32 },
   { off := 0x28, size := 8, val := k.edgeSeq },
   { off := 0x240, size := 8, val := natOfBits ((List.range 8).map (rdP k.regs)) },
   { off := 0x248, size := 8,
     val := ((item.map (itemBits k)).getD 0) + k.wake.toNat * 4 + a.finishing.toNat * 16 + k.pops.length % 64 * 2 ^ 32 },
   { off := 0x250, size := 8, val := a.resume }, { off := 0x258, size := 8, val := a.status },
   { off := 0x320, size := 8,
     val := k.rq.length % 64 + natOfBits (k.rq.map fun e => e.val.poison) * 2 ^ 32 }]
  ++ fieldsAt 0x18 1 ((List.range 6).map fun q => (getEng k q).queue.length)
  ++ fieldsAt 0x40 8 ((List.range 64).map fun i => (rdS k.regs i).toNat)
  ++ fieldsAt 0x260 8 (crList.map fun n => (crOf s c k k.regs.cr n).toNat)
  ++ fieldsAt 0x2F0 1 ((List.range 12).map fun i => (getTok k i).length)
  ++ fieldsAt 0x300 1 (k.pops.map fun p => if p.dead then 0 else p.dst)
  ++ fieldsAt 0x340 4 ((List.range 64).map fun i => (getFlag k i).bits.toNat)
  ++ fieldsAt 0x440 8 ((List.range 64).map fun i =>
    let b := SMap.get (fun _ => ({} : Bind)) k.binds i
    if b.kind = 0 then 0 else b.va % 2 ^ 55 + b.kind * 2 ^ 62)
  ++ fieldsAt 0x640 8 (k.rq.map fun e => e.val.bits.toNat)
  ++ (List.range 16).flatMap (fun i => fieldsAt (0x740 + 16 * i) 8 [(getPath k i).path, (getPath k i).ref.toNat])
  ++ fieldsAt 0x840 8 ((List.range 20).map fun i => (getCounter k i).toNat)
  ++ ((item.map itemFields).getD [])

/-- The place of the first command that a port has halted, with the count of its accesses and the fault. -/
def haltedPort (k : Core) (p : Nat) : Option (Nat × Nat × Option PTrap) :=
  let l := (List.range 6).flatMap fun q => (getEng k q).active.zip (List.range (getEng k q).active.length)
  let l := l ++ (List.range 8).flatMap fun h => (getChan k h).zip (List.range (getChan k h).length)
  (l.find? fun e => haltedAt e.1 p).map fun e =>
    (e.2, if p = 2 then e.1.count2 else e.1.count,
     (e.1.halted.toList ++ e.1.halted2.toList).find? fun t => decide (t.port = some p))

/-- The entry of a port or channel (R335, R364). -/
def portFields (off : Nat) (e : Option (Nat × Nat × Option PTrap)) : List AField :=
  match e with
  | none => []
  | some (n, count, t) => fieldsAt off 8 [n, count, (t.map fun t => field t.einfo 0 55).getD 0]

/-- The ports and channels. -/
def portsFields (k : Core) : List AField :=
  ((List.range 9).flatMap fun p => portFields (0xD00 + 32 * p) (haltedPort k p))
    ++ (List.range 8).flatMap fun h =>
      portFields (0xD00 + 32 * (9 + h)) ((getChan k h).head?.map fun x => (0, x.count, x.halted))

/-- The mapping fields of a window's descriptor (R114). -/
def mapFields (d : W512) : W512 :=
  ([(0, 55), (60, 4), (64, 16), (80, 16), (96, 16), (112, 4), (128, 32), (160, 32), (192, 32), (256, 2), (258, 14),
    (272, 14), (286, 14), (300, 1)] ++ if dKind d = 3 then [(448, 55)] else []).foldl
    (fun (m : W512) (p : Nat × Nat) => setField m p.1 p.2 (field d p.1 p.2)) 0

/-- Poison bits of some elements as one field. -/
def poisonField (off size : Nat) (l : List Bool) : AField := { off := off, size := size, val := natOfBits l }

/-- The registers of the engines (R363). -/
def engineFields (g : EngRegs) : List AField :=
  let tb := fun i => SMap.get (fun _ => ({} : PV 16)) g.tb i
  let prod := fun i => SMap.get (fun _ => ({} : PV 64)) g.prod i
  let acc := fun i => SMap.get (fun _ => ({} : PV 32)) g.acc i
  fieldsAt 0x2800 2 ((List.range 128).map fun i => (tb i).bits.toNat)
  ++ [poisonField 0x2900 16 ((List.range 128).map fun i => (tb i).poison),
      poisonField 0x2A00 32 ((List.range 256).map fun i => (prod i).poison),
      poisonField 0x3040 64 ((List.range 264).map fun i => (getActWord g i).poison),
      poisonField 0xA000 256 ((List.range 2048).map fun i => (SMap.get (fun _ => ({} : PV 32)) g.v i).poison)]
  ++ fieldsAt 0x2C00 4 ((List.range 264).map fun i => (getActWord g i).bits.toNat)
  ++ fieldsAt 0x3100 8 ((List.range 64).map fun i => (maskRow g i).toNat)
  ++ fieldsAt 0x3800 8 ((List.range 256).map fun i => (prod i).bits.toNat)
  ++ fieldsAt 0x8000 4 ((List.range 2048).map fun i => (SMap.get (fun _ => ({} : PV 32)) g.v i).bits.toNat)
  ++ fieldsAt 0xA100 8 ((List.range 8).map fun i => (regMask g i).toNat)
  ++ (List.range 8).map (fun t => poisonField (0xE000 + 1024 * t) 1024 ((List.range 8192).map fun i => (acc (8192 * t + i)).poison))
  ++ fieldsAt 0x14000 4 ((List.range 65536).map fun i => (acc i).bits.toNat)

/-- SRCFG's modifiers for the bank's configuration (R192). -/
def sorusConfig (b : Sorus) : Nat := (b.cap - 1) * 2 ^ 12 + (b.dim - 1) * 2 ^ 4 + b.ndot.toNat * 2 ^ 3 + b.policy * 2

/-- The Sorus bank (R363). -/
def sorusFields (b : Sorus) : List AField :=
  let sum := fun i => SMap.get (fun _ => ({} : PV 32)) b.sum i
  fieldsAt 0x3300 4 [sorusConfig b, b.radius.toNat, b.drops.toNat]
  ++ (List.range 256).flatMap (fun e => fieldsAt (0x10000 + 16 * e) 4
    [(srCount b e).toNat, (srRcp b e).toNat, (srValid b e).toNat])
  ++ fieldsAt 0x54000 4 ((List.range 65536).map fun i => (sum i).bits.toNat)
  ++ (List.range 256).map fun e => poisonField (0x94000 + 32 * e) 32 ((List.range 256).map fun i => (sum (256 * e + i)).poison)

/-- Every field of the area. -/
def areaFields (s : State) (c : Nat) (a : SaveArg) : List AField :=
  let k := getCore s c
  let firing := fun n : Nat => (getRestFirings k).contains n
  blockFields s c k a ++ portsFields k
  ++ fieldsAt 0x1000 64 (k.wins.map fun w => (mapFields w.desc).toNat)
  ++ fieldsAt 0x2000 64 ((List.range 32).map fun i => (rdD k.regs i).toNat)
  ++ engineFields k.eng ++ sorusFields k.eng.sorus
  ++ k.rules.flatMap (fun r => ruleFields (0x4000 + 512 * r.1) (firing r.1) r.2)
  ++ ((flightRecs k).zip (List.range 48)).flatMap (fun e => frecFields k e.2 e.1)
  ++ fieldsAt 0x11000 8 a.pages
  ++ (((getEng k 4).again).zip (List.range 16)).flatMap (fun e =>
    cmdFields (0x12000 + 384 * e.2) e.1.cmd e.1.lo e.1.hi a.handle)
  ++ (List.range 6).flatMap fun q =>
    (((getEng k q).queue).zip (List.range 64)).flatMap fun e =>
      cmdFields (0x96000 + 24576 * q + 384 * e.2) e.1
        (if opcodeOf e.1.word = 0x85 then e.1.shortmass.toNat else 0) 0 0
where
  /-- Rules whose firings are in progress and are kept with the context: none that waits on a fault. -/
  getRestFirings (k : Core) : List Nat :=
    (k.engines.flatMap fun e => e.2.active).filterMap fun a => if isHalted a then none else a.rule

/-- The image of an area. -/
def areaImage (s : State) (c : Nat) (a : SaveArg) : Img := (areaFields s c a).foldl putField []

/-! ### Saving (R369, R379) -/

/-- A command has made every access and performed its operation. -/
def actDone (a : Active) : Bool := a.ran && decide (a.reads = []) && decide (a.writes = []) && decide (a.farOut = 0)

/-- The entries that a command pushes at its retirement: CPYIDX's is the one it has consumed. -/
def dueRq (x : Active) : List (PV 64) := if opcodeOf x.cmd.word = 0xB3 then [] else x.rq

/-- Entries of the RQ that are kept for a Sorus command which has changed the bank and has still to retire, so that nothing of
VXQ comes before it (R190). -/
def rqReserved (k : Core) (x : Active) : Nat :=
  if 0xB8 ≤ opcodeOf x.cmd.word then 0
  else (((getEng k 4).active.filter fun y => y.ran && !y.retiring).map fun y => (dueRq y).length).sum

/-- The RQ has no room for the entries that a command pushes (R33). -/
def rqOverflows (k : Core) (x : Active) : Bool :=
  !(dueRq x).isEmpty && decide (32 < k.rq.length + rqReserved k x + (dueRq x).length)

/-- A Sorus command that pushes an entry has not started on the bank, for want of room in the RQ (R190). -/
def waitsRoom (k : Core) (x : Active) : Bool :=
  !x.ran && !x.skip && decide (x.reads = []) && decide (x.farOut = 0) && !rqRoom k &&
    match pick x.cmd.word with
    | some (.srabsReg _ _) => !absNr x
    | some (.srabsDesc _ _) => !absNr x
    | some (.srmerge _ _) => !mergeNr x
    | some (.srmergePair _ _) => !mergeNr x
    | _ => false

/-- A command waits for room in the RQ, at its retirement or before it starts on the Sorus bank. -/
def rqBlocked (k : Core) (x : Active) : Bool := (actDone x && !x.retiring && rqOverflows k x) || waitsRoom k x

/-- Every access that a command has still to make is one of a halted port (R335). -/
def faultHeld (x : Active) : Bool := isHalted x && (x.reads ++ x.writes).all fun it => haltedAt x it.port

/-- A firing of CPYIDX that has not begun: the RQ has no entry for it (R234). -/
def waitsEntry (x : Active) : Bool :=
  x.rule.isSome && decide (opcodeOf x.cmd.word = 0xB3) && decide (x.stage = 0) && !x.skip && decide (x.rq = [])

/-- The engine of an active command can go no further while the engines are frozen: it is halted by a fault, held
at its retirement, or waits for an entry of the RQ. -/
def actHeld (k : Core) (x : Active) : Bool := faultHeld x || x.s2 || x.retiring || rqBlocked k x || (waitsEntry x && k.rq.isEmpty)

/-- Vector commands other than firings have performed the stash accesses that they had begun (R358). -/
def vectorQuiet (k : Core) : Bool :=
  (getEng k 3).active.all fun a => a.rule.isSome || a.halted.isSome || a.s2 || actDone a || decide (0 < a.pend)

/-- The engines have stopped as R356 states: commands and firings in progress have finished, as far as they can. -/
def enginesAtRest (k : Core) : Bool :=
  vectorQuiet k
    && [1, 2, 4].all (fun q => (getEng k q).active.all (actHeld k))
    && k.engines.all fun e => e.2.active.all fun a => (a.rule.isNone || actHeld k a) && decide (a.farOut = 0)

/-- The engines have stopped, and no copy waits for a far access. -/
def enginesStopped (k : Core) : Bool := enginesAtRest k && k.chans.all fun e => e.2.all fun a => decide (a.farOut = 0)

/-- Scalar loads and atomics have returned, and their values or faults stand (R354). -/
def accessesDone (k : Core) : Bool :=
  k.rets.isEmpty && !k.far.any fun e => e.2.any fun it =>
    match it.who with
    | .core _ _ => !it.write || it.atomic
    | .image => true
    | _ => false

/-- A firing that waits on a fault is given up with the context and fires again (R289). -/
def givenUp (a : Active) : Bool := a.rule.isSome && (isHalted a || a.s2)

/-- What is kept of a core's context beside its area. -/
def restOf (c : Nat) (k : Core) (items : List BufItem) : CtxRest :=
  let keep := fun l : List Active => l.filter fun a => !givenUp a
  { core := c, engines := k.engines.map (fun e => (e.1, keep e.2.active)), chans := k.chans.map (fun e => (e.1, keep e.2)),
    early := (getEng k 1).queue.map fun x => x.early, pops := k.pops,
    saqs := (getEng k 4).again, vrecs := (flightRecs k).filterMap fun r => r.res,
    stuck := k.flight.filter fun r => r.stuck, rules := k.rules,
    holds := (k.engines.flatMap fun e => e.2.active.filter givenUp).flatMap fun a => a.holds,
    winAsids := k.wins.map fun w => w.asid, winDescs := k.wins.map fun w => w.desc, items := items, phase := k.phase, owed := k.owed, ptraps := k.ptraps, trapHold := k.trapHold,
    holdStack := k.holdStack, depth := k.depth, tokens := k.tokens, rqSigs := k.rq.map fun e => e.sig, fsig := k.fsig, qsig := k.qsig, chsig := k.chsig,
    chLast := k.chLast, popSig := k.popSig, outs := k.outRests }

/-- Every dirty granule is written back, as SFLUSH does: memory already reads as the windows do (R119). -/
def cleanWindows (k : Core) : Core := { k with wins := k.wins.map fun w => { w with dirty := [] } }

/-- The core holds no context: every item of R15 but s, p and cr.* is at its run-start value, the flags kept (R20), and
the engines are idle (R374, R379). The product table is none of them (R135). -/
def emptyContext (k : Core) : Core :=
  { k with regs := { k.regs with d := [] }, eng := { prod := k.eng.prod }, rules := [], binds := [], wins := [],
           rq := [], pops := [], owed := [], tokens := [], engines := [], chans := [], flight := [], parked := [],
           ptraps := [], trapHold := 0, holdStack := [], held := false, phase := .running }

/-- The engine state of run start (R15, R374), for a run that goes on without the context that its supervisor saved: what the
handler has done to the engines and rules of its own ends, with what it held. -/
def freshEngines (s : State) (c : Nat) : State :=
  let s := looseWindows (dropRules (dropClaims s c) c) c
  releaseHolds (onCore s c fun k =>
    { k with eng := { prod := k.eng.prod }, rules := [], wins := [], rq := [], pops := [], tokens := [], engines := [], chans := [],
             flight := [], ptraps := k.ptraps.filter fun t => t.port.isNone }) (coreHolds (getCore s c))

/-- The address of a FINISH in progress. -/
def finishPc (p : Phase) : Option Nat :=
  match p with
  | .finishing _ _ pc => some pc
  | _ => none

/-- What CTXSAVE says of the run: cr.epc with PPL and PSS, or the FINISH bundle of a Finishing run (R364, R379). -/
def ctxsaveArg (s : State) (c : Nat) : SaveArg :=
  let k := getCore s c
  let st := k.regs.cr.status
  let task := decide (stPPL st ≠ 1)
  let pc := if task then finishPc k.phase else none
  { resume := pc.getD (field k.regs.cr.epc 0 55), status := stPPL st + (stPSS st).toNat * 16, finishing := pc.isSome,
    handle := s.nextHold }

/-- CTXSAVE's and CTXLOAD's block (R217, R219, R344, R379): supervisor level, the area's alignment, each of its pages with W or
R and CC and none a flag page, and no target down; a CTXLOAD finds no context held (R380). -/
def ctxBlock (load : Bool) (f : Frame) (o : OpY) (s : State) : Option Block :=
  if (supBlock s).isSome then supBlock s
  else if !predOk s f then none
  else if load && (cc s).held then some (.trap { cause := 0x03, einfo := s.ctx.word })
  else
    let ea := (eaY s o).toNat
    if ea % 4096 ≠ 0 then accessTrap ea
    else
      firstBlock (((List.range 13).filterMap fun i =>
          if i = 0 then some ea
          else if (ea / 65536 + i) * 65536 < ea + areaSize then some ((ea / 65536 + i) * 65536) else none).map fun a =>
        match translate s (vmid (cc s)) (asidOf s (oldCore s)) a load (!load) false [0] with
        | .ok t =>
          if isFlagPage t.pa then accessTrap a
          else if targetDown s t.pa then some (.trap { cause := 0x11, einfo := BitVec.ofNat 64 (a % 2 ^ 55) })
          else none
        | x => xlBlock 0 (!load) a x)

/-- CTXSAVE (R379). -/
def execCtxsave (f : Frame) (o : OpY) (s : State) : Out :=
  .next (orBlock s (ctxBlock false f o s) (whenPred f s (enbuf s true (.ctxsave (eaY s o).toNat none 0))))

/-- CTXLOAD (R380). -/
def execCtxload (f : Frame) (o : OpY) (s : State) : Out :=
  .next (orBlock s (ctxBlock true f o s) (whenPred f s (enbuf s true (.ctxload (eaY s o).toNat [] 0))))

/-- Where the first byte of an area stands; 0 once its page is gone. -/
def areaPlace (s : State) (c asid ea : Nat) : Nat := (recordPa s c asid ea).getD 0

/-- PERFORM of a CTXSAVE: the image as it stands when the engines have stopped, its granules in ascending order, and
then the core without a context. -/
def performCtxsave (s : State) (c : Nat) (b : BufItem) (ea : Nat) (img : Option (Nat × Img)) (done : Nat) : State :=
  let k := getCore s c
  match img with
  | none =>
    if !k.held then dropHead (warnC s c wFallback) c
    else if !enginesStopped k || !accessesDone k then s
    else
      let s := onCore s c fun k => cleanWindows (abandonSaqs (landTo k.vpos k))
      let m := areaImage s c (ctxsaveArg s c)
      setHead { s with nextHold := s.nextHold + 1 } c { b with ev := .ctxsave ea (some (s.nextHold, m)) 0 }
  | some (h, m) =>
    if areaSize ≤ done then
      let r := { restOf c k k.parked with
        place := areaPlace s c b.asid ea, stamp := BitVec.ofNat 64 (getN m 0x10 8), depth := k.depth - 1, outs := [],
        trapHold := if k.depth ≤ 1 then 0 else k.holdStack.headD 0, holdStack := k.holdStack.tail }
      let s := { s with rests := SMap.insert s.rests h r }
      onCore (looseWindows (dropHead s c) c) c fun k => { emptyContext k with outRests := h :: k.outRests }
    else
      match translate s (vmid k) b.asid (ea + done) false true false [0] with
      | .ok t =>
        let bytes := (List.range 16).map fun i => SMap.get memDefault m (done + i)
        let next := fun s : State => setHead s c { b with ev := .ctxsave ea (some (h, m)) (done + 16) }
        let s := touchLeaves s t true
        if goesOut t then
          if farRoom (getCore s c) then
            next (forward s c (farQueue t.pa) { pa := t.pa, va := ea + done, size := 16, write := true, data := ofBytes 512 bytes,
                                                sig := sigOf s c 0 })
          else s
        else
          let s := writePhys s t.pa bytes false {}
          next (if (t.pa + 16) % 64 = 0 then cleanPz s (t.pa / 64) else s)
      | x =>
        match xlBlock 0 true (ea + done) x with
        | some bl => eventBlock s c b bl
        | none => s

/-! ### Loading (R371, R380) -/

/-- The registers of the engines from an area. -/
def loadEngine (m : Img) : EngRegs :=
  let pv32 := fun (off pz n : Nat) => (List.range n).map fun i =>
    (i, ({ bits := BitVec.ofNat 32 (getN m (off + 4 * i) 4), poison := getBit m pz i } : PV 32))
  let tb := (List.range 128).map fun i =>
    (i, ({ bits := BitVec.ofNat 16 (getN m (0x2800 + 2 * i) 2), poison := getBit m 0x2900 i } : PV 16))
  let prod := (List.range 256).map fun i =>
    (i, ({ bits := BitVec.ofNat 64 (getN m (0x3800 + 8 * i) 8), poison := getBit m 0x2A00 i } : PV 64))
  let cfg := getN m 0x3300 4
  let es : List Nat := List.range 256
  let u32 := fun a : Nat => (BitVec.ofNat 32 (getN m a 4) : W32)
  { v := SMap.setAll (fun _ => {}) [] (pv32 0x8000 0xA000 2048),
    k := SMap.setAll (fun _ => 0) [] ((List.range 8).map fun i => (i, BitVec.ofNat 64 (getN m (0xA100 + 8 * i) 8))),
    acc := SMap.setAll (fun _ => {}) [] (pv32 0x14000 0xE000 65536),
    tb := SMap.setAll (fun _ => {}) [] tb, prod := SMap.setAll (fun _ => {}) [] prod,
    act := SMap.setAll actDefault [] (pv32 0x2C00 0x3040 264),
    mask := SMap.setAll (fun _ => 0xFFFFFFFFFFFFFFFF) []
      ((List.range 64).map fun i => (i, BitVec.ofNat 64 (getN m (0x3100 + 8 * i) 8))),
    sorus :=
      { valid := SMap.setAll (fun _ => false) [] (es.map fun e => (e, getBit m (0x10008 + 16 * e) 0)),
        count := SMap.setAll (fun _ => 0) [] (es.map fun e => (e, u32 (0x10000 + 16 * e))),
        rcp := SMap.setAll (fun _ => 0) [] (es.map fun e => (e, u32 (0x10004 + 16 * e))),
        sum := SMap.setAll (fun _ => {}) [] (pv32 0x54000 0x94000 65536),
        dim := cfg / 2 ^ 4 % 256 + 1, ndot := cfg / 2 ^ 3 % 2 = 1, radius := u32 0x3304,
        cap := cfg / 2 ^ 12 % 256 + 1, policy := cfg / 2 % 4, drops := u32 0x3308 } }

/-- The control registers from an area under its resume status; read-only ones but cr.step are left (R368). -/
def loadCr (s : State) (cr : Cr) (m : Img) : Cr :=
  let get := fun i : Nat => (BitVec.ofNat 64 (getN m (0x260 + 8 * i) 8) : W64)
  let cr := (crList.zip (List.range 18)).foldl (fun (cr : Cr) (e : Nat × Nat) =>
    match e.1 with
    | 0x00 => cr
    | 0x10 => { cr with asid := lowBits (get e.2) 12 }
    | 0x21 => { cr with step := get e.2 }
    | n => crWrite s cr n (get e.2)) cr
  let st : W64 := BitVec.ofNat 64 (getN m 0x258 8)
  { cr with status := mkStatus (stPL st % 2) (stPPL (get 0) % 2) (stSS st) (stPSS (get 0)) }

/-- The wait that the core block describes, with what was kept of its entry. -/
def loadWait (m : Img) (kept : List BufItem) (sup : Bool) (depth : Nat) : List BufItem :=
  let w := getN m 0x248 8
  let slot := w / 2 ^ 8 % 256
  let word : W64 := BitVec.ofNat 64 (getN m 0x900 8)
  let dst := w / 2 ^ 16 % 64
  if w % 2 = 1 then
    let it := (kept.find? (isBarAt slot)).getD { holds := true, sup := sup, depth := depth }
    { it with ev := .bar 0 0 dst (some slot) [] } :: kept.filter fun b => !isBarAt slot b
  else if w / 8 % 2 = 1 then
    let it := (kept.find? fun b => decide (b.word = word)).getD { slot := 1, word := word, holds := true, sup := sup, depth := depth }
    { it with ev := loadItem m, began := true } :: kept.filter fun b => decide (b ≠ it)
  else kept

/-- The descriptor of a window from an area's mapping fields, with the open axis of the descriptor kept of it, or of the rule's
that it stands on; one of kind 3 is open (R120, R418). -/
def loadMapping (d : W512) (kept : List W512) : W512 :=
  (kept.find? fun x => sameMapping x d).getD (if dKind d = 3 then setField d 116 1 1 else d)

/-- The windows of an area: each is under the ASID that was kept of it, else the run's, and one of a rule's descriptors
stands on the slice of that rule's last firing (R418). -/
def loadWins (m : Img) (asid : Nat) (asids : List Nat) (descs : List W512) (rules : SMap Rule) : List Win :=
  (List.range 64).filterMap fun i =>
    let d : W512 := BitVec.ofNat 512 (getN m (0x1000 + 64 * i) 64)
    if d = 0 then none
    else
      let r := rules.find? fun r => r.2.cmd.descs.any fun x => hasWindow x && sameMapping x d
      some { desc := loadMapping d (descs ++ (r.map fun r => r.2.cmd.descs).getD []), asid := asids.getD i asid, rule := r.map (fun r => r.1), slice := (r.map fun r => r.2.last).getD 0 }

/-- A port whose fault is no longer pending retries its access (R335). -/
def unhalt (traps : List PTrap) (a : Active) : Active :=
  let a := { a with s2 := false }
  let stands := fun t : Option PTrap => t.filter fun t => traps.contains t
  { a with halted := stands a.halted, halted2 := stands a.halted2 }

/-- Active commands of VXQ: those that were kept, or as the records describe them. -/
def loadVector (vpos : Nat) (kept : List Active) (recs : List FRec) : List Active :=
  let lasts := recs.filter fun r => r.last
  let kept := kept.map fun a => { a with pos := vpos - 1 }
  if (kept.filter recorded).length = lasts.length then kept
  else
    (lasts.zip (List.range lasts.length)).map fun (r, i) =>
      { id := i + 1, cmd := { word := BitVec.ofNat 64 (r.gl.toNat * 2 ^ 53 + r.gr.toNat * 2 ^ 52 + 0x88 * 2 ^ 56) },
        stage := if 0 < r.pend then 1 else 2, ran := r.pend = 0, pend := r.pend, pos := vpos - 1, rq := r.rq.toList }

/-- A core's engines from an area. -/
def loadEngines (m : Img) (r : CtxRest) (vpos : Nat) (recs : List FRec) : SMap Engine :=
  let counts := getN m 0x18 8
  let saqs := (List.range (getN m 0x20 8 / 2 ^ 8 % 32)).map fun i =>
    let off := 0x12000 + 384 * i
    let c := loadCmd m off
    { (r.saqs.getD i { stage := 1, appending := c.word.getLsbD 11, slice := getN m (off + 24) 8 - 1 }) with
      cmd := c, lo := getN m (off + 16) 8 % 2 ^ 40, hi := getN m (off + 24) 8 % 2 ^ 40 }
  let acts := fun q : Nat => (SMap.get (fun _ => []) r.engines q).map (unhalt r.ptraps)
  let early := fun q i : Nat => if q = 1 ∧ r.early.length = counts / 256 % 256 then r.early.getD i [] else []
  (List.range 6).map fun q =>
    (q, { queue := (List.range (counts / 256 ^ q % 256)).map fun i =>
            { loadCmd m (0x96000 + 24576 * q + 384 * i) with early := early q i },
          active := if q = 3 then loadVector vpos (acts 3) recs else acts q,
          again := if q = 4 then saqs else [] })

/-- The highest number of an active command. -/
def maxAct (l : List Active) : Nat := l.foldl (fun n a => max n a.id) 0

/-- The rule table of an area; a rule whose source is not LIVE is a free slot (R380), once a firing of it that is in progress
has retired (R281). -/
def loadRules (s : State) (c : Nat) (m : Img) (r : CtxRest) : SMap Rule :=
  let firing := (r.engines.flatMap fun e => e.2).filterMap fun a => a.rule
  let l := (List.range 32).map fun n =>
    let x := loadRule s c m (0x4000 + 512 * n) (SMap.get (fun _ => {}) r.rules n)
    (n, if firing.contains n then { x with skip := false } else if (getOT s x.srcPa).st ≠ 1 then {} else x)
  SMap.setAll (fun _ => {}) [] l

/-- The core as the area gives it. -/
def loadCore (s : State) (m : Img) (r : CtxRest) (rules : SMap Rule) (k : Core) : Core :=
  let cr := loadCr s k.regs.cr m
  let word := getN m 0x248 8
  let resume := getN m 0x250 8 % 2 ^ 55 / 32 * 32
  let sup := decide (stPL cr.status = 1)
  let fin := decide (word / 16 % 2 = 1)
  let recs := (List.range (getN m 0x20 8 % 64)).map fun i => loadFrec m k.vpos i (r.vrecs[i]?)
  let depth := if sup then r.depth else 0
  let items := loadWait m r.items sup depth
  let items := if fin && !(items.any fun b => match b.ev with
    | .finish _ => true
    | _ => false) then items ++ [{ ev := .finish false, holds := true }] else items
  let nrq := getN m 0x320 8 % 64
  let rq := (List.range nrq).map fun i =>
    ({ val := { bits := BitVec.ofNat 64 (getN m (0x640 + 8 * i) 8), poison := getBit m 0x324 i },
       sig := r.rqSigs.getD i {} } : RqEntry)
  let toks := (List.range 12).map fun i =>
    let n := getN m (0x2F0 + i) 1
    let l := SMap.get (fun _ => []) r.tokens i
    (i, if l.length = n then l else List.replicate n {})
  let engines := loadEngines m r k.vpos recs
  let phase := match r.phase with
    | .finishing st fail pc => if fin then Phase.finishing st fail resume else .finishing st fail pc
    | _ => if fin then .finishing 1 false resume else .running
  { k with
    regs := { s := SMap.setAll (fun _ => 0) [] (((List.range 64).map fun i => (i, BitVec.ofNat 64 (getN m (0x40 + 8 * i) 8))).tail),
              p := SMap.setAll (fun _ => false) [] (((List.range 8).map fun i => (i, getBit m 0x240 i)).tail),
              d := SMap.setAll (fun _ => 0) [] ((List.range 32).map fun i => (i, BitVec.ofNat 512 (getN m (0x2000 + 64 * i) 64))),
              cr := cr },
    eng := loadEngine m, pc := if fin then va55 resume 32 else resume, phase := phase, held := true,
    f := SMap.setAll (fun _ => {}) [] ((List.range 64).map fun i => (i, ({ bits := BitVec.ofNat 32 (getN m (0x340 + 4 * i) 4) } : PV 32))),
    fsig := r.fsig, rules := rules, installSeq := getN m 0x24 4,
    wins := loadWins m (field cr.asid 0 12) r.winAsids r.winDescs rules, rq := rq,
    pops := (List.range (word / 2 ^ 32 % 64)).map fun i =>
      { dst := getN m (0x300 + i) 1, depth := (r.pops.map fun p => p.depth).getD i 0 },
    owed := if word / 2 % 2 = 1 ∧ r.owed = [] then [(word / 2 ^ 8 % 256, 0, {})] else r.owed,
    tokens := SMap.setAll (fun _ => []) [] toks, engines := engines,
    chans := r.chans.map (fun e => (e.1, e.2.map (unhalt r.ptraps))),
    actSeq := max k.actSeq (max (maxAct (engines.flatMap fun e => e.2.active))
      (max (maxAct (r.chans.flatMap fun e => e.2)) (maxAct r.saqs))) + 1,
    flight := (recs.filterMap fun x => x.res) ++ r.stuck,
    buf := items.filter fun b => b.sup = sup && b.depth = depth, depth := depth,
    parked := items.filter fun b => !(b.sup = sup && b.depth = depth),
    edgeSeq := getN m 0x28 8 % 2 ^ 40,
    paths := SMap.setAll (fun _ => {}) [] ((List.range 16).map fun i =>
      (i, { path := getN m (0x740 + 16 * i) 8, ref := BitVec.ofNat 64 (getN m (0x748 + 16 * i) 8) })),
    counters := SMap.setAll (fun _ => 0) k.counters ((List.range 20).map fun i => (i, BitVec.ofNat 64 (getN m (0x840 + 8 * i) 8))),
    qsig := r.qsig, chsig := r.chsig, chLast := r.chLast, popSig := r.popSig, ptraps := r.ptraps,
    trapHold := if sup then r.trapHold else 0, holdStack := if sup then r.holdStack else [],
    wake := word / 4 % 2 = 1 || !r.ptraps.isEmpty, stall := .none, waited := 0, stepDue := none, save := none,
    outRests := k.outRests ++ r.outs }

/-- The bindings of an area, each bound flag with its counter's present value (R286, R371). -/
def loadBinds (s : State) (c : Nat) (m : Img) (k : Core) : Core :=
  (List.range 64).foldl (fun k i =>
    let w := getN m (0x440 + 8 * i) 8
    let kind := w / 2 ^ 62
    match if kind = 0 then none else recordPa s c (field k.regs.cr.asid 0 12) (w % 2 ^ 55) with
    | some pa => if (getOT s pa).st = 1 then bindFlag s k i kind (w % 2 ^ 55) pa else k
    | none => k) { k with binds := [] }

/-- The feed links of loaded rules name this core (R284). -/
def loadFeeds (s : State) (c : Nat) (rules : SMap Rule) : State :=
  rules.foldl (fun s r => match r.2.feed with
    | some (_, d) => if (getOT s d).st = 1 then putOT s d { getOT s d with feed := some (c, r.1) } else s
    | none => s) s

/-- The holds of a context pass to the core; those of a firing that fires again are released with the old firing, and a
context that has been loaded before takes its holds again. -/
def takeRest (s : State) (h : Nat) : State :=
  let r := getRest s h
  if h = 0 then s
  else if r.used then (restHolds { r with holds := [] }).foldl holdFrame s
  else
    let s := { s with rests := SMap.insert s.rests h { r with used := true } }
    let s := eachCore s fun _ k => { k with outRests := k.outRests.filter fun x => decide (x ≠ h) }
    releaseHolds s r.holds

/-- The handle of what is kept of an area that stands at a physical address, the newest first; of a copy of the area, by the
core and the stamp that it holds (assumption 21). -/
def findRest (s : State) (pa : Nat) (m : Img) : Nat :=
  let l := s.rests.reverse.filter fun e =>
    decide (e.2.core = getN m 3 1) && decide (e.2.stamp.toNat = getN m 0x10 8)
  (((l.find? fun e => decide (e.2.place = pa)) <|> l.head?).map fun e => e.1).getD 0

/-- A context is loaded into a core that holds none, with what is kept of it under a handle. -/
def loadContext (s : State) (c : Nat) (m : Img) (h : Nat) : State :=
  let r := if (s.rests.any fun e => decide (e.1 = h)) then getRest s h else {}
  let s := if (s.rests.any fun e => decide (e.1 = h)) then takeRest s h else s
  let rules := loadRules s c m r
  let s := loadFeeds (onCore s c (loadCore s m r rules)) c rules
  onCore s c fun k => bump (loadBinds s c m k) 66 1

/-- The area may be loaded (R380). -/
def areaOk (s : State) (c : Nat) (m : Img) : Bool :=
  let k := getCore s c
  let x := getFctx s (vmid k)
  let counts := getN m 0x18 8
  let cmds := (List.range 6).flatMap fun q =>
    (List.range (counts / 256 ^ q % 256)).map fun i => getN m (0x96000 + 24576 * q + 384 * i + 8) 8 / 2 ^ 32 % 4096
  let saqs := (List.range (getN m 0x20 8 / 2 ^ 8 % 32)).map fun i => getN m (0x12000 + 384 * i + 8) 8 / 2 ^ 32 % 4096
  let rules := (List.range 32).filter fun n => decide (getN m (0x4000 + 512 * n + 24) 8 / 2 ^ 40 % 8 ≠ 0)
  let asids := (getN m (0x260 + 8 * 9) 8 % 4096 :: cmds) ++ saqs
    ++ rules.map fun n => getN m (0x4000 + 512 * n + 8) 8 / 2 ^ 32 % 4096
  decide (getN m 0 2 = 1) && decide (getN m 8 8 = areaSize) && decide (getN m 2 1 = vmid k)
    && asids.all (asidInRange x)
    && rules.all fun n =>
      match recordPa s c (getN m (0x4000 + 512 * n + 8) 8 / 2 ^ 32 % 4096) (getN m (0x4000 + 512 * n + 16) 8) with
      | some pa => decide ((getOT s pa).st = 0) || decide ((getOT s pa).vf = vmid k)
      | none => true

/-- PERFORM of a CTXLOAD: the other slots of its bundle act first, then the granules of the area are read in ascending order,
and after the checks it is loaded. An area of which a part was destroyed is refused as one that fails the checks of R380
(R381; assumption 71). -/
def performCtxload (s : State) (c : Nat) (b : BufItem) (ea : Nat) (img : Img) (done : Nat) : State :=
  let k := getCore s c
  let waits := k.buf.any fun x => match x.ev with
    | .ctxload _ _ _ => false
    | _ => true
  if waits then onCore s c fun k => { k with buf := k.buf.tail ++ k.buf.take 1 }
  else if imagePending k then s
  else if areaSize ≤ done then
    if !accessesDone k then s
    else if areaOk s c img then
      loadContext (onCore s c fun k => { k with buf := [] }) c img (findRest s (areaPlace s c b.asid ea) img)
    else eventBlock s c b (accessFull (BitVec.ofNat 64 ea))
  else
    match translate s (vmid k) b.asid (ea + done) true false false [0] with
    | .ok t =>
      if needsRepair s t.pa then s
      else
        let s := touchLeaves s t false
        if goesOut t then
          if farRoom k then forward s c (farQueue t.pa) { pa := t.pa, va := ea + done, size := 16, who := .image } else s
        else
          let r := readPhys s t.pa 16 {}
          if r.2.2 then eventBlock r.1 c b (accessFull (BitVec.ofNat 64 ea))
          else setHead r.1 c { b with ev := .ctxload ea (pokeBytes img done r.2.1) (done + 16) }
    | x =>
      match xlBlock 0 false (ea + done) x with
      | some bl => eventBlock s c b bl
      | none => s

end Sys2Proof.Machine
end

