-- ==== Sys2Proof/Machine/Flags.lean ====
section
/-! DEFINITION. The warning bits that a bundle sets as it issues, judged by its words alone: reserved fields (R47, R63,
R73 to R78), and the fallbacks of R62 for token and install bits, widths, extension marks, rounding modes and
policies. -/

namespace Sys2Proof.Machine

open Sys2Proof

/-! ### Fields of the formats: lowest bit and width (R48 to R54) -/

/-- dst of formats A and I, and data of M. -/
abbrev fDst : Nat × Nat := (41, 6)
/-- a of formats A and I, and base of M. -/
abbrev fA : Nat × Nat := (35, 6)
/-- b of format A, and index of M. -/
abbrev fB : Nat × Nat := (29, 6)
/-- width of format A. -/
abbrev fWidth : Nat × Nat := (17, 2)
/-- cond of format C. -/
abbrev fCond : Nat × Nat := (44, 3)
/-- a of format C. -/
abbrev fCa : Nat × Nat := (38, 6)
/-- b of format C. -/
abbrev fCb : Nat × Nat := (32, 6)
/-- x of format Y. -/
abbrev fX : Nat × Nat := (41, 6)
/-- y of format Y. -/
abbrev fY : Nat × Nat := (35, 6)
/-- z of format Y. -/
abbrev fZ : Nat × Nat := (29, 6)
/-- fn of format Y. -/
abbrev fFn : Nat × Nat := (20, 9)
/-- imm20 of format Y. -/
abbrev fImm : Nat × Nat := (0, 20)
/-- vd of format V, and dA of E. -/
abbrev fVd : Nat × Nat := (42, 5)
/-- va of format V, and dB of E. -/
abbrev fVa : Nat × Nat := (37, 5)
/-- vb of format V, and dC of E. -/
abbrev fVb : Nat × Nat := (32, 5)
/-- vc of format V. -/
abbrev fVc : Nat × Nat := (27, 5)
/-- type of format V. -/
abbrev fTy : Nat × Nat := (23, 4)
/-- The lane mask in imm12<11:9>. -/
abbrev fMask : Nat × Nat := (9, 3)
/-- acc of format E. -/
abbrev fAcc : Nat × Nat := (29, 3)
/-- chan of format E. -/
abbrev fChan : Nat × Nat := (26, 3)
/-- fn of format E. -/
abbrev fEfn : Nat × Nat := (20, 6)

/-- The three registers of format A. -/
def regA : List (Nat × Nat) := [fDst, fA, fB]

/-- Format I: imm32 is reserved when L is set. -/
def immBits (lit : Bool) : List (Nat × Nat) := [fDst, fA, (33, 2), (32, 1)] ++ if lit then [] else [(0, 32)]

/-- A vector form: fn, rnd and ovf beside its own fields. -/
def plain (l : List (Nat × Nat)) : List (Nat × Nat) := [(18, 5), (12, 6)] ++ l

/-- A vector form whose mask bits are reserved in stream form (R168). -/
def vec (f : Frame) (l mask : List (Nat × Nat)) : List (Nat × Nat) := plain (l ++ if f.inst then [] else mask)

/-- The bits of a slot's body that its instruction uses (R47). -/
def usedBits : Instr → List (Nat × Nat)
  | .add _ _ => regA ++ [fWidth]
  | .sub _ _ => regA ++ [fWidth]
  | .mul _ _ => regA ++ [fWidth]
  | .and _ _ => regA ++ [fWidth]
  | .or _ _ => regA ++ [fWidth]
  | .xor _ _ => regA ++ [fWidth]
  | .andn _ _ => regA ++ [fWidth]
  | .shl _ _ => regA ++ [fWidth]
  | .shr _ _ => regA ++ [fWidth]
  | .sra _ _ => regA ++ [fWidth]
  | .ror _ _ => regA ++ [fWidth]
  | .mulh _ _ => regA ++ [fWidth, (19, 2)]
  | .div _ _ => regA ++ [fWidth, (19, 2)]
  | .rem _ _ => regA ++ [fWidth, (19, 2)]
  | .min _ _ => regA ++ [fWidth, (19, 2)]
  | .max _ _ => regA ++ [fWidth, (19, 2)]
  | .clz _ _ => [fDst, fA, fWidth, (19, 3)]
  | .ctz _ _ => [fDst, fA, fWidth, (19, 3)]
  | .popc _ _ => [fDst, fA, fWidth, (19, 3)]
  | .brev _ _ => [fDst, fA, fWidth, (19, 3)]
  | .bswap _ _ => [fDst, fA, fWidth, (19, 3)]
  | .sel _ _ => regA ++ [fWidth, (19, 3)]
  | .setc _ o => (if o.fn.toNat % 8 = 6 then [fDst] else regA) ++ [fWidth, (19, 3)]
  | .pand _ _ => [(41, 3), (35, 3), (29, 3), fWidth, (19, 2)]
  | .por _ _ => [(41, 3), (35, 3), (29, 3), fWidth, (19, 2)]
  | .pxor _ _ => [(41, 3), (35, 3), (29, 3), fWidth, (19, 2)]
  | .pnot _ _ => [(41, 3), (35, 3), fWidth, (19, 2)]
  | .cmp _ o => (if o.cond = 6 then [fCond] else [fCond, fCa, fCb]) ++ [(29, 3)]
  | .addi _ o => immBits o.lit
  | .andi _ o => immBits o.lit
  | .ori _ o => immBits o.lit
  | .xori _ o => immBits o.lit
  | .li _ o => immBits o.lit
  | .lih _ o => immBits o.lit
  | .shli _ o => [fDst, fA, (33, 2), (8, 2), (0, if o.sel = 1 then 5 else 6)]
  | .shri _ o => [fDst, fA, (33, 2), (8, 2), (0, if o.sel = 1 then 5 else 6)]
  | .srai _ o => [fDst, fA, (33, 2), (8, 2), (0, if o.sel = 1 then 5 else 6)]
  | .lea _ _ => [fDst, fA, fB, (27, 2), (0, 20)]
  | .ld _ _ => [fDst, fA, fB, (27, 2), (24, 3), (20, 4), (0, 20)]
  | .st _ _ => [fDst, fA, fB, (27, 2), (24, 3), (20, 4), (0, 20)]
  | .amo _ _ => [fDst, fA, fB, (27, 2), (24, 3), (20, 4), (0, 20)]
  | .cas _ _ => [fDst, fA, fB, (24, 3), (20, 4), (0, 20)]
  | .amobnd _ _ => [fDst, fA, fB, (24, 3), (20, 4), (0, 20)]
  | .pref _ _ => [(41, 2), fA, fB, (27, 2), (0, 20)]
  | .br _ o => (if o.cond = 6 then [fCond] else [fCond, fCa, fCb]) ++ [(0, 32)]
  | .bp _ _ => [fCond, (38, 3), (0, 32)]
  | .jmp _ _ => [(0, 32)]
  | .call _ _ => [(0, 32)]
  | .loop _ _ => [fCa, (0, 32)]
  | .ffence _ _ => [fX]
  | .drain _ _ => [fFn, (0, 3)]
  | .drainAll _ _ => [fFn]
  | .ifence _ _ => []
  | .biasflipHost _ _ => [fY, fFn, fImm]
  | .biasflipDev _ _ => [fY, fFn, fImm]
  | .jmpr _ _ => [fY]
  | .callr _ _ => [fY]
  | .ret _ _ => []
  | .eret _ _ => []
  | .wfi _ _ => []
  | .yield _ _ => []
  | .fset _ o => [fX, fFn] ++ (if o.fn = 1 then [fImm] else [fY])
  | .fadd _ o => [fX, fFn] ++ (if o.fn = 1 then [fImm] else [fY])
  | .frd _ _ => [fX, fY, fFn]
  | .fbind _ _ => [fX, fY, fFn]
  | .fbindNone _ _ => [fX, fFn]
  | .barTeam _ _ => [fX, fY, fFn, fImm]
  | .barDie _ _ => [fX, fY, fFn, fImm]
  | .barPkg _ _ => [fX, fY, fFn, fImm]
  | .barPod _ _ => [fX, fY, fFn, fImm]
  | .rpop _ _ => [fX]
  | .squash _ _ => [(0, 2)]
  | .waitf _ _ => [fX, fY, fZ, fFn, (0, 6)]
  | .spawn _ _ => [fX, fY, fZ, fFn, fImm]
  | .spawnNb _ _ => [fX, fY, fZ, fFn, fImm]
  | .finish _ _ => [fFn]
  | .finishFail _ _ => [fFn]
  | .joinadd _ _ => [fY, (0, 16)]
  | .tagnew _ _ => [fX, fY, fZ, fFn]
  | .tagnewRoot _ _ => [fX, fZ, fFn]
  | .cancel _ _ => [fY, fFn]
  | .cancelWait _ _ => [fY, fFn]
  | .self _ _ => [fX, fFn]
  | .slopen _ _ => [fX, fY, fFn]
  | .slopenFeed _ _ => [fX, fY, fFn, (0, 5)]
  | .slpub _ _ => [fX, fY, fZ, fFn]
  | .sltent _ _ => [fX, fY, fZ, fFn]
  | .slcommit _ _ => [fX, fY, fZ, fFn]
  | .slreject _ _ => [fX, fY, fZ, fFn]
  | .slfork _ _ => [fX, fY, fZ, fFn]
  | .sldrop _ _ => [fX, fY, fFn]
  | .slquery _ _ => [fX, fY, fFn]
  | .revoke _ o => [fFn, (0, 6)] ++ (if o.imm.getLsbD 5 then [fZ] else [])
  | .resume _ _ => [fFn, (0, 5)]
  | .rskip _ _ => [fFn, (0, 5)]
  | .rpause _ _ => [fFn, (0, 5)]
  | .rquery _ _ => [fX, fFn, (0, 5)]
  | .dld _ _ => [(41, 5), fY, fImm]
  | .dst _ _ => [(41, 5), fY, fImm]
  | .dset _ _ => [(41, 5), fY, fFn]
  | .dget _ _ => [fX, (35, 5), fFn]
  | .dadv _ _ => [(41, 5), fImm]
  | .sflush _ _ => [(41, 5), fFn]
  | .sflushUnmap _ _ => [(41, 5), fFn]
  | .sdrop _ _ => [(41, 5)]
  | .stepmark _ _ => [fY]
  | .stepend _ _ => [fX, fY, fImm]
  | .edgerd _ _ => [fX, fY, fZ, fFn]
  | .vadd f _ => vec f [fVd, fVa, fVb, fTy] [fMask]
  | .vsub f _ => vec f [fVd, fVa, fVb, fTy] [fMask]
  | .vmul f _ => vec f [fVd, fVa, fVb, fTy] [fMask]
  | .vmin f _ => vec f [fVd, fVa, fVb, fTy] [fMask]
  | .vmax f _ => vec f [fVd, fVa, fVb, fTy] [fMask]
  | .vfma f _ => vec f [fVd, fVa, fVb, fVc, fTy] [fMask]
  | .vfms f _ => vec f [fVd, fVa, fVb, fVc, fTy] [fMask]
  | .vabs f _ => vec f [fVd, fVa, fTy] [fMask]
  | .vneg f _ => vec f [fVd, fVa, fTy] [fMask]
  | .vrcp f _ => vec f [fVd, fVa, fTy] [fMask]
  | .vrsqrt f _ => vec f [fVd, fVa, fTy] [fMask]
  | .vsqrt f _ => vec f [fVd, fVa, fTy] [fMask]
  | .vexp2 f _ => vec f [fVd, fVa, fTy] [fMask]
  | .vlog2 f _ => vec f [fVd, fVa, fTy] [fMask]
  | .vcvt f _ => vec f [fVd, fVa, fTy] [fMask]
  | .vcmp f _ => vec { f with inst := false } [(42, 3), fVa, fVb, fTy] [fMask]
  | .vsel f _ => vec f [fVd, fVa, fVb, fVc] [fMask]
  | .vand f _ => vec f [fVd, fVa, fVb] [fMask]
  | .vor f _ => vec f [fVd, fVa, fVb] [fMask]
  | .vxor f _ => vec f [fVd, fVa, fVb] [fMask]
  | .vshl f o => vec f ([fVd, fVa, fTy] ++ if o.fn = 1 then [(0, 5)] else [fVb]) [fMask]
  | .vshr f o => vec f ([fVd, fVa, fTy] ++ if o.fn = 1 then [(0, 5)] else [fVb]) [fMask]
  | .vsra f o => vec f ([fVd, fVa, fTy] ++ if o.fn = 1 then [(0, 5)] else [fVb]) [fMask]
  | .vmov f o => vec f ([fVd, fTy] ++ if o.fn = 1 then [(0, 9)] else [fVa]) [fMask]
  | .vred _ _ => plain [fVd, fVa, fTy, fMask]
  | .vscan _ _ => plain [fVd, fVa, fTy, fMask]
  | .vperm _ _ => plain [fVd, fVa, fVb, fMask]
  | .vbcast _ _ => plain [fVd, fVa, fTy, fMask, (0, 8)]
  | .viota _ _ => plain [fVd, fTy, fMask]
  | .vins _ _ => plain [fVd, fVa, fTy, (0, 8)]
  | .vext _ _ => plain [fVa, fTy, (0, 8)]
  | .kop _ o => plain ([(42, 3), (37, 3)] ++ if o.fn = 4 then [] else [(32, 3)])
  | .kpopc _ _ => plain [(37, 3)]
  | .vld _ _ => plain [fVd, fVa, (0, 12)]
  | .vst _ _ => plain [fVa, fVb, (0, 12)]
  | .vldg _ _ => plain [fVd, fVa, fMask]
  | .vsts _ _ => plain [fVa, fVb, fMask]
  | .vshort _ _ => plain [fVd, fVa, fVb, fTy]
  | .vrand _ _ => plain [fVd, fVa, fVb, fTy, fMask]
  | .vtopk _ _ => plain [fVd, fVa, fVb, fTy, fMask, (0, 7)]
  | .vnop _ _ => plain [(0, 12)]
  | .mma _ _ => [fVd, fVa, fAcc, (0, 1)]
  | .mzero _ _ => [fAcc]
  | .mtbl _ _ => [fVd, fAcc, fEfn]
  | .mtblProd _ _ => [fAcc, fEfn, (0, 3)]
  | .epi _ _ => [fVd, fVa, fVb, fAcc, (10, 10)]
  | .epired _ _ => [fVd, fVa, fVb, fAcc, fEfn, (4, 16)]
  | .epifn _ _ => [fVd]
  | .cpy _ _ => [fVd, fVa, fChan, (0, 1)]
  | .cpyidx _ _ => [fVd, fVa, fChan, (0, 1)]
  | .cpyg _ _ => [fVd, fVa, fVb, fChan, (0, 1)]
  | .cpys _ _ => [fVd, fVa, fVb, fChan, (0, 1)]
  | .cpyfill _ _ => [fVd, fChan, (0, 1)]
  | .cpymir _ _ => [fVa, fChan]
  | .saq _ o => [fVd, fVa, fVb, (10, 10), (3, 1)] ++ (if o.mods.getLsbD 10 then [(4, 6)] else [])
  | .samask _ _ => [fVd]
  | .srcfg _ _ => [fVd, (1, 19)]
  | .srabsReg _ _ => [fVd, fEfn, (0, 1)]
  | .srabsDesc _ _ => [fVd, fEfn, (0, 1)]
  | .srmerge _ _ => [fEfn, (16, 1)]
  | .srmergePair _ _ => [fEfn, (0, 17)]
  | .srread _ o => [fEfn, (0, 3)] ++ (if o.mods.getLsbD 0 then [fVd] else []) ++ (if o.mods.getLsbD 1 then [fVa] else [])
      ++ (if o.mods.getLsbD 2 then [fVb] else [])
  | .srset _ _ => [fVd, fEfn, (0, 20)]
  | .srclr _ _ => [fEfn, (0, 1)]
  | .trap _ _ => [fImm]
  | .brk _ _ => [fImm]
  | .crd _ _ => [fX, (0, 12)]
  | .cwr _ _ => [fY, (0, 12)]
  | .ctxsave _ _ => [fY, fImm]
  | .ctxload _ _ => [fY, fImm]
  | .perfrd _ _ => [fX, (0, 8)]
  | _ => []

/-- A number with the bits of some fields set. -/
def bitsMask (l : List (Nat × Nat)) : Nat := l.foldl (fun m e => m ||| ((2 ^ e.2 - 1) * 2 ^ e.1)) 0

/-- A field that the instruction does not use is not zero. -/
def reservedSet (i : Instr) (w : W64) : Bool :=
  if opcodeOf w = 0 then decide (w ≠ 0)
  else decide (w.toNat % 2 ^ 47 &&& bitsMask (usedBits i) ≠ w.toNat % 2 ^ 47)

/-! ### Rounding modes and policies (R62, R81, R150, R153) -/

/-- `.wrap` on a form that has it. -/
def vWraps (op : Nat) (o : OpV) : Bool := (decide (0x60 ≤ op) && decide (op ≤ 0x62) || op = 0x67 || op = 0x68) && o.fn = 1

/-- The form rounds: its mode is consulted. -/
def vRounds (op : Nat) (o : OpV) : Bool :=
  if op = 0x6E then true
  else if op = 0x78 ∨ op = 0x79 then o.fn = 0 && isFloat o.type.toNat
  else (decide (0x60 ≤ op) && decide (op ≤ 0x64) || decide (0x69 ≤ op) && decide (op ≤ 0x6D)) && isFloat o.type.toNat

/-- The form can overflow: its policy is consulted. -/
def vOverflows (op : Nat) (o : OpV) : Bool :=
  let float := isFloat o.type.toNat
  if op = 0x6E then true
  else if op = 0x78 ∨ op = 0x79 then o.fn = 0
  else if 0x60 ≤ op ∧ op ≤ 0x62 then float || !vWraps op o
  else if op = 0x67 ∨ op = 0x68 then !float && !vWraps op o
  else op = 0x63 || op = 0x64 || op = 0x69 || op = 0x6A || op = 0x6C || op = 0x6D

/-- A policy that a destination type does not have: INF with e4m3, INF or NAN with an integer (R81). -/
def policyFalls (t pol : Nat) : Bool :=
  (decide (pol = 1) && decide (t = 3)) || ((decide (pol = 1) || decide (pol = 2)) && !isFloat t)

/-- Warnings of a vector form. DESIGN CHOICE: non-zero rnd or ovf on a form with no arithmetic is a fallback of R62, not a
reserved field with W_RESERVED. -/
def vecFalls (op : Nat) (o : OpV) : Nat :=
  (vWraps op o && isFloat o.type.toNat).toNat
    + (decide (o.rnd ≠ 0) && !vRounds op o).toNat
    + (if vOverflows op o then policyFalls o.type.toNat o.ovf.toNat else decide (o.ovf ≠ 0)).toNat

/-- `.w` on an instruction that has no 32-bit form (R62, R106). -/
def widthFalls (op : Nat) (w : W64) : Bool :=
  ((decide (7 ≤ op) && decide (op ≤ 0x0A) || op = 0x12 || op = 0x13 || op = 0x15) && field w 17 2 = 1)
    || (op = 0x19 && field w 33 2 = 1)

/-- An extension mark on a load of 8 or 16 bytes (R75). -/
def extFalls (op : Nat) (w : W64) : Bool := decide (op = 0x20) && decide (field w 20 4 = 1) && decide (3 ≤ field w 24 3)

/-- A control transfer (R59). -/
def isTransfer (op : Nat) : Bool := (decide (0x30 ≤ op) && decide (op ≤ 0x37)) || op = 0xC1

/-- The epilogue's policy against its output's type, which the captured descriptor gives. -/
def epiFalls (s : State) (op : Nat) (w : W64) : Bool :=
  (op = 0xA8 || op = 0xA9) && policyFalls (dType (srcD s (field w 42 5))) (field w 18 2)

/-- The bits that a slot sets as its bundle issues, one for each event. A NOP word's bits are all reserved. DESIGN CHOICE:
the reserved fields of one slot word make one event together, apart from those of the header (R47); and a vector form's
fallback counts whatever its predicate, that of the epilogue's policy only where its predicate holds (R62). -/
def slotWarns (s : State) (i : Instr) (pred : Bool) (slot : Nat) (w : W64) : List Nat :=
  let op := opcodeOf w
  let cc := op ≠ 0 && !queueRouted w
  (if reservedSet i w then [wReserved] else [])
    ++ (if cc && field w 52 4 ≠ 0 then [wTokens] else [])
    ++ (if cc && instBit w then [wInstall] else [])
    ++ (if isTransfer op && slot ≠ 3 then [wFallback] else [])
    ++ (if widthFalls op w || extFalls op w then [wFallback] else [])
    ++ (if 0x60 ≤ op ∧ op < 0xA0 then List.replicate (vecFalls op (opVOf (bodyOf w))) wFallback else [])
    ++ (if pred && epiFalls s op w then [wFallback] else [])

/-- Warning events on the current core. -/
def warnAll (s : State) (l : List Nat) : State := l.foldl warn s

end Sys2Proof.Machine
end

