-- ==== Sys2Proof/Machine/SlotExec.lean ====
section
/-! DEFINITION. The meanings of the slot instructions as the issue of a bundle and the agents call them: the same
definitions as the arms of `exec`. -/

namespace Sys2Proof.Machine

open Sys2Proof

/-- What a slot instruction does, in the part that the state names. -/
def slotOutcome (i : Instr) (s : State) : Out :=
  match i with
  | .nop raw => execNop raw s
  | .add f o => execAdd f o s
  | .sub f o => execSub f o s
  | .mul f o => execMul f o s
  | .mulh f o => execMulh f o s
  | .div f o => execDiv f o s
  | .rem f o => execRem f o s
  | .and f o => execAnd f o s
  | .or f o => execOr f o s
  | .xor f o => execXor f o s
  | .andn f o => execAndn f o s
  | .shl f o => execShl f o s
  | .shr f o => execShr f o s
  | .sra f o => execSra f o s
  | .ror f o => execRor f o s
  | .min f o => execMin f o s
  | .max f o => execMax f o s
  | .clz f o => execClz f o s
  | .ctz f o => execCtz f o s
  | .popc f o => execPopc f o s
  | .brev f o => execBrev f o s
  | .bswap f o => execBswap f o s
  | .sel f o => execSel f o s
  | .setc f o => execSetc f o s
  | .cmp f o => execCmp f o s
  | .pand f o => execPand f o s
  | .por f o => execPor f o s
  | .pxor f o => execPxor f o s
  | .pnot f o => execPnot f o s
  | .addi f o => execAddi f o s
  | .andi f o => execAndi f o s
  | .ori f o => execOri f o s
  | .xori f o => execXori f o s
  | .shli f o => execShli f o s
  | .shri f o => execShri f o s
  | .srai f o => execSrai f o s
  | .li f o => execLi f o s
  | .lih f o => execLih f o s
  | .lea f o => execLea f o s
  | .ld f o => execLd f o s
  | .st f o => execSt f o s
  | .amo f o => execAmo f o s
  | .cas f o => execCas f o s
  | .amobnd f o => execAmobnd f o s
  | .pref f o => execPref f o s
  | .ffence f o => execFfence f o s
  | .drain f o => execDrain f o s
  | .drainAll f o => execDrainAll f o s
  | .ifence f o => execIfence f o s
  | .biasflipHost f o => execBiasflipHost f o s
  | .biasflipDev f o => execBiasflipDev f o s
  | .br f o => execBr f o s
  | .bp f o => execBp f o s
  | .jmp f o => execJmp f o s
  | .jmpr f o => execJmpr f o s
  | .call f o => execCall f o s
  | .callr f o => execCallr f o s
  | .ret f o => execRet f o s
  | .loop f o => execLoop f o s
  | .fset f o => execFset f o s
  | .fadd f o => execFadd f o s
  | .frd f o => execFrd f o s
  | .fbind f o => execFbind f o s
  | .fbindNone f o => execFbindNone f o s
  | .barTeam f o => execBarTeam f o s
  | .barDie f o => execBarDie f o s
  | .barPkg f o => execBarPkg f o s
  | .barPod f o => execBarPod f o s
  | .rpop f o => execRpop f o s
  | .squash f o => execSquash f o s
  | .waitf f o => execWaitf f o s
  | .spawn f o => execSpawn f o s
  | .spawnNb f o => execSpawnNb f o s
  | .finish f o => execFinish f o s
  | .finishFail f o => execFinishFail f o s
  | .yield f o => execYield f o s
  | .joinadd f o => execJoinadd f o s
  | .tagnew f o => execTagnew f o s
  | .tagnewRoot f o => execTagnewRoot f o s
  | .cancel f o => execCancel f o s
  | .cancelWait f o => execCancelWait f o s
  | .self f o => execSelf f o s
  | .slopen f o => execSlopen f o s
  | .slopenFeed f o => execSlopenFeed f o s
  | .slpub f o => execSlpub f o s
  | .sltent f o => execSltent f o s
  | .slcommit f o => execSlcommit f o s
  | .slreject f o => execSlreject f o s
  | .slfork f o => execSlfork f o s
  | .sldrop f o => execSldrop f o s
  | .slquery f o => execSlquery f o s
  | .revoke f o => execRevoke f o s
  | .resume f o => execResume f o s
  | .rskip f o => execRskip f o s
  | .rpause f o => execRpause f o s
  | .rquery f o => execRquery f o s
  | .dld f o => execDld f o s
  | .dst f o => execDst f o s
  | .dset f o => execDset f o s
  | .dget f o => execDget f o s
  | .dadv f o => execDadv f o s
  | .sflush f o => execSflush f o s
  | .sflushUnmap f o => execSflushUnmap f o s
  | .sdrop f o => execSdrop f o s
  | .stepmark f o => execStepmark f o s
  | .stepend f o => execStepend f o s
  | .edgerd f o => execEdgerd f o s
  | .vadd f o => execVadd f o s
  | .vsub f o => execVsub f o s
  | .vmul f o => execVmul f o s
  | .vfma f o => execVfma f o s
  | .vfms f o => execVfms f o s
  | .vmin f o => execVmin f o s
  | .vmax f o => execVmax f o s
  | .vabs f o => execVabs f o s
  | .vneg f o => execVneg f o s
  | .vrcp f o => execVrcp f o s
  | .vrsqrt f o => execVrsqrt f o s
  | .vsqrt f o => execVsqrt f o s
  | .vexp2 f o => execVexp2 f o s
  | .vlog2 f o => execVlog2 f o s
  | .vcvt f o => execVcvt f o s
  | .vcmp f o => execVcmp f o s
  | .vsel f o => execVsel f o s
  | .vand f o => execVand f o s
  | .vor f o => execVor f o s
  | .vxor f o => execVxor f o s
  | .vshl f o => execVshl f o s
  | .vshr f o => execVshr f o s
  | .vsra f o => execVsra f o s
  | .vmov f o => execVmov f o s
  | .vred f o => execVred f o s
  | .vscan f o => execVscan f o s
  | .vperm f o => execVperm f o s
  | .vbcast f o => execVbcast f o s
  | .viota f o => execViota f o s
  | .vins f o => execVins f o s
  | .vext f o => execVext f o s
  | .kop f o => execKop f o s
  | .kpopc f o => execKpopc f o s
  | .vld f o => execVld f o s
  | .vst f o => execVst f o s
  | .vldg f o => execVldg f o s
  | .vsts f o => execVsts f o s
  | .vshort f o => execVshort f o s
  | .vrand f o => execVrand f o s
  | .vtopk f o => execVtopk f o s
  | .vnop f o => execVnop f o s
  | .mma f o => execMma f o s
  | .mzero f o => execMzero f o s
  | .mtbl f o => execMtbl f o s
  | .mtblProd f o => execMtblProd f o s
  | .epi f o => execEpi f o s
  | .epired f o => execEpired f o s
  | .epifn f o => execEpifn f o s
  | .cpy f o => execCpy f o s
  | .cpyg f o => execCpyg f o s
  | .cpys f o => execCpys f o s
  | .cpyidx f o => execCpyidx f o s
  | .cpyfill f o => execCpyfill f o s
  | .cpymir f o => execCpymir f o s
  | .saq f o => execSaq f o s
  | .samask f o => execSamask f o s
  | .srcfg f o => execSrcfg f o s
  | .srabsReg f o => execSrabsReg f o s
  | .srabsDesc f o => execSrabsDesc f o s
  | .srmerge f o => execSrmerge f o s
  | .srmergePair f o => execSrmergePair f o s
  | .srread f o => execSrread f o s
  | .srset f o => execSrset f o s
  | .srclr f o => execSrclr f o s
  | .trap f o => execTrap f o s
  | .eret f o => execEret f o s
  | .crd f o => execCrd f o s
  | .cwr f o => execCwr f o s
  | .wfi f o => execWfi f o s
  | .brk f o => execBrk f o s
  | .ctxsave f o => execCtxsave f o s
  | .ctxload f o => execCtxload f o s
  | .perfrd f o => execPerfrd f o s
  | _ => .next s

/-- The state after an outcome. -/
def nextOr (s : State) (o : Out) : State :=
  match o with
  | .next t => t
  | _ => s

/-- The slot instruction performed. -/
def slotExec (i : Instr) (s : State) : State := nextOr s (slotOutcome i s)

end Sys2Proof.Machine
end

