-- ==== Sys2Proof/Machine/Access.lean ====
section
/-! DEFINITION. The events of engine commands (R200, R202, R238): window mapping and fill (R35, R418), element reads and
writes at the order point, and what keeps an event from being made (R126, R232, R335, R337). -/

namespace Sys2Proof.Machine

open Sys2Proof

/-! ### Windows (R35, R115, R418) -/

/-- The place among the windows of the entry that holds a captured descriptor (R114). -/
def winIndex (k : Core) (d : W512) : Option Nat :=
  k.wins.findIdx? fun w => sameMapping w.desc d

/-- The window that covers a stash offset. -/
def winAt (k : Core) (off : Nat) : Option Nat :=
  k.wins.findIdx? fun w => decide (stashStart w.desc ≤ off) && decide (off < stashEnd w.desc)

/-- The fed record in whose slices the window of a rule's written descriptor stands (R284). -/
def fedWindow (r : Rule) (d : W512) : Option Nat :=
  match r.feed, writtenPos r.cmd.word with
  | some (_, pa), some p => if sameMapping (r.cmd.descs.getD p 0) d then some pa else none
  | _, _ => none

/-- The operand that a window maps: a rule's window stands on its slice, that of a fed rule's output on a slice of the fed
tensor (R284, R418). A record's address is translated under the ASID of the command that makes the access (R332). -/
def winOpd (s : State) (c asid : Nat) (w : Win) : Opd :=
  let d := w.desc
  let v := vmid (getCore s c)
  match w.rule with
  | some n =>
    let r := getRule (getCore s c) n
    match fedWindow r d with
    | some pa =>
      { d := d, base := dBase d, ot := some pa, axis := dAxis d, slice := some w.slice, bad := recordBad s v (some pa) }
    | none =>
      if isOpen d then
        { d := d, base := dBase d, ot := some r.srcPa, axis := dAxis d, slice := some w.slice, fire := true,
          bad := recordBad s v (some r.srcPa) }
      else { d := d, base := dBase d + w.slice * dAdv d }
  | none =>
    if isOpen d then
      let pa := recordPa s c asid (dOtr d)
      { d := d, base := dBase d, ot := pa, axis := dAxis d, bad := recordBad s v pa }
    else { d := d, base := dBase d }

/-- What a byte of a window's range stands for. -/
inductive WByte where
  /-- Parts of the bytes of memory: the place of the element, the byte of it, and the nibble of this byte it fills; and what the
  rest of the byte reads as. -/
  | parts (l : List (Place × Nat × Nat)) (rest : Byte := 0)
  /-- Beyond the descriptor's dimensions in a row: the pad value. -/
  | pad (v : Byte)
  /-- Beyond the rows: a stash-only byte. -/
  | only
deriving DecidableEq, Repr

/-- What stands at a byte of a window, counted from the range's start (R35, R115, R418): two cb4 elements stand in a byte, each
of which may be beyond the dimensions (R93, R231). The output of a fed rule has only
index 0 along its open axis (R284). -/
def winByte (o : Opd) (n : Nat) : WByte :=
  let d := o.d
  let ty := dType d
  let a := if o.fire ∧ o.axis = 0 then 1 else 0
  let na := dDim d a
  let nb := if o.fire then (if o.axis = 2 then dDim d 1 else dDim d 2) else dDim d 1 * dDim d 2
  let run := if ty = 5 then ceilDiv na 2 else na * tySize ty
  let u := if dPitch d = 0 then ceilDiv run 64 else dPitch d
  let row := n / 64 / u
  let at_ := n / 64 % u * 64 + n % 64
  let idx := fun ia : Nat =>
    if o.fire then (if o.axis = 0 then (0, ia, row) else if o.axis = 2 then (ia, row, 0) else (ia, 0, row))
    else (ia, row % dDim d 1, row / dDim d 1)
  let place := fun ia : Nat => placeOf o (idx ia).1 (idx ia).2.1 (idx ia).2.2
  let ix := idx (if ty = 5 then 2 * at_ else at_ / tySize ty)
  let off := o.slice.isSome && !o.fire && decide ([ix.1, ix.2.1, ix.2.2].getD o.axis 0 ≠ 0)
  if u = 0 ∨ nb ≤ row ∨ off then .only
  else if ty = 5 then
    let p := (padValue d).toNat
    if run ≤ at_ then .pad (BitVec.ofNat 8 (17 * p))
    else if na ≤ 2 * at_ + 1 then .parts [(place (2 * at_), 0, 1)] (BitVec.ofNat 8 (16 * p))
    else if o.slice.isSome && !o.fire && decide (o.axis = 0) then .parts [(place (2 * at_), 0, 1)]
    else .parts [(place (2 * at_), 0, 1), (place (2 * at_ + 1), 0, 2)]
  else if run ≤ at_ then .pad (BitVec.ofNat 8 ((padValue d).toNat / 2 ^ (8 * (at_ % tySize ty))))
  else .parts [(place (at_ / tySize ty), at_ % tySize ty, 0)]

/-- An engine's event cannot be made as it stands. -/
inductive Stop where
  /-- A fault, or a stage-2 fault. -/
  | block (b : Block)
  /-- Storage is missing for a slice (R276). -/
  | quota (k : Nat) (node : Bool)
  /-- A write below holdlow is not performed (R270). -/
  | skip
  /-- A read of a slice that has no storage, or of a granule that holds nothing yet: pad. -/
  | pad
  /-- The page is repaired from its far mirror first (R389). -/
  | wait
  /-- Far or host-bias memory: the event goes to a far queue. -/
  | far (t : Trans)
deriving DecidableEq, Repr

/-- Who makes the event: the core, the command, and the port. -/
structure By where
  c : Nat
  x : Active
  port : Nat
  /-- Through a window, whose pages must be stash-allowed (R199). -/
  inWin : Bool := false

/-- The record address that an ACCESS_FAULT of a slice reports: that of the fed record for a firing's write, else of
the operand's open descriptor; an MMA's operands 2 and 3 are the block bytes of its operands 0 and 1 (R94, R270, R337). -/
def recordVaOf (s : State) (b : By) (opnd : Nat) (write : Bool) : Nat :=
  let named := b.x.cmd.descs.getD (if opcodeOf b.x.cmd.word = 0xA0 then opnd % 2 else opnd) 0
  let other := (b.x.cmd.descs.find? fun d => isOpen d).getD 0
  let own := dOtr (if isOpen named then named else other)
  match write, b.x.rule with
  | true, some n => ((getRule (getCore s b.c) n).feed.map fun f => f.1).getD own
  | _, _ => own

/-- ACCESS_FAULT with a record address. -/
def recordStop (s : State) (b : By) (opnd : Nat) (write : Bool) : Stop :=
  .block (.trap { cause := cAccess, einfo := BitVec.ofNat 64 (recordVaOf s b opnd write) })

/-- What stops an event that a record places while the record's own address does not translate (R337). -/
def lostStop (s : State) (b : By) (d : W512) : Stop :=
  match xlBlock b.port false (dOtr d) (translate s (vmid (getCore s b.c)) b.x.cmd.asid (dOtr d) false false false []) with
  | some bl => .block bl
  | none => .wait

/-- A frame that a Frond names lies in the pool of the core's function (R337). -/
def poolOwns (s : State) (v pa : Nat) : Bool :=
  let f := getFctx s v
  decide (f.poolbase ≤ pa) && decide (pa < f.poolbase + f.poolpages * 65536)

/-- The physical address of an event's bytes, with everything that the access needs done first: translation with the
port's permissions (R327), the checks of R199 and R337, and for a write into a slice its claim and its own page
(R270, R274). -/
def elemTarget (s : State) (b : By) (opnd : Nat) (wr : Bool) (sp : Space) (addr size nib : Nat) :
    Except Stop (State × Nat) :=
  let v := vmid (getCore s b.c)
  match sp with
  | .va =>
    match translate s v b.x.cmd.asid addr (!wr) wr false [portMask b.port] with
    | .ok t =>
      if isFar t.pa || t.host then
        if b.inWin then .error (.block (.trap { cause := cAccess, einfo := BitVec.ofNat 64 (addr / 64 * 64) }))
        else if isFar t.pa && !(getPod s (farTarget t.pa)).up then
          .error (.block (.trap { cause := 0x11, einfo := BitVec.ofNat 64 addr }))
        else .error (.far t)
      else if isFlagPage t.pa then .error (.block (.trap { cause := cAccess, einfo := BitVec.ofNat 64 addr }))
      else if b.inWin && decide (t.mtype ≠ 1) then
        .error (.block (.trap { cause := cAccess, einfo := BitVec.ofNat 64 (addr / 64 * 64) }))
      else if needsRepair s t.pa then .error .wait
      else .ok (touchLeaves s t wr, t.pa)
    | x =>
      match xlBlock b.port wr addr x with
      | some bl => .error (.block bl)
      | none => .error .wait
  | .pa =>
    if !poolOwns s v addr then .error (recordStop s b opnd wr)
    else if needsRepair s addr then .error .wait
    else .ok (s, addr)
  | .slice pa k =>
    let o := getOT s pa
    if recordBad s v (some pa) ∨ o.slicebytes < addr + size then .error (recordStop s b opnd wr)
    else if !wr then
      if !sliceReadable s o k || (List.range size).all (fun i => byteUnwritten o k (addr + i) nib) then .error .pad
      else if !poolOwns s v (slicePa s o k addr) then .error (recordStop s b opnd wr)
      else if needsRepair s (slicePa s o k addr) then .error .wait
      else .ok (s, slicePa s o k addr)
    else if k < o.holdlow then .error .skip
    else if neV (leafOf s o (slicePage o k)) && needsRepair s (slicePa s o k 0) then .error .wait
    else
      match readyWrite s pa k with
      | .error (k, node) => .error (.quota k node)
      | .ok s =>
        let at_ := slicePa s (getOT s pa) k addr
        if !poolOwns s v at_ then .error (recordStop s b opnd wr)
        else if needsRepair s at_ then .error .wait
        else .ok (noteSliceWrite s pa k addr size nib, at_)
  | .stash => .ok (s, addr)

/-- The space and address that a place names, with a byte of its element added. -/
def placeSpace (p : Place) (n : Nat) : Option (Space × Nat) :=
  match p with
  | .va addr _ _ => some (.va, (addr + n) % 2 ^ 55)
  | .slice ot k off _ _ => some (.slice ot k, if off < 0 then 2 ^ 40 else off.toNat + n)
  | .stash _ _ => none
  | .lost => none

/-- The nibble that the element at a place fills of its byte. -/
def placeNib (p : Place) : Nat :=
  match p with
  | .va _ n _ => n
  | .slice _ _ _ n _ => n
  | _ => 0

/-! ### Bytes of the stash (R34, R100) -/

/-- A stash-only byte with the poison of its granule. -/
def stashByte (k : Core) (off : Nat) : Byte × Bool :=
  (SMap.get (fun _ => 0) k.stash off, SMap.get (fun _ => false) k.stashPoison (off / 64))

/-- Stash-only bytes written; poison marks the granule, and a write of all 64 bytes without it clears the mark. -/
def writeStash (k : Core) (off : Nat) (bytes : List Byte) (poison : Bool) (clean : List (Nat × List Nat)) :
    Core × List (Nat × List Nat) :=
  let key := 2 ^ 60 + off / 64
  let before := (cleanOf clean key).length
  let clean := addClean clean key off bytes.length poison
  let l := (bytes.zip (List.range bytes.length)).map fun e => (off + e.2, e.1)
  let k := { k with stash := SMap.setAll (fun _ => 0) k.stash l }
  let k := if poison then { k with stashPoison := SMap.set (fun _ => false) k.stashPoison (off / 64) true }
    else if before < 64 ∧ (cleanOf clean key).length = 64 then
      { k with stashPoison := SMap.set (fun _ => false) k.stashPoison (off / 64) false,
               stashMedia := SMap.set (fun _ => false) k.stashMedia (off / 64) false }
    else k
  (k, clean)

/-! ### Element events -/

/-- A byte with one of its nibbles taken, or the whole of it. -/
def takeNib (nib : Nat) (v : W64) : W64 :=
  match nib with
  | 1 => v &&& 0xF
  | 2 => (v >>> 4) &&& 0xF
  | _ => v

/-- A byte with one of its nibbles replaced. -/
def putNib (nib : Nat) (old : Byte) (v : W64) : List Byte :=
  match nib with
  | 1 => [(old &&& 0xF0) ||| (v.setWidth 8 &&& 0x0F)]
  | _ => [(old &&& 0x0F) ||| ((v.setWidth 8 &&& 0x0F) <<< 4)]

/-- The bytes that a write of an element stores over what stands there. -/
def elemBytes (s : State) (e : Elem) (pa : Nat) : List Byte :=
  if e.nib = 0 then toBytes e.size e.val else putNib e.nib (memByte s pa) e.val

/-- A dirty granule is noted in a window, with the bytes that memory held (R35, R119). -/
def noteDirty (s : State) (c i soff pa : Nat) : State :=
  let g := pa / 64
  onCore s c fun k =>
    { k with wins := k.wins.modify i fun w =>
        if w.dirty.any fun d => decide (d.pa / 64 = g) then w
        else { w with dirty := w.dirty ++ [{ off := soff / 64, pa := g * 64, old := ofBytes 512 (memBytes s (g * 64) 64),
                                             oldPz := getPz s g }] } }

/-- A write of an element's bytes to memory, through a window if one is named, counted for R385. -/
def putElem (s : State) (b : By) (win : Option Nat) (e : Elem) (pa : Nat) (poison : Bool) (clean : List (Nat × List Nat)) :
    State × List (Nat × List Nat) :=
  let s := match win with
    | some i => noteDirty s b.c i e.soff pa
    | none => s
  writeCounted s pa (elemBytes s e pa) poison { win := win.map fun i => (b.c, i) } clean

/-- One element read at its place. -/
def readElem (s : State) (b : By) (it : Item) (win : Option Nat) (e : Elem) : Except Stop (State × Got) :=
  let got := fun (v : W64) (p : Bool) =>
    ({ opnd := it.opnd, key := e.key, part := e.part, size := e.size, val := takeNib e.nib v, poison := p } : Got)
  match elemTarget s b it.opnd false it.space e.addr e.size e.nib with
  | .ok (s, pa) =>
    let r := readPhys s pa e.size { win := win.map fun i => (b.c, i) }
    .ok (r.1, got (ofBytes 64 r.2.1) r.2.2)
  | .error .pad => .ok (s, { got 0 false with val := padValue (b.x.cmd.descs.getD it.opnd 0) >>> (8 * e.part) })
  | .error x => .error x

/-- The read of one byte of a window that a stash offset names. DEDUCED, assumption 28: its poison is that of the memory granule
it maps (R100). -/
def readWinByte (s : State) (b : By) (i : Nat) (off : Nat) : Except Stop (State × Byte × Bool) :=
  let w := (getCore s b.c).wins.getD i {}
  let o := winOpd s b.c b.x.cmd.asid w
  let b := { b with x := { b.x with cmd := { b.x.cmd with descs := [w.desc] } }, inWin := true }
  match winByte o (off - stashStart w.desc) with
  | .only => let r := stashByte (getCore s b.c) off; .ok (s, r.1, r.2)
  | .pad v => .ok (s, v, false)
  | .parts l rest =>
    l.foldl (fun (acc : Except Stop (State × Byte × Bool)) (p : Place × Nat × Nat) =>
      acc.bind fun r =>
        match placeSpace p.1 p.2.1 with
        | none => .error (lostStop s b w.desc)
        | some (sp, addr) =>
          match elemTarget r.1 b 0 false sp addr 1 (placeNib p.1) with
          | .ok (s, pa) =>
            let q := readPhys s pa 1 { win := some (b.c, i) }
            let v := takeNib (placeNib p.1) (ofBytes 64 q.2.1)
            let v := if p.2.2 = 2 then v <<< 4 else v
            .ok (q.1, r.2.1 ||| v.setWidth 8, r.2.2 || q.2.2)
          | .error .pad =>
            let v := padValue w.desc >>> (8 * p.2.1)
            .ok (r.1, r.2.1 ||| (if p.2.2 = 2 then v <<< 4 else v).setWidth 8, r.2.2)
          | .error x => .error x) (.ok (s, rest, false))

/-- The write of one byte of a window that a stash offset names. A pad byte takes nothing. -/
def writeWinByte (s : State) (b : By) (i : Nat) (off : Nat) (v : Byte) (poison : Bool) (clean : List (Nat × List Nat)) :
    Except Stop (State × List (Nat × List Nat)) :=
  let w := (getCore s b.c).wins.getD i {}
  let o := winOpd s b.c b.x.cmd.asid w
  let b := { b with x := { b.x with cmd := { b.x.cmd with descs := [w.desc] } }, inWin := true }
  match winByte o (off - stashStart w.desc) with
  | .only =>
    let r := writeStash (getCore s b.c) off [v] poison clean
    .ok (setCore s b.c r.1, r.2)
  | .pad _ => .ok (s, clean)
  | .parts l _ =>
    l.foldl (fun (acc : Except Stop (State × List (Nat × List Nat))) (p : Place × Nat × Nat) =>
      acc.bind fun r =>
        match placeSpace p.1 p.2.1 with
        | none => .error (lostStop s b w.desc)
        | some (sp, addr) =>
          match elemTarget r.1 b 0 true sp addr 1 (placeNib p.1) with
          | .ok (s, pa) =>
            let val := v.setWidth 64 >>> (if p.2.2 = 2 then 4 else 0)
            .ok (putElem s b (some i) { size := 1, nib := placeNib p.1, soff := off, val := val } pa poison r.2)
          | .error .skip => .ok (warnC r.1 b.c wFallback, r.2)
          | .error x => .error x) (.ok (s, clean))

/-! ### Fills (R35, R125, R238) -/

/-- The fill of a granule of a window at its first touch: every byte it holds is reached as a read, from a stash-allowed
page. Its data are those of memory, and the fill is counted (R321). DESIGN CHOICE, assumption 73: what it holds goes by the
dimensions alone, so that elements which a bound excludes are filled too and may fault (R35, R39). -/
def fillGranule (s : State) (b : By) (i g : Nat) : Except Stop State :=
  let w := (getCore s b.c).wins.getD i {}
  if w.filled.contains g then .ok s
  else
    let r := (List.range 64).foldl (fun (acc : Except Stop State) j =>
      acc.bind fun s => (readWinByte s b i (64 * g + j)).map fun r => r.1) (.ok s)
    r.map fun s => onCore (countMisses b.c false s) b.c fun k =>
      bump { k with wins := k.wins.modify i fun w => { w with filled := w.filled ++ [g] } } 16 1

/-- The window that an event goes through, with the granules of it that it touches. -/
def itemWindow (k : Core) (it : Item) : Option (Nat × List Nat) :=
  match it.space, it.win with
  | .stash, _ =>
    (winAt k ((it.elems.headD {}).addr % 2 ^ 22)).map fun i => (i, [(it.elems.headD {}).addr % 2 ^ 22 / 64])
  | _, some d =>
    (winIndex k d).map fun i => (i, it.elems.map fun e => e.soff / 64)
  | _, none => none

/-- The first granule of a window that an event waits for. -/
def unfilled (k : Core) (it : Item) : Option (Nat × Nat) :=
  match itemWindow k it with
  | none => none
  | some (i, gs) => (gs.find? fun g => !(k.wins.getD i {}).filled.contains g).map fun g => (i, g)

/-! ### Whole events -/

/-- The read of an event's elements in the stash, outside every window or in one. -/
def readStashElem (s : State) (b : By) (it : Item) (e : Elem) : Except Stop (State × Got) :=
  let r := (List.range e.size).foldl (fun (acc : Except Stop (State × List Byte × Bool)) j =>
    acc.bind fun r =>
      let off := (e.addr + j) % 2 ^ 22
      match winAt (getCore r.1 b.c) off with
      | none =>
        let q := stashByte (getCore r.1 b.c) off
        .ok (r.1, r.2.1 ++ [q.1], r.2.2 || q.2)
      | some i => (readWinByte r.1 b i off).map fun q => (q.1, r.2.1 ++ [q.2.1], r.2.2 || q.2.2)) (.ok (s, [], false))
  r.map fun r => (r.1, { opnd := it.opnd, key := e.key, part := e.part, size := e.size,
                         val := takeNib e.nib (ofBytes 64 r.2.1), poison := r.2.2 })

/-- The write of an element in the stash. -/
def writeStashElem (s : State) (b : By) (e : Elem) (poison : Bool) (clean : List (Nat × List Nat)) :
    Except Stop (State × List (Nat × List Nat)) :=
  let off := e.addr % 2 ^ 22
  match winAt (getCore s b.c) off with
  | none =>
    let bytes := if e.nib = 0 then toBytes e.size e.val else putNib e.nib (stashByte (getCore s b.c) off).1 e.val
    let r := writeStash (getCore s b.c) off bytes poison clean
    .ok (setCore s b.c r.1, r.2)
  | some i =>
    let old := if e.nib = 0 then .ok (s, 0, false) else readWinByte s b i off
    old.bind fun q =>
      let bytes := if e.nib = 0 then toBytes e.size e.val else putNib e.nib q.2.1 e.val
      (bytes.zip (List.range bytes.length)).foldl (fun (acc : Except Stop (State × List (Nat × List Nat))) p =>
        acc.bind fun r => writeWinByte r.1 b i ((e.addr + p.2) % 2 ^ 22) p.1 poison r.2) (.ok (q.1, clean))

/-- The data that a write of a copy carries: what was read under its key (R230). -/
def copyElem (x : Active) (it : Item) (e : Elem) : Elem :=
  let op := opcodeOf x.cmd.word
  if 0xB0 ≤ op ∧ op ≤ 0xB5 ∧ it.opnd = 0 then
    let g := gotElem x 1 e.key
    { e with val := g.bits >>> (8 * e.part), poison := g.poison }
  else e

/-- A copy may write once every read that carries the data of the event has returned (R203). -/
def copyReady (x : Active) (it : Item) : Bool :=
  let op := opcodeOf x.cmd.word
  !(decide (0xB0 ≤ op) && decide (op ≤ 0xB5) && decide (it.opnd = 0)) ||
    it.elems.all fun e => (decide (x.farOut = 0) || (x.got.any fun g => decide (g.opnd = 1) && decide (g.key = e.key)))
      && !x.reads.any fun r => decide (r.opnd = 1) && r.elems.any fun q => decide (q.key = e.key)

/-- An event that goes to memory and through no window may miss in L2 (R321). -/
def countItem (s : State) (b : By) (it : Item) (win : Option Nat) : State :=
  if win.isNone && decide (it.space ≠ .stash) then countMisses b.c false s else s

/-- The reads of an event: its state and the data. -/
def readItem (s : State) (b : By) (it : Item) : Except Stop (State × List Got) :=
  let win := (itemWindow (getCore s b.c) it).map fun w => w.1
  let s := countItem s b it win
  let b := { b with inWin := win.isSome }
  it.elems.foldl (fun (acc : Except Stop (State × List Got)) e =>
    acc.bind fun r =>
      let one : Except Stop (State × Got) := match it.space with
        | .stash => readStashElem r.1 b it e
        | _ => readElem r.1 b it win e
      one.map fun q => (q.1, r.2 ++ [q.2])) (.ok (s, []))

/-- The writes of an event: one write, whose poison is that of its data. -/
def writeItem (s : State) (b : By) (it : Item) : Except Stop (State × List (Nat × List Nat)) :=
  let win := (itemWindow (getCore s b.c) it).map fun w => w.1
  let s := countItem s b it win
  let b := { b with inWin := win.isSome }
  let elems := it.elems.map (copyElem b.x it)
  let poison := elems.any fun e => e.poison
  elems.foldl (fun (acc : Except Stop (State × List (Nat × List Nat))) e =>
    acc.bind fun r =>
      match it.space with
      | .stash => writeStashElem r.1 b e poison r.2
      | _ =>
        match elemTarget r.1 b it.opnd true it.space e.addr e.size e.nib with
        | .ok (s, pa) => .ok (putElem s b win e pa poison r.2)
        | .error .skip => .ok (warnC r.1 b.c wFallback, r.2)
        | .error x => .error x) (.ok (s, b.x.clean))

/-- The bytes of an event from its first element to its last, and its data as a far write carries them. -/
def itemSpan (it : Item) : Nat × Nat :=
  it.elems.foldl (fun (p : Nat × Nat) e => (min p.1 e.addr, max p.2 (e.addr + e.size)))
    ((it.elems.headD {}).addr, (it.elems.headD {}).addr)

/-- The data of a far write, placed by address from the event's first byte. DESIGN CHOICE, assumption 58: a write of one cb4
nibble sends its byte with the other nibble 0. -/
def itemData (it : Item) : W512 :=
  let a := (itemSpan it).1
  it.elems.foldl (fun (v : W512) (e : Elem) =>
    let x : W64 := if e.nib = 2 then e.val * 16 else e.val
    v ||| (x.setWidth 512 <<< (8 * (e.addr - a)))) 0

/-- The bytes of its span that an event touches: no other byte of the target changes (R200). -/
def itemMask (it : Item) : W64 :=
  let a := (itemSpan it).1
  it.elems.foldl (fun (m : W64) (e : Elem) => m ||| (BitVec.ofNat 64 (2 ^ e.size - 1) <<< (e.addr - a))) 0

/-- A far or host-bias event moves to the far queue of the core and the target (R202). -/
def forwardItem (s : State) (b : By) (a : Nat) (it : Item) (t : Trans) : State :=
  let elems := it.elems.map (copyElem b.x it)
  let it := { it with elems := elems }
  let sp := itemSpan it
  forward s b.c (farQueue t.pa)
    { pa := t.pa - ((it.elems.headD {}).addr - sp.1), va := sp.1, size := sp.2 - sp.1, write := it.write,
      data := itemData it, mask := itemMask it, poison := elems.any fun e => e.poison, sig := sigOf s b.c a, who := .agent a b.x.id it }

end Sys2Proof.Machine
end

