-- ==== Sys2Proof/Machine/Engine.lean ====
section
/-! DEFINITION. The engines at work: issue, accesses, retirement and tokens (R29 to R33, R129, R202 to R204), fills
and write-backs (R35, R125), and the firings of standing rules (R282 to R287). -/

namespace Sys2Proof.Machine

open Sys2Proof

/-! ### What an engine may do -/

/-- No command and no firing issues: the engines are frozen, or the core is about to stop (R148, R354, R356, R357). -/
def issueStops (k : Core) : Bool :=
  enginesFrozen k || entryDue k || k.frozen || saveDue k || k.s2fault.isSome || k.cancelled || k.fenced

/-- The FIFOs that a command takes from: take.l and take.r (R30, R46). -/
def takesOf (q : Nat) (w : W64) : List Nat :=
  (if w.getLsbD 55 then [fifoTakeL q] else []) ++ if w.getLsbD 54 then [fifoTakeR q] else []

/-- The queue of an agent's command: a channel's copies come from LDQ or STQ. -/
def actQueue (a : Nat) (x : Active) : Nat := if a < 8 then a - 1 else if copyPort x = 3 then 0 else 5

/-- A command of the queue is held at retirement by a refused give (R31). -/
def givesHeld (k : Core) (q : Nat) : Bool :=
  (getEng k q).active.any (fun x => x.retiring)
    || (decide (q = 0) || decide (q = 5)) && k.chans.any fun e => e.2.any fun x => x.retiring && decide (actQueue 8 x = q)

/-- The accumulator tile that a command holds, if it is an MMA, MZERO, EPI or EPIRED (R129). -/
def tileOf (x : Cmd) : Option Nat :=
  let op := opcodeOf x.word
  if !x.tokenOnly ∧ (op = 0xA0 ∨ op = 0xA1 ∨ op = 0xA8 ∨ op = 0xA9) then some (opEOf (bodyOf x.word)).acc.toNat else none

/-- The other of MXQ and EPQ holds the command's tile. -/
def tileHeld (k : Core) (q : Nat) (x : Cmd) : Bool :=
  (tileOf x).isSome && (decide (q = 1) || decide (q = 2)) &&
    (getEng k (3 - q)).active.any fun a => decide (tileOf a.cmd = tileOf x) && !a.retiring && decide (a.stage ≠ 4)

/-- The engine has room for a command: matrix and epilogue commands are whole; the vector engine issues when what is
before it has performed its accesses; up to 16 SAQs share the slice attention units (R129, R143, R172, R190). -/
def engineRoom (k : Core) (q : Nat) (w : W64) : Bool :=
  let l := (getEng k q).active
  match q with
  | 1 => l.isEmpty
  | 2 => l.isEmpty
  | 3 => l.all fun a => a.ran && decide (k.vpos < a.pos + 24)
  | 4 => if opcodeOf w = 0xB8 then (l.all fun a => isSaq a && a.rule.isNone) && decide (l.length < 16) else l.isEmpty
  | _ => true

/-- The head of a buffer is a SQUASH, before which no command issues (R264). -/
def squashAtHead (k : Core) : Bool :=
  match k.buf with
  | b :: _ => match b.ev with
    | .squash _ => true
    | _ => false
  | [] => false

/-- The command at the head of an agent that is due to retire: the oldest that is no firing. -/
def retireIndex (k : Core) (a : Nat) : Option Nat := (actsOf k a).findIdx? fun x => x.rule.isNone

/-- The vector engine is held: a push finds the RQ full at a retirement, or a fault taken at issue has still to be taken
(R147, R169). -/
def vectorHeld (k : Core) : Bool :=
  let full := fun x : Active => actDone x && !x.retiring && rqOverflows k x
  (k.ptraps.any fun t => decide (t.port = some 5)) || ((retireIndex k 4).any fun i => full (getAct k 4 i))
    || (getEng k 3).active.any fun x => x.rule.isSome && full x

/-- Everything but its takes and an RQ entry lets the head of a queue issue. -/
def headMayIssue (k : Core) (q : Nat) : Bool :=
  match (getEng k q).queue with
  | [] => false
  | x :: _ =>
    !issueStops k && !squashAtHead k && !(decide (0 < k.clamp) && (decide (q = 1) || decide (q = 3)))
      && !givesHeld k q && !(decide (q = 3) && vectorHeld k) && (getEng k q).again.isEmpty && !tileHeld k q x
      && engineRoom k q x.word

/-- A CPYIDX has no entry of the RQ to take (R33, R234). -/
def rqEmpty (now : Nat) (k : Core) : Bool := !(k.rq.head?.any (rqTakable now))

/-- The FIFOs that refuse the head's takes, and 12 for an empty RQ under a CPYIDX (R31, R33). -/
def headRefused (now : Nat) (k : Core) (q : Nat) : List Nat :=
  match (getEng k q).queue with
  | [] => []
  | x :: _ =>
    ((takesOf q x.word).filter fun i => (getTok k i).isEmpty)
      ++ if !x.tokenOnly ∧ opcodeOf x.word = 0xB3 ∧ rqEmpty now k then [12] else []

/-- The head of a queue may issue now. -/
def canIssue (now : Nat) (k : Core) (q : Nat) : Bool := headMayIssue k q && (headRefused now k q).isEmpty

/-! ### The standing lane (R283) -/

/-- The queue whose engine serves a rule (R29, R70). -/
def ruleQueue (r : Rule) : Nat :=
  let op := opcodeOf r.cmd.word
  if op < 0xA0 then 3
  else if op ≤ 0xA2 then 1
  else if op ≤ 0xAA then 2
  else if 0xB8 ≤ op then 4
  else if onStash (r.cmd.descs.getD 0 0) then 0
  else 5

/-- The slice of a rule's next firing. -/
def nextSlice (r : Rule) : Nat := if r.skip then r.skipAt else r.cursor

/-- The firing that an engine takes: the lowest slice, and then the lowest install number (R283). -/
def nextFiring (s : State) (c q : Nat) : Option Nat :=
  let l := (List.range 32).filter fun n => decide (ruleQueue (getRule (getCore s c) n) = q) && eligible s c n
  l.foldl (fun (best : Option Nat) n =>
    let r := getRule (getCore s c) n
    match best with
    | none => some n
    | some m =>
      let b := getRule (getCore s c) m
      if nextSlice r < nextSlice b ∨ (nextSlice r = nextSlice b ∧ r.seq < b.seq) then some n else some m) none

/-- The engine is at a command boundary at which it can take a firing. -/
def laneOpen (k : Core) (q : Nat) : Bool :=
  let l := (getEng k q).active
  !issueStops k && !givesHeld k q && !(decide (q = 3) && vectorHeld k) && !(decide (0 < k.clamp) && (decide (q = 1) || decide (q = 3)))
    && !(l.any fun x => x.rule.isSome)
    && match q with
      | 3 => l.all fun a => a.ran && decide (k.vpos < a.pos + 24)
      | 0 => true
      | 5 => true
      | _ => l.isEmpty

/-- A firing goes before the queue's head: one is eligible at a command boundary, and fewer than 16 have been taken in a
row (R29, R283). -/
def laneFirst (s : State) (c q : Nat) : Bool :=
  let k := getCore s c
  laneOpen k q && decide ((getEng k q).streak < 16) && (nextFiring s c q).isSome

/-! ### Issue -/

/-- The port through which a command reaches the record of the descriptor at a place of its capture (R334). -/
def recordPort (x : Active) (p : Nat) : Nat :=
  let op := opcodeOf x.cmd.word
  if op < 0xA0 then 5
  else if op = 0xA0 then (if p = 0 then 1 else 2)
  else if op ≤ 0xA2 then 2
  else if op ≤ 0xAA then 6
  else if 0xB8 ≤ op then 7
  else copyPort x

/-- A record that a command is to reach and whose address does not translate: the port, and the fault met there (R232, R270,
R337). A firing has its records already, and a SAQ has those of its operands once it has begun. -/
def lostRecord (s : State) (c : Nat) (x : Active) : Option (Nat × Block) :=
  if x.rule.isSome || x.cmd.tokenOnly || x.ran || (isSaq x && decide (x.stage ≠ 0))
      || (decide (opcodeOf x.cmd.word = 0xB3) && x.rq.isEmpty) then none
  else
    (List.range 4).findSome? fun p =>
      let d := x.cmd.descs.getD p 0
      if isOpen d then
        (xlBlock (recordPort x p) false (dOtr d)
          (translate s (vmid (getCore s c)) x.cmd.asid (dOtr d) false false false [])).map fun b => (recordPort x p, b)
      else none

/-- The operation of an agent's active command is performed as far as it can go: its next phase. -/
def runPhase (s : State) (c a i : Nat) : State :=
  match pick (getAct (getCore s c) a i).cmd.word with
  | none => s
  | some ins =>
    let t := slotExec ins { s with cur := c, role := .agent a i }
    { t with cur := s.cur, role := s.role }

/-- The fed record that a command that is no firing would write: the command is refused (R424). -/
def fedRecord (s : State) (c : Nat) (x : Cmd) : Option Nat :=
  match writtenPos x.word with
  | none => none
  | some p =>
    let d := x.descs.getD p 0
    if x.tokenOnly ∨ !isOpen d then none
    else
      match recordPa s c x.asid (dOtr d) with
      | some pa =>
        let o := getOT s pa
        if o.st = 1 ∧ o.vf = vmid (getCore s c) ∧ o.feed.isSome then some (dOtr d) else none
      | none => none

/-- A channel adopts the values of its queue's engine as a copy starts on it (R313). -/
def startChannel (s : State) (c h : Nat) : State :=
  match (getChan (getCore s c) h).head? with
  | none => s
  | some x => onCore s c fun k => adopt k (8 + h) (sigOf s c (actQueue 8 x + 1))

/-- A command that has issued is refused as it reaches the record of a fed tensor: the fault becomes pending, and it has
nothing left to do but to retire, off its channel (R424). -/
def refuseFed (s : State) (c a i va : Nat) : State :=
  let x := getAct (getCore s c) a i
  let done := { x with stage := 4, ran := true, begun := true }
  let s := pendC s c { cause := cAccess, einfo := BitVec.ofNat 64 va }
  if 8 ≤ a then
    let q := actQueue a x
    let s := onCore s c fun k =>
      let k := setActs k a (dropAt (actsOf k a) i)
      setEng k q { getEng k q with active := (getEng k q).active ++ [done] }
    if i = 0 then startChannel s c (a - 8) else s
  else putAct s c a i done

/-- The next phase of an agent's command: it halts at a record that does not translate, is refused as it first reaches that of
a fed tensor, and else performs its operation as far as it can go (R270, R335, R424). -/
def runAgent (s : State) (c a i : Nat) : State :=
  let x := getAct (getCore s c) a i
  match lostRecord s c x with
  | some (port, b) =>
    let r := haltBlock s c x b port
    putAct r.1 c a i r.2
  | none =>
    match (if x.stage = 0 ∧ !x.begun ∧ x.rule.isNone ∧ !x.ran then fedRecord s c x.cmd else none) with
    | some va => refuseFed s c a i va
    | none => runPhase s c a i

/-- The takes of the head are performed: each receives its token's signal, and one that was refused leaves its edge (R31,
R310, R317). -/
def performTakes (s : State) (c q : Nat) (x : Cmd) : State :=
  (takesOf q x.word).foldl (fun s i =>
    let k := getCore s c
    let g := (getTok k i).headD {}
    let e := getEng k q
    let s := releaseEdge s c (q + 1) 2 i g (if e.refused.contains i then e.waited else 0)
    onCore s c fun k => setTok k i (getTok k i).tail) s

/-- A new active command has entered its engine, or its channel for a copy. -/
def enterActive (s : State) (c q : Nat) (x : Active) (chan : Bool) : State × Nat × Nat :=
  let a := if chan then 8 + (actE x).chan.toNat else q + 1
  let i := (actsOf (getCore s c) a).length
  (onCore s c fun k => setActs k a (actsOf k a ++ [x]), a, i)

/-- The MMAs that the operand fetcher works on: the active one, and those pushed behind it, 16 ahead at most, with their
places in MXQ. -/
def fetchList (s : State) (c : Nat) : List (Option Nat × Active) :=
  let e := getEng (getCore s c) 1
  let isMma := fun w : W64 => decide (opcodeOf w = 0xA0)
  ((e.active.filter fun x => isMma x.cmd.word && decide (x.stage = 1)).map fun x => (none, x)) ++
    (((e.queue.zip (List.range e.queue.length)).filter fun x => isMma x.1.word && !x.1.tokenOnly).take 16).map fun x =>
      (some x.2, ({ cmd := x.1 } : Active))

/-- Of two events, if there are both, the one at the lower address. -/
def lowerItem (a b : Option Item) : Option Item :=
  match a, b with
  | some x, some y => if y.start < x.start then b else a
  | none, _ => b
  | _, none => a

/-- What the fetcher does next through a port: the command with its place in MXQ if it waits there, the event, and the
granule of a window that is filled, or none for block bytes that are read before the issue. Of one command it takes fills and
block bytes in ascending order of address together (R125). -/
def fetchNext (s : State) (c port : Nat) : Option (Option Nat × Active × Item × Option (Nat × Nat)) :=
  (fetchList s c).findSome? fun e =>
    let l := (if e.1.isNone then e.2.reads else (mmaPlan s c e.2).1).filter fun it => decide (it.port = port)
    let fill := fun it : Item => (unfilled (getCore s c) it).isSome
    let early := fun it : Item => e.1.isSome && decide (2 ≤ it.opnd)
    (lowerItem (l.find? fill) (l.find? early)).map fun it => (e.1, e.2, it, unfilled (getCore s c) it)

/-- The faults that the fetcher has met for the MMA at the head of MXQ, and that are pending: they halt its ports as it issues
(R126, R335). -/
def fetchHalts (s : State) (c : Nat) (x : Cmd) : List (Option PTrap) :=
  if opcodeOf x.word ≠ 0xA0 then []
  else [1, 2].map fun port =>
    ((getCore s c).ptraps.find? fun t => decide (t.port = some port)).filter fun _ =>
      match fetchNext s c port with
      | some (some 0, _) => true
      | _ => false

/-- The head command of a queue issues. -/
def issueHead (s : State) (c q : Nat) : State :=
  match (getEng (getCore s c) q).queue with
  | [] => s
  | x :: rest =>
    let e0 := getEng (getCore s c) q
    let halts := fetchHalts s c x
    let s := performTakes s c q x
    let s := if opcodeOf x.word = 0xB3 ∧ !x.tokenOnly then
        releaseEdge s c (q + 1) 3 0 (((getCore s c).rq.headD {}).sig) (if e0.refused.contains 12 then e0.waited else 0) else s
    let s := onCore s c fun k =>
      let k := setEng k q { getEng k q with queue := rest, streak := 0, waited := 0, refused := [] }
      { adopt k (q + 1) x.sig with actSeq := k.actSeq + 1 }
    let s := onCore s c fun k => { k with qsig := SMap.set (fun _ => {}) k.qsig q (sigOf s c (q + 1)) }
    let act : Active := { id := (getCore s c).actSeq, cmd := x, halted := halts.getD 0 none, halted2 := halts.getD 1 none }
    if x.tokenOnly then
      let r := if q = 3 then takePositions s c 1 { act with stage := 2, ran := true } else (s, { act with stage := 2, ran := true })
      (enterActive r.1 c q r.2 false).1
    else
      match fedRecord s c x with
      | some va =>
        let s := pendC s c { cause := cAccess, einfo := BitVec.ofNat 64 va }
        let s := if opcodeOf x.word = 0xB3 then onCore s c fun k => { k with rq := k.rq.tail } else s
        let r := if q = 3 then takePositions s c 1 act else (s, act)
        (enterActive r.1 c q { r.2 with stage := 4, ran := true } false).1
      | none =>
        let r := enterActive s c q act (isCopyWord x.word)
        let s := if 8 ≤ r.2.1 ∧ r.2.2 = 0 then startChannel r.1 c (r.2.1 - 8) else r.1
        let s := runAgent s c r.2.1 r.2.2
        if opcodeOf x.word = 0xB3 then runAgent s c r.2.1 r.2.2 else s

/-- A SAQ abandoned at a trap entry issues again, before anything of its queue and without takes (R180). -/
def issueAgain (s : State) (c : Nat) : State :=
  match (getEng (getCore s c) 4).again with
  | [] => s
  | x :: rest =>
    let s := onCore s c fun k => setEng k 4 { getEng k 4 with again := rest }
    let r := enterActive s c 4 x false
    runAgent r.1 c 5 r.2.2

/-- COMMAND_ISSUE (R31, R202): the head command of a queue performs its takes and issues, once it may and no firing goes
before it. -/
def execCommandIssue (c q : Nat) (s : State) : Out :=
  let k := getCore s c
  .next (if q = 4 ∧ !(getEng k 4).again.isEmpty ∧ !issueStops k ∧ engineRoom k 4 0xB800000000000000 then issueAgain s c
    else if q < 6 ∧ canIssue s.now k q ∧ !laneFirst s c q then issueHead s c q
    else s)

/-! ### Accesses (R202, R203) -/

/-- The order of a command's reads, or of its writes, is not stated (R123, R125, R162, R168, R175, R233). -/
def anyOrder (x : Active) (write : Bool) : Bool :=
  let op := opcodeOf x.cmd.word
  let rows := decide (op = 0xB1) || decide (op = 0xB2)
  if write then decide (op = 0x84) || rows
  else if rows then decide (x.stage ≠ 1)
  else if op < 0x80 then x.rule.isNone
  else !(decide (op = 0xB0) || decide (0xB3 ≤ op) && decide (op ≤ 0xB5) || decide (op = 0x81) || decide (op = 0x85))

/-- The reads or the writes that a command has still to make. -/
def accessList (x : Active) (write : Bool) : List Item := if write then x.writes else x.reads

/-- The granule of its space that an event lies in. -/
def Item.granule (it : Item) : Nat := it.start / 16

/-- Two writes between which no order is stated where only that of the rows of an output is: of one row, which for EPI and
SRREAD goes through a window, or of two outputs of an SRREAD (R139, R177, R195). -/
def rowMates (x : Active) (y it : Item) : Bool :=
  let op := opcodeOf x.cmd.word
  let inStash := fun i : Item => decide (i.space = .stash) || i.win.isSome
  let row := fun i : Item => (i.elems.headD {}).key / 65536
  (decide (op = 0xBF) && decide (y.opnd ≠ it.opnd))
    || decide (row y = row it) &&
      (decide (op = 0xB8) || (decide (op = 0xA8) || decide (op = 0xBF)) && inStash y && inStash it)

/-- The event of a list that is asked for may be performed next: the first, or where no order is stated any read, and a write
before which none of its granule stands. -/
def mayPick (x : Active) (write : Bool) (n : Nat) : Bool :=
  let l := accessList x write
  match l[n]? with
  | none => false
  | some it =>
    if write then
      (l.take n).all fun y => (anyOrder x true || rowMates x y it)
        && !(decide (y.space = it.space) && decide (y.granule = it.granule))
    else decide (n = 0) || anyOrder x false

/-- Accesses wait: a copy's at a core whose engines are frozen or come to their stop, a vector command's at a core whose engines
are frozen, a SAQ's that is to be abandoned, and every one at a stopped or fenced core (R148, R356). -/
def accessStops (k : Core) (a : Nat) (x : Active) : Bool :=
  k.frozen || k.fenced || (enginesFrozen k && decide (a = 4) && x.rule.isNone)
    || ((enginesFrozen k || entryDue k) && (decide (8 ≤ a) || saqIdle x))

/-- The active commands of an agent whose accesses may come next: the head copy of a channel; in VXQ the oldest that has one
to make; elsewhere every one (R202, R203). -/
def accessors (k : Core) (a : Nat) : List Nat :=
  let l := actsOf k a
  if 8 ≤ a then (if l.isEmpty then [] else [0])
  else if a = 4 then (l.findIdx? fun x => !x.writes.isEmpty || !x.reads.isEmpty).toList
  else List.range l.length

/-- The reads or writes of an agent, each as a command and its place in that command's list. -/
def accessPairs (k : Core) (a : Nat) (write : Bool) : List (Nat × Nat) :=
  (accessors k a).flatMap fun i => (List.range (accessList (getAct k a i) write).length).map fun n => (i, n)

/-- An access of an agent's command may be made next: its port is not halted, and nothing keeps it (R202, R203, R335). -/
def mayAccess (k : Core) (a : Nat) (write : Bool) (p : Nat × Nat) : Bool :=
  let x := getAct k a p.1
  match (accessList x write)[p.2]? with
  | none => false
  | some it => !x.s2 && !haltedAt x it.port && !accessStops k a x && mayPick x write p.2 && (!write || copyReady x it)

/-- A fault meets a command: it is halted at the port, or the run is held (R126, R335, R336). A SAQ that has not begun
its writes starts again from its reads (R179). -/
def haltItem (s : State) (c : Nat) (x : Active) (it : Item) (b : Block) : State × Active :=
  let r := haltBlock s c x b it.port
  if isSaq x && !it.write then (r.1, { r.2 with stage := 1, reads := [], got := [], count := 0 }) else r

/-- Storage is missing for a write: a firing ends in a rule fault, any other command waits for the handler (R270, R276,
R287). -/
def quotaItem (s : State) (c : Nat) (x : Active) (it : Item) (n : Nat) (node : Bool) : State × Active :=
  if x.rule.isSome then (s, { x with reads := [], writes := [], traps := [quotaTrap n node] })
  else haltWith s c x (quotaTrap n node) it.port

/-- One event of a command: the state, the command, and whether the event is made. -/
def makeItem (s : State) (c a : Nat) (x : Active) (it : Item) : State × Active × Bool :=
  let b : By := { c := c, x := x, port := it.port }
  let stop := fun (p : Stop) =>
    match p with
    | .block bl => let r := haltItem s c x it bl; (r.1, r.2, false)
    | .quota n node => let r := quotaItem s c x it n node; (r.1, r.2, false)
    | .far t => if farRoom (getCore s c) then (forwardItem s b a it t, { x with farOut := x.farOut + 1 }, true) else (s, x, false)
    | _ => (s, x, false)
  match unfilled (getCore s c) it with
  | some (i, g) =>
    match fillGranule s { b with inWin := true } i g with
    | .ok s => (s, x, false)
    | .error p => stop p
  | none =>
    if it.write then
      match writeItem s b it with
      | .ok r => (r.1, { x with clean := r.2 }, true)
      | .error p => stop p
    else
      match readItem s b it with
      | .ok r => (r.1, { x with got := x.got ++ r.2 }, true)
      | .error p => stop p

/-- The slice attention unit that a physical frame is homed at (R170). -/
def homeUnit (fr : Nat) : Nat :=
  if fr / 2 ^ 32 = 0 then unitDie (memUnit (fr * 65536)) * 40 + fr % 40 else fr % 160

/-- The unit that performs a SAQ's read of an element of K or V: the home of the K page of its slice (R175, R214). -/
def saqUnit (x : Active) (it : Item) : Option Nat :=
  if isSaq x ∧ 2 ≤ it.opnd then
    let k := (it.elems.headD {}).key / 128
    (x.pages.find? fun p => !p.v && decide (p.page = slicePage (kvGeo x false).2 k)).map fun p => homeUnit p.frame
  else none

/-- An access of an agent's command is made as one event, and counted at its port (R335); one that a slice attention unit makes
advances that unit's time (R214). -/
def accessOne (s : State) (c a : Nat) (write : Bool) (p : Nat × Nat) : State :=
  let x := getAct (getCore s c) a p.1
  match (accessList x write)[p.2]? with
  | none => s
  | some it =>
    let r := makeItem s c a x it
    let y := if !r.2.2 then r.2.1
      else
        let y := countAt r.2.1 it.port (· + 1)
        if write then { y with writes := y.writes.eraseIdx p.2 } else { y with reads := y.reads.eraseIdx p.2 }
    let s := match (if r.2.2 then saqUnit x it else none) with
      | some u => stampUnit r.1 u
      | none => r.1
    putAct s c a p.1 y

/-- The `n`-th read or write of an agent's commands is made, if it may be. -/
def accessAt (s : State) (c a : Nat) (write : Bool) (n : Nat) : State :=
  match (accessPairs (getCore s c) a write)[n]? with
  | some p => if mayAccess (getCore s c) a write p then accessOne s c a write p else s
  | none => s

/-- ACCESS (R202): an active command, a firing or the head copy of a channel performs an access, or moves a far one to
its far queue. -/
def execAccess (c a : Nat) (write : Bool) (n : Nat) (s : State) : Out := .next (accessAt (stampEvent s c) c a write n)

/-! ### Fills and write-backs (R35, R125) -/

/-- The next access of an agent's command that waits for a granule of a window. -/
def waitsFor (k : Core) (a g : Nat) : Option (Active × Item × Nat) :=
  (actsOf k a).findSome? fun x =>
    if x.s2 || accessStops k a x then none
    else
      let next := fun write : Bool =>
        let l := accessList x write
        ((List.range l.length).filter (mayPick x write)).filterMap fun n => l[n]?
      (next false ++ next true).findSome? fun it =>
        match unfilled k it with
        | some (i, h) => if h = g ∧ !haltedAt x it.port then some (x, it, i) else none
        | none => none

/-- Agents of a core that make accesses. -/
def agentList : List Nat := [1, 2, 3, 4, 5, 6, 8, 9, 10, 11, 12, 13, 14, 15]

/-- An active command is replaced, by its number. -/
def putById (s : State) (c a : Nat) (x : Active) : State :=
  onCore s c fun k => setActs k a ((actsOf k a).map fun y => if y.id = x.id then x else y)

/-- WINDOW_FILL (R35): the granule that an access waits for is filled, or the fault of the fill halts the port. -/
def execWindowFill (c g : Nat) (s : State) : Out :=
  let k := getCore s c
  .next (agentList.foldl (fun (acc : State × Bool) a =>
    if acc.2 then acc
    else
      match waitsFor k a g with
      | none => acc
      | some (x, it, _) =>
        let r := makeItem (stampEvent acc.1 c) c a x it
        (putById r.1 c a r.2.1, true)) (s, false)).1

/-- WINDOW_WRITEBACK (R35): a dirty granule is written back; memory already reads as the window does. -/
def execWindowWriteback (c g : Nat) (s : State) : Out :=
  .next (onCore s c fun k =>
    { k with wins := k.wins.map fun w => { w with dirty := w.dirty.filter fun d => decide (d.off ≠ g) } })

/-- Block bytes are read for the command at a place of MXQ. -/
def keepEarly (k : Core) (i : Option Nat) (l : List Got) : Core :=
  match i with
  | some i => setEng k 1 { getEng k 1 with queue := (getEng k 1).queue.modify i fun x => { x with early := x.early ++ l } }
  | none => k

/-- A fault of the fetcher: it halts the port of the active MMA, or for one that waits becomes pending (R126). -/
def fetchFault (s : State) (c : Nat) (i : Option Nat) (x : Active) (port : Nat) (p : Stop) : State :=
  match p with
  | .block (.trap t) =>
    if i.isNone then
      let r := haltWith s c x { t with eslot := 0 } port
      putById r.1 c 2 r.2
    else pendC s c { t with eslot := 0, port := some port }
  | .block (.s2 f) => onCore s c fun k => { k with s2fault := some { f with port := port } }
  | _ => s

/-- The fetcher goes no further through a port: it is halted, or the engines stand. -/
def fetchStops (k : Core) (port : Nat) : Bool :=
  issueStops k || k.ptraps.any (fun t => decide (t.port = some port))
    || (getEng k 1).active.any fun x => haltedAt x port || x.s2

/-- OPERAND_FETCH (R125, R126): the fetcher fills the next granule of an MMA through OPA or OPB, or reads the block bytes of
one that waits in MXQ; a fault halts the port. -/
def execOperandFetch (c port : Nat) (s : State) : Out :=
  .next (if fetchStops (getCore s c) port then s
    else
      match fetchNext s c port with
      | none => s
      | some (i, x, it, w) =>
        let s := stampEvent s c
        let b : By := { c := c, x := x, port := it.port }
        let r : Except Stop State := match w with
          | some (n, g) => fillGranule s { b with inWin := true } n g
          | none => (readItem s b it).map fun r : State × List Got => onCore r.1 c fun k => keepEarly k i r.2
        match r with
        | .ok s => s
        | .error p => fetchFault s c i x it.port p)

/-- The next access through a port: its agent, whether it is a write, and its place. -/
def portAccess (k : Core) (port : Nat) : Option (Nat × Bool × Nat × Nat) :=
  (agentList.flatMap fun a => [(a, false), (a, true)]).findSome? fun e =>
    ((accessPairs k e.1 e.2).find? fun p =>
      mayAccess k e.1 e.2 p && ((accessList (getAct k e.1 p.1) e.2)[p.2]?.any fun it => decide (it.port = port))).map
        fun p => (e.1, e.2, p)

/-- STREAM_FAULT (R335): the next access of a port meets its fault, which halts the port there; an access that meets
none is left as it stands. -/
def execStreamFault (c port : Nat) (s : State) : Out :=
  .next (match portAccess (getCore s c) port with
    | none => s
    | some (a, write, p) =>
      let t := accessOne s c a write p
      let x := getAct (getCore t c) a p.1
      if haltedAt x port || x.s2 then t else s)

/-! ### Retirement and tokens (R31, R33, R204) -/

/-- FP_TRAP of a command that counted elements under TRAP (R90, R352). -/
def fpTrap (a : Nat) (x : Active) : List PTrap :=
  if x.fpN = 0 then []
  else [{ cause := 0x09, einfo := BitVec.ofNat 64 (a * 2 ^ 60 + min x.fpN 0xFFFF * 65536 + x.fpDz.toNat * 256 + opcodeOf x.cmd.word) }]

/-- A give into a FIFO that has room: its token carries the giver's values (R31, R312). -/
def giveTo (s : State) (c q fifo : Nat) : State :=
  onCore s c fun k => setTok k fifo (getTok k fifo ++ [sigOf s c (q + 1)])

/-- A FIFO grants a give. -/
def grants (k : Core) (fifo : Nat) : Bool := decide ((getTok k fifo).length ≤ 14)

/-- The gives that are still due of an agent's command are granted where there is room; it leaves when none is left. DESIGN
CHOICE: of two gives of which only one FIFO has room, the model grants that one at once and the other later, since R31 has
the two performed together and yet lets single gives be refused. -/
def settleGives (s : State) (c a i : Nat) : State :=
  let x := getAct (getCore s c) a i
  let q := actQueue a x
  let l := x.giveL && grants (getCore s c) (fifoGiveL q)
  let s := if l then giveTo s c q (fifoGiveL q) else s
  let r := x.giveR && grants (getCore s c) (fifoGiveR q)
  let s := if r then giveTo s c q (fifoGiveR q) else s
  let y := { x with giveL := x.giveL && !l, giveR := x.giveR && !r }
  if y.giveL || y.giveR then putAct s c a i y
  else
    let s := onCore s c fun k => setActs k a (dropAt (actsOf k a) i)
    if 8 ≤ a then startChannel s c (a - 8) else s

/-- A command may retire. -/
def mayRetire (k : Core) (a : Nat) (x : Active) : Bool :=
  actDone x && !isHalted x && !x.s2 && !x.retiring && !k.frozen && !k.fenced && (!isSaq x || x.cmd.tokenOnly || decide (4 ≤ x.stage))
    && !(enginesFrozen k && (decide (a = 4) || decide (8 ≤ a)))
    && !rqOverflows k x

/-- The results of a vector command that retires stand in their registers for the other engines (R147). -/
def retireRecs (id : Nat) (k : Core) : Core :=
  { k with flight := (k.flight.filter fun r => !(r.stood && decide (r.id = id))).map fun r =>
      if r.id = id then { r with landed := true } else r }

/-- What a retirement does before its gives: publishes, RQ entries, traps, and the release of its holds. -/
def retireEffects (s : State) (c a i : Nat) : State :=
  let x := getAct (getCore s c) a i
  let g := sigOf s c a
  let s := if opcodeOf x.cmd.word = 0xB5 && !x.cmd.tokenOnly then finishMirror s c x else s
  let s := if x.void then s else x.pubs.foldl (fun s p => publishAppend s c p.1 p.2 g) s
  let s := (dueRq x).foldl (fun s v => onCore s c fun k => pushRq s.now (a = 5) k { val := v, sig := g }) s
  let s := (x.traps ++ fpTrap a x).foldl (fun s t => pendC s c t) s
  let s := onCore s c fun k =>
    let k := if a = 4 then retireRecs x.id k else k
    if 8 ≤ a then { k with chsig := SMap.set (fun _ => {}) k.chsig (a - 8) g, chLast := a - 8 } else k
  releaseHolds s x.holds

/-- COMMAND_RETIRE (R31, R204): the oldest command of an engine or channel retires once all it does is visible; its
gives are presented, and refused ones keep it. -/
def execCommandRetire (c a : Nat) (s : State) : Out :=
  .next (match retireIndex (getCore s c) a with
    | none => s
    | some i =>
      let x := getAct (getCore s c) a i
      if (8 ≤ a ∧ i ≠ 0) ∨ !mayRetire (getCore s c) a x then s
      else
        let s := retireEffects s c a i
        let y := { getAct (getCore s c) a i with
          retiring := true, rq := [], traps := [], pubs := [], holds := [], fpN := 0,
          giveL := x.cmd.word.getLsbD 53, giveR := x.cmd.word.getLsbD 52 }
        settleGives (putAct s c a i y) c a i)

/-- TOKEN_GIVE_GRANTED (R31): a give that was refused at retirement is granted once its FIFO has room. -/
def execTokenGiveGranted (c q : Nat) (s : State) : Out :=
  let k := getCore s c
  let hit := agentList.foldl (fun (acc : Option (Nat × Nat)) a =>
    match acc with
    | some r => some r
    | none => ((actsOf k a).findIdx? fun x => x.retiring && decide (actQueue a x = q)).map fun i => (a, i)) none
  .next (match hit with
    | some (a, i) => if k.frozen || k.fenced then s else settleGives s c a i
    | none => s)

/-- TOKEN_DEADLOCK (R32): both conditions have held for 4,096 cycles, and the trap becomes pending. -/
def execTokenDeadlock (c : Nat) (s : State) : Out :=
  .next (if 4096 ≤ (getCore s c).deadlock then
      onCore (pendC s c { cause := 0x12 }) c fun k => { k with deadlock := 0 }
    else s)

/-! ### Firings (R282 to R287) -/

/-- A window of a rule's descriptors that does not stand on the slice of the rule's firing: it stands on another slice, or is
another rule's that has the same mapping. -/
def standsOff (descs : List W512) (n slice : Nat) (w : Win) : Bool :=
  (decide (w.rule ≠ some n) || decide (w.slice ≠ slice)) && descs.any fun d => hasWindow d && sameMapping w.desc d

/-- A rule's windows stand on the slice of the firing that begins: those of an earlier slice are written back and
rebased (R270, R418). -/
def rebaseWins (k : Core) (descs : List W512) (n slice : Nat) : Core :=
  { k with wins := k.wins.map fun w =>
      if standsOff descs n slice w then { w with rule := some n, slice := slice, filled := [], dirty := [] } else w }

/-- The firing begins, with the values of the event that made its slice eligible (R313); that of an RSKIP stays at its slice,
and is void once a rejection has reached it (R308). -/
def startFiring (s : State) (c q n : Nat) : State :=
  let r := getRule (getCore s c) n
  let o := getOT s r.srcPa
  let slice := nextSlice r
  let g := r.rearm.getD (raiseSig (if opcodeOf r.cmd.word = 0xBD then o.clog else o.tlog) slice)
  let s := ((getCore s c).wins.filter (standsOff r.cmd.descs n slice)).foldl (looseWindow c) s
  let s := onCore s c fun k =>
    let k := rebaseWins (adopt k (q + 1) g) r.cmd.descs n slice
    let k := setRule k n { r with st := .firing, rearm := none, fired := true, last := slice }
    let e := getEng k q
    let x : Active := { id := k.actSeq + 1, cmd := r.cmd, rule := some n, slice := slice, skip := r.skip,
                        void := r.skip && r.skipVoid }
    { setEng k q { e with streak := e.streak + 1, active := e.active ++ [x] } with actSeq := k.actSeq + 1 }
  runAgent s c (q + 1) ((getEng (getCore s c) q).active.length - 1)

/-- RULE_FAULT with its detail (R287). -/
def ruleFault (n slice : Nat) (cause : BitVec 8) : PTrap :=
  { cause := 0x0A, einfo := BitVec.ofNat 64 (slice % 2 ^ 40 * 2 ^ 13 + n * 256 + cause.toNat) }

/-- The page of the slice that a rule's next firing reads, if that can be read and the page is lost (R390). -/
def lostSource (s : State) (r : Rule) : Option Nat :=
  let o := getOT s r.srcPa
  let pa := slicePa s o r.cursor 0
  if sliceReadable s o r.cursor ∧ isLost s (pa / 65536) then some pa else none

/-- A firing that would read a lost page does not start: a rule fault at its slice (R287, R390). -/
def lostFiring (s : State) (c n : Nat) : State :=
  let s := pendC s c (ruleFault n (getRule (getCore s c) n).cursor 0x10)
  onRule s c n fun r => { r with st := .faulted, cause := 0x10, skip := false }

/-- FIRING (R282, R283): an engine takes the firing that is next; after 16 in a row its queue's head goes first if it
can issue. One of a command on a tile waits while the other engine holds that tile (R129), and one whose slice lies in a lost
page until that is repaired (R389, R390). -/
def execFiring (c q : Nat) (s : State) : Out :=
  let k := getCore s c
  .next (if q < 6 ∧ laneOpen k q ∧ !(16 ≤ (getEng k q).streak ∧ canIssue s.now k q) then
      match nextFiring s c q with
      | some n =>
        let r := getRule (getCore s c) n
        if tileHeld k q r.cmd then s
        else
          match (if r.skip then none else lostSource s r) with
          | some pa => if needsRepair s pa then s else lostFiring s c n
          | none => startFiring s c q n
      | none => s
    else s)

/-- The publish of a fed tensor through the firing's slice: F rises, and the counters follow the source (R284). -/
def publishFed (s : State) (c q : Nat) (r : Rule) (slice : Nat) : Except (Nat × Bool) State :=
  match r.feed with
  | none => .ok s
  | some (_, d) =>
    if (getOT s d).st ≠ 1 then .ok s
    else
      (claim s d slice).map fun s =>
        let o := getOT s d
        let u := getOT s r.srcPa
        let f := max o.filled (slice + 1)
        retain (changeCounters s d { o with filled := f, c := min u.c f, p := min u.p f, t := min u.t f } (sigOf s c (q + 1))) d

/-- The firing leaves its engine, and its holds end. -/
def dropFiring (s : State) (c q i : Nat) (x : Active) : State :=
  releaseHolds (onCore s c fun k => setActs k (q + 1) (dropAt (actsOf k (q + 1)) i)) x.holds

/-- The firing ends in a rule fault: FAULTED, or as R285 and R423 state after a rejection or with a REVOKE pending. A slot
that is free stays so. -/
def endFault (s : State) (c q i n : Nat) (x : Active) (cause : BitVec 8) : State :=
  let s := dropFiring s c q i x
  let r := getRule (getCore s c) n
  if r.st = .free then s
  else if x.void then
    if r.pend = .revoke then freeRule s c n
    else onRule s c n fun r => { r with st := if r.pend = .pause then .paused else .armed, skip := false, pend := .none }
  else
    let s := pendC s c (ruleFault n x.slice cause)
    if r.pend = .revoke then freeRule s c n
    else onRule s c n fun r => { r with st := .faulted, cause := cause, skip := false }

/-- The firing has retired: the cursor moves on, and a pause or revocation that waited takes effect (R281, R288). A slot that
is free stays so. -/
def endFiring (s : State) (c q i n : Nat) (x : Active) : State :=
  let s := dropFiring s c q i x
  let s := onCore s c fun k => bump k 12 1
  if (getRule (getCore s c) n).st = .free then s
  else
  let s := onRule s c n fun r =>
    { r with st := if r.pend = .pause then .paused else .armed, skip := false, cause := 0,
             cursor := if x.void then r.cursor else r.cursor + 1 }
  let r := getRule (getCore s c) n
  let reached := match r.revokeAt with
    | some m => decide (m ≤ r.cursor)
    | none => false
  let s := if decide (r.pend = .revoke) || reached then freeRule s c n else onRule s c n fun r => { r with pend := .none }
  retain s r.srcPa

/-- FIRING_RETIRE (R284, R285, R287): a firing that has made every access publishes a fed tensor, pushes its RQ entries
and retires, or ends in a rule fault. -/
def execFiringRetire (c q : Nat) (s : State) : Out :=
  let k := getCore s c
  .next (match (getEng k q).active.findIdx? fun x => x.rule.isSome with
    | none => s
    | some i =>
      let x := getAct k (q + 1) i
      let n := x.rule.getD 0
      let faults := x.traps ++ fpTrap (q + 1) x
      if k.frozen || k.fenced || isHalted x || x.s2 || !(actDone x || (!x.traps.isEmpty && decide (x.farOut = 0))) then s
      else
        match faults with
        | t :: _ => endFault s c q i n x t.cause
        | [] =>
          if rqOverflows k x then s
          else
            let r := getRule k n
            match (if x.void then .ok s else publishFed s c q r x.slice) with
            | .error _ => endFault s c q i n x 0x0B
            | .ok s =>
              let g := sigOf s c (q + 1)
              let s := (dueRq x).foldl (fun s v => onCore s c fun k => pushRq s.now (q = 4) k { val := v, sig := g }) s
              let s := if q = 3 then onCore s c (retireRecs x.id) else s
              endFiring s c q i n x)

end Sys2Proof.Machine
end

