-- ==== Sys2Proof/Machine/Issue.lean ====
section
/-! DEFINITION. The issue of bundles: fetch, the checks at decode (R61), the header wait (R44), the interlocks of R27,
the slots, and the traps taken at issue and at bundle boundaries (R352 to R362). -/

namespace Sys2Proof.Machine

open Sys2Proof

/-! ### Fetch -/

/-- Where the next bundle of a core is fetched: translated with X and the CC bit (R217, R327); a flag page is no place to
fetch from. -/
def fetchAt (s : State) (k : Core) : Except Block Trans :=
  match translate s (vmid k) (asidOf s k) k.pc false false true [portMask 8] with
  | .ok t => if isFlagPage t.pa then .error (.trap { cause := cAccess, einfo := BitVec.ofNat 64 k.pc }) else .ok t
  | x => .error ((xlBlock 8 false k.pc x).getD (.trap { cause := cPage }))

/-- Where the next bundle of core `c` is fetched. -/
def fetchPlace (s : State) (c : Nat) : Except Block Trans := fetchAt s (getCore s c)

/-- The bundle lies in a lost page that is to be repaired from its far mirror first (R389). -/
def fetchWaits (s : State) (k : Core) : Bool :=
  match fetchAt s k with
  | .ok t => needsRepair s t.pa && (SMap.get (fun _ => none) k.icache (t.pa / 32)).isNone
  | .error _ => false

/-- What a fetch of the sector at a physical address in the package's memory may return, where nothing is poisoned: the bundle that
stands in the instruction cache, the bytes of memory, and those that memory has held since the core's last IFENCE (R210, R228). -/
def fetchChoices (k : Core) (s : State) (pa : Nat) (now : Option (BitVec 256)) : List (Option (BitVec 256)) :=
  let kept := (SMap.get (fun _ => none) k.icache (pa / 32)).toList.map some
  let past := (SMap.get (fun _ => []) s.codeOld (pa / 32)).filter fun e => decide (k.fenceTick ≤ e.1)
  (kept ++ now :: past.map fun e => some e.2).eraseDups

/-- The bundle at the program counter has been fetched already, and is held at issue. -/
def bundleHeld (k : Core) : Bool := decide (k.stall ≠ .none) || decide (k.hdrOk = some k.pc)

/-- One of some choices: the only one, or a free one. -/
def chooseFree {α : Type} (s : State) (l : List α) (d : α) : State × α :=
  match l with
  | [x] => (s, x)
  | _ => ({ s with free := s.free + 1 }, l.getD (freeStart s l.length) d)

/-- The words of a bundle, and whether they come with poison. A bundle of the package's own memory is one of the choices that R210
leaves. Far and host-bias memory supply it from outside, on a request that is sent there (R342, R345, R387). -/
def fetchWords (s : State) (c : Nat) (t : Trans) : State × Option (BitVec 256) :=
  let k := getCore s c
  if goesOut t then
    let r := outsideRead (outRequest s (vmid k) { pa := t.pa, va := k.pc, size := 32 }) 32
    (r.1, if r.2.2 then none else some (ofBytes 256 r.2.1))
  else
    let r := readPhys s t.pa 32 {}
    let now := if r.2.2 then none else some (ofBytes 256 r.2.1)
    chooseFree r.1 (fetchChoices k r.1 t.pa now) none

/-- The bundle at the program counter: the one that stands in the core's instruction cache while it is held at issue, or where
its memory is outside (R228), and else what a fetch returns. -/
def fetchBundle (s : State) (c : Nat) : State × Except Block (BitVec 256) :=
  match fetchPlace s c with
  | .error b => (s, .error b)
  | .ok t =>
    let k := getCore s c
    let trap := fun cause : BitVec 8 => Except.error (Block.trap { cause := cause, einfo := BitVec.ofNat 64 k.pc })
    let s := touchLeaves s t false
    match (SMap.get (fun _ => none) k.icache (t.pa / 32)).filter fun _ => bundleHeld k || goesOut t with
    | some w => (s, .ok w)
    | none =>
      if targetDown s t.pa then (s, trap 0x11)
      else
        match fetchWords s c t with
        | (s, none) => (s, trap 0x10)
        | (s, some w) => (onCore s c fun k => { k with icache := SMap.set (fun _ => none) k.icache (t.pa / 32) (some w) }, .ok w)

/-! ### The bundle (R42, R43) -/

/-- The header word. -/
def headerOf (w : BitVec 256) : W64 := bits w 0 64

/-- The word of a slot. -/
def slotWord (w : BitVec 256) (n : Nat) : W64 := bits w (64 * n) 64

/-- The slot's present bit. -/
def present (w : BitVec 256) (n : Nat) : Bool := bit (headerOf w) (36 + n)

/-- The present slots with their words. -/
def presentSlots (w : BitVec 256) : List (Nat × W64) :=
  ([1, 2, 3].filter (present w)).map fun n => (n, slotWord w n)

/-- The state with a slot in issue. -/
def atSlot (s : State) (n : Nat) (w : W64) : State := { s with ctx := { s.ctx with slot := n, word := w } }

/-- The state with a bundle of core `c` in issue: registers as they stand before it. -/
def beginBundle (s : State) (c : Nat) (h : W64) : State :=
  let k := getCore s c
  { s with cur := c, role := .slot,
           ctx := { old := k.regs, lit := h.setWidth 32, gen := field h 35 2, pc := k.pc } }

/-! ### Checks (R61) -/

/-- PRIVILEGED of an instruction marked supervisor-only, and of the register and counter accesses of R22 and R321. -/
def privBlock (i : Instr) (s : State) : Option Block :=
  match i with
  | .biasflipHost _ _ => supBlock s
  | .biasflipDev _ _ => supBlock s
  | .tagnewRoot _ _ => supBlock s
  | .eret _ _ => supBlock s
  | .ctxsave _ _ => supBlock s
  | .ctxload _ _ => supBlock s
  | .crd f o => crBlock false f o s
  | .cwr f o => crBlock true f o s
  | .perfrd _ o => perfBlock o s
  | _ => none

/-- The checks of one slot: opcode, field codes, privilege. -/
def decodeSlot (s : State) (w : W64) : Except Block Instr :=
  match decode w with
  | .error .illegalOpcode => .error (.trap { cause := 0x01, einfo := w })
  | .error .illegalField => .error (.trap { cause := 0x02, einfo := w })
  | .ok i =>
    match privBlock i s with
    | some b => .error b
    | none => .ok i

/-- Each present slot checked in slot order: the slots' instructions, or the first failure with its slot. -/
def decodeSlots (s : State) : List (Nat × W64) → Except (Nat × W64 × Block) (List (Nat × W64 × Instr))
  | [] => .ok []
  | (n, w) :: l =>
    match decodeSlot (atSlot s n w) w with
    | .error b => .error (n, w, b)
    | .ok i =>
      match decodeSlots s l with
      | .error e => .error e
      | .ok r => .ok ((n, w, i) :: r)

/-- What stops a control-core slot as its bundle issues, by its own chapter. -/
def slotBlock (i : Instr) (s : State) : Option Block :=
  match i with
  | .div f o => divFault f o s
  | .rem f o => divFault f o s
  | .ld f o => ldBlock f o s
  | .st f o => stBlock f o s
  | .amo f o => amoBlock f o s
  | .cas f o => casBlock f o s
  | .amobnd f o => amobndBlock f o s
  | .dld f o => descBlock false f o s
  | .dst f o => descBlock true f o s
  | .biasflipHost f o => biasBlock true f o s
  | .biasflipDev f o => biasBlock false f o s
  | .fbind f o => fbindBlock f o s
  | .barTeam f o => barBlock f o s
  | .barDie f o => barBlock f o s
  | .barPkg f o => barBlock f o s
  | .barPod f o => barBlock f o s
  | .slopen f o => sliceBlock true false f o s
  | .slopenFeed f o => sliceBlock true false f o s
  | .slfork f o => sliceBlock false true f o s
  | .slpub f o => sliceBlock false false f o s
  | .sltent f o => sliceBlock false false f o s
  | .slcommit f o => sliceBlock false false f o s
  | .slreject f o => sliceBlock false false f o s
  | .sldrop f o => sliceBlock false false f o s
  | .slquery f o => sliceBlock false false f o s
  | .spawn f o => spawnBlock f o s
  | .spawnNb f o => spawnBlock f o s
  | .joinadd f o => joinaddBlock f o s
  | .stepend f o => stependBlock f o s
  | .ctxsave f o => ctxBlock false f o s
  | .ctxload f o => ctxBlock true f o s
  | .brk f o => brkBlock f o s
  | .sflush f o => windowBlock f o s
  | .sflushUnmap f o => windowBlock f o s
  | .sdrop f o => windowBlock f o s
  | _ => none

/-- The core with a checked command's descriptors, whose kind-2 ranges the slots after it meet (R120). -/
def withRanges (k : Core) (l : List W512) : Core := { k with buf := k.buf ++ [{ ev := .push 0 { descs := l } }] }

/-- The descriptors of a slot that pushes, and of one that installs none. -/
def pushedDescs (s : State) (i : Instr) (w : W64) : List W512 :=
  let rd := srcD s
  let us := usesOf i w rd
  match instKind w us rd with
  | .install _ => []
  | .none => []
  | ik => capture (commandUses w us ik) rd

/-- The checks of the slots as they are pushed, in slot order, over the windows, kind-2 ranges and rules that earlier slots
bring (R60, R120). -/
def pushChecks (s : State) : Core → List (Nat × W64 × Instr) → Option (Nat × W64 × Block)
  | _, [] => none
  | k, (n, w, i) :: l =>
    let t := atSlot s n w
    if queueRouted w then
      if predOk t (frameOf w) then
        match queueCheck t t.cur (asidOf t (oldCore t)) (srcD t) i w k with
        | .error b => some (n, w, b)
        | .ok k => pushChecks s (withRanges k (pushedDescs t i w)) l
      else pushChecks s k l
    else
      match slotBlock i t with
      | some b => some (n, w, b)
      | none => pushChecks s k l

/-! ### Interlocks (R27) -/

/-- A scalar register of a slot's field at a bit. -/
def regAt (w : W64) (lo : Nat) : Nat := field w lo 6

/-- The pair that a field names. -/
def pairAt (n : Nat) : List Nat := [n / 2 * 2, n / 2 * 2 + 1]

/-- The data operands that a memory instruction reads beside its address: one scalar, or a pair at size 16. -/
def dataReads (o : OpM) (l : List Nat) : List Nat := if o.size = 4 then l.flatMap pairAt else l

/-- The scalar sources that a slot of the control core reads. -/
def scalarReads (i : Instr) (w : W64) : List Nat :=
  let u := usedBits i
  let base := ([(35, 6), (29, 6), (38, 6), (32, 6)].filter fun b => u.contains b).map fun b => regAt w b.1
  let own := match i with
    | .frd _ _ => []
    | .edgerd _ _ => [regAt w 35]
    | .cas _ o => regAt w 35 :: dataReads o [o.data.toNat, o.index.toNat]
    | .st _ o => base ++ dataReads o [o.data.toNat]
    | .amo _ o => base ++ dataReads o [o.data.toNat]
    | .amobnd _ o => base ++ [o.data.toNat]
    | .lih _ o => [o.dst.toNat]
    | .ret _ _ => [63]
    | _ => base
  if queueRouted w then [] else own.filter fun n => decide (n ≠ 0)

/-- The registers that an access returns to: scalars by number, descriptors from 64 on. -/
def destScalars : Dest → List Nat
  | .s n => [n]
  | .pair n => [n / 2 * 2, n / 2 * 2 + 1]
  | .d n => [64 + n]

/-- The registers that a program buffer entry is still to write. -/
def evDests (e : Ev) : List Nat :=
  match e with
  | .access a =>
    match a.kind with
    | .st => []
    | .dst => []
    | _ => destScalars (accessDest a)
  | .frd _ dst => [dst]
  | .waitf _ _ _ _ dst _ => [dst]
  | .ffence dst _ => [dst]
  | .bar _ _ dst _ _ => [dst]
  | .spawn _ _ _ dst _ _ _ => [dst]
  | .tagnew _ _ _ dst => [dst]
  | .slice _ _ _ dst => [dst]
  | .stepend _ dst _ => [dst]
  | .edgerd _ _ dst st _ => [dst, st]
  | _ => []

/-- The registers whose loads have not returned. -/
def pendingScalars (k : Core) : List Nat :=
  (k.buf.flatMap fun b => (evDests b.ev).filter fun n => !b.dead.contains n)
    ++ (k.rets.flatMap fun r => (destScalars r.dest).filter fun n => !r.dead.contains n)
    ++ k.far.flatMap fun e => e.2.flatMap fun it =>
      match it.who with
      | .core b a =>
        if it.write && !it.atomic then [] else (destScalars (accessDest a)).filter fun n => !b.dead.contains n
      | _ => []

/-- The scalars of pops that have not completed: those of the core's present depth, since the pops that a trap found pending
complete after its ERET (R296). -/
def pendingPops (k : Core) : List Nat :=
  (k.pops.filter fun p => !p.dead && decide (p.depth = trapDepth k)).map fun p => p.dst

/-- The queue that a slot pushes into, or none: a slot that installs pushes nothing (R279). -/
def pushesTo (s : State) (n : Nat) (w : W64) (i : Instr) : Option Nat :=
  if !queueRouted w then none
  else
    let t := atSlot s n w
    let us := usesOf i w (srcD t)
    let q := (queueOf w us (srcD t)).getD 0
    if !predOk t (frameOf w) then some q
    else
      match instKind w us (srcD t) with
      | .install _ => none
      | _ => some q

/-- Pushes into a queue that stand in the program buffer. -/
def bufferedPushes (k : Core) (q : Nat) : Nat :=
  (k.buf.filter fun b => match b.ev with
    | .push p _ => decide (p = q)
    | _ => false).length

/-- A queue without room for all of the bundle's slots bound for it. -/
def fullQueue (k : Core) (pushes : List Nat) : Option Nat :=
  pushes.find? fun q => decide (64 < (getEng k q).queue.length + bufferedPushes k q + pushes.count q)

/-- A slot makes a memory request. -/
def requests (s : State) (e : Nat × W64 × Instr) : Bool :=
  predOk (atSlot s e.1 e.2.1) (frameOf e.2.1) && match e.2.2 with
    | .ld _ _ => true
    | .st _ _ => true
    | .amo _ _ => true
    | .cas _ _ => true
    | .amobnd _ _ => true
    | .dld _ _ => true
    | .dst _ _ => true
    | .spawn _ _ => true
    | .spawnNb _ _ => true
    | _ => false

/-- What holds a bundle whose header wait is satisfied; one whose memory requests would bring those outstanding above the
core's limit waits too (R12; assumption 58). -/
def stallOf (s : State) (k : Core) (l : List (Nat × W64 × Instr)) : Stall :=
  let reads := l.flatMap fun e => scalarReads e.2.2 e.2.1
  let n := (l.filter (requests s)).length
  let pops := reads.filter (pendingPops k).contains
  if pops ≠ [] then .rq pops
  else if reads.any (pendingScalars k).contains || (decide (0 < n) && decide (requestLimit < outstanding k + n)) then .other
  else
    match fullQueue k (l.filterMap fun e => pushesTo s e.1 e.2.1 e.2.2) with
    | some q => .queue q
    | none => .none

/-! ### Taking a trap -/

/-- The core stands at a bundle boundary for a trap or a save: its issued accesses have completed, its waits may be put
aside, and the vector engine has done what it must before the edge (R354, R355, R358). -/
def atBoundary (k : Core) (cause : BitVec 8) : Bool :=
  k.buf.all (parkable cause) && accessesDone k && vectorQuiet k

/-- The STEP that is due besides a trap that is taken, which stays pending (R353): none for a bundle of which an instruction that
held issue has faulted (R361, R421; assumption 15). -/
def stepLeft (k : Core) (t : PTrap) : List PTrap :=
  if (t :: k.ptraps.drop k.trapHold).any fun x => decide (x.eslot ≠ 0) then []
  else (k.stepDue.map stepTrap).toList.filter fun x => decide (x ≠ t)

/-- The engines have come to the stops of R356, or stand frozen already. -/
def stopsDone (k : Core) : Bool := isSup k || enginesAtRest (abandonSaqs k)

/-- A trap is taken (R355), with what R376 counts. -/
def enterTrap (s : State) (c : Nat) (t : PTrap) (epc : Nat) : State :=
  onCore s c fun k =>
    let n := if isSup k then 0 else (flightRecs k).length
    let k := { takeTrap { k with ptraps := k.ptraps ++ stepLeft k t } t epc with stepDue := none }
    if k.cancelled then k
    else
      let k := bump (bump k 68 n) 70 (if t.cause = 0x0F then 1 else 0)
      { k with parked := k.parked ++ k.buf, buf := [] }

/-- Nothing happens on the core: no run, a failed core, a precise stop, a run held at stage 2, or one that a cancellation
covers, which stops first (R353). -/
def coreStops (s : State) (k : Core) : Bool :=
  k.frozen || k.fenced || k.s2fault.isSome || runCancelled s k
    || match k.phase with
      | .idle => true
      | .starting => true
      | _ => false

/-- A handler of a Finishing run (R422): its FINISH stands among the waits put aside. -/
def finishParked (k : Core) : Bool :=
  k.parked.any fun b => match b.ev with
    | .finish _ => true
    | _ => false

/-- What cr.epc names at a boundary: the next bundle, which for a run that is Finishing is the one after FINISH's, whatever an
ERET has fetched from (R352, R422). -/
def trapPc (k : Core) : Nat :=
  match finishPc k.phase with
  | some pc => if finishParked k then k.pc else va55 pc 32
  | none => k.pc

/-- The pending trap that is due is taken, once the core stands at a boundary and its engines have stopped (R355). -/
def takeDue (s : State) (c : Nat) : State :=
  let k := getCore s c
  match dueTrap k with
  | none => s
  | some t =>
    if coreStops s k || !atBoundary k t.cause || !stopsDone k then s
    else
      let k1 := { k with ptraps := k.ptraps.take k.trapHold ++ (k.ptraps.drop k.trapHold).erase t }
      enterTrap (setCore s c k1) c t (trapPc k)

/-- ASYNC_TRAP_TAKEN (R353, R354, R355): at a bundle boundary the oldest pending trap, or STEP, is taken. -/
def execAsyncTrapTaken (c : Nat) (s : State) : Out := .next (takeDue s c)

/-! ### Issue -/

/-- A DLD holds issue until its register is written (R116, R421). -/
def awaitsDesc (k : Core) : Bool :=
  (k.rets.any fun r => match r.dest with
    | .d _ => true
    | _ => false) ||
  k.far.any fun e => e.2.any fun it => match it.who with
    | .core _ a => decide (a.kind = .dld)
    | _ => false

/-- The next bundle may be fetched: nothing of R353 comes first, and no instruction that holds issue is under way. -/
def mayFetch (s : State) (k : Core) : Bool :=
  !coreStops s k && (dueTrap k).isNone && k.save.isNone && !(k.buf.any fun b => b.holds) && !awaitsDesc k
    && (match k.phase with
      | .running => true
      | .finishing _ _ _ => finishParked k
      | _ => false)
    && !fetchWaits s k

/-- The wait that held the bundle ends, with its edge where it is a recorded one (R310). -/
def endStall (s : State) (c : Nat) : State :=
  let k := getCore s c
  let s := match k.stall with
    | .queue q => releaseEdge s c 0 6 (q + 1) (SMap.get (fun _ => {}) k.qsig q) k.waited
    | .rq _ => writeEdge s c 0 3 0 k.popSig k.waited k.popStamp
    | _ => s
  onCore s c fun k => { k with stall := .none, waited := 0 }

/-- An Issue trap of a slot, or a stage-2 hold, stops the bundle: earlier accesses complete and, for a trap, the engines come to
their stops first (R355). -/
def stopBundle (s : State) (c n : Nat) (w : W64) (b : Block) : State :=
  let s := endStall s c
  let k := getCore s c
  let ready := k.buf.isEmpty && accessesDone k && vectorQuiet k
  match b with
  | .trap t => if ready && stopsDone k then enterTrap s c { t with eslot := BitVec.ofNat 2 n } k.pc
    else onCore s c fun k => { k with stall := .trap }
  | .s2 _ => if ready then orBlock (atSlot s n w) (some b) s else onCore s c fun k => { k with stall := .other }

/-- The header's wait (R42, R44). -/
def headerHolds (k : Core) (h : W64) : Bool :=
  let v := (getFlag k (field h 58 6)).bits
  let x : W32 := BitVec.ofNat 32 (field h 40 16)
  match field h 56 2 with
  | 0 => true
  | 1 => decide (x.toNat ≤ v.toNat)
  | 2 => v = x
  | _ => v &&& x ≠ 0

/-- The header's wait is read as one event: it ends, with its signal received and its edge if it has stalled (R259, R310,
R317), or it holds. -/
def readHeader (s : State) (c : Nat) (h : W64) : State :=
  let k := getCore s c
  if k.hdrOk = some k.pc then s
  else if field h 56 2 = 0 then onCore s c fun k => { k with hdrOk := some k.pc }
  else if headerHolds k h then
    let n := field h 58 6
    let s := releaseEdge s c 0 0 n (flagSig k n) (if k.stall = .header then k.waited else 0)
    onCore s c fun k => { k with hdrOk := some k.pc, stall := .none, waited := 0 }
  else if k.stall = .header then s
  else onCore s c fun k => { k with stall := .header, waited := 0 }

/-- Warnings of the bundle's own encoding: header bits that are reserved, and words of absent slots (R43, R63). -/
def bundleWarns (w : BitVec 256) : List Nat :=
  let h := headerOf w
  (if field h 32 3 ≠ 0 then [wReserved] else [])
    ++ (if field h 56 2 = 0 ∧ (field h 58 6 ≠ 0 ∨ field h 40 16 ≠ 0) then [wReserved] else [])
    ++ ([1, 2, 3].filter fun n => !present w n && decide (slotWord w n ≠ 0)).map fun _ => wReserved

/-- Registers that two slots of the bundle write, with the slot whose value stands (R58). DESIGN CHOICE, assumption 75: each
register makes one event, however many slots write it. -/
def doubleWrites (wr : List (Nat × Nat × Nat)) : List (Nat × Nat) :=
  ((wr.filter fun e => wr.any fun d => decide (d.1 = e.1) && decide (d.2.1 = e.2.1) && decide (d.2.2 ≠ e.2.2)).map
    fun e => (e.1, e.2.1)).eraseDups

/-- A higher slot of the bundle than `n` writes a register: a scalar by its number, a descriptor from 64 on. -/
def higherWrites (wr : List (Nat × Nat × Nat)) (n r : Nat) : Bool :=
  wr.any fun e => decide (e.1 = if r < 64 then 0 else 2) && decide (e.2.1 = r % 64) && decide (n < e.2.2)

/-- Values of lower slots that land later are discarded where a higher slot writes their register (R58): of the buffer's
entries from place `n0` on, and of the bundle's pops that wait. -/
def markDead (wr : List (Nat × Nat × Nat)) (n0 : Nat) (k : Core) : Core :=
  let mark := fun b : BufItem => { b with dead := (evDests b.ev).filter (higherWrites wr b.slot) }
  { k with buf := k.buf.take n0 ++ (k.buf.drop n0).map mark,
           pops := k.pops.map fun p => if p.slot = 0 then p else { p with slot := 0, dead := higherWrites wr p.slot p.dst } }

/-- The entries that were put aside at a level return when an ERET comes back to it (R354). -/
def unpark (k : Core) : Core :=
  let back := fun b : BufItem => b.sup = isSup k && decide (b.depth = k.depth)
  { k with buf := k.buf ++ k.parked.filter back, parked := k.parked.filter fun b => !back b }

/-- The return of an ERET (R374): the status, the fetch address, the engines unfrozen with every port whose trap is no
longer pending (R335), and the waits that were put aside. A core that holds no context goes on with that of run start. -/
def returnFrom (k : Core) : Core :=
  let k := returnTrap k
  let k := { k with held := k.held || !isSup k }
  let k := if enginesFrozen k then k
    else { k with engines := k.engines.map fun e =>
                    (e.1, { e.2 with active := e.2.active.map (unhalt k.ptraps) }),
                  chans := k.chans.map fun e => (e.1, e.2.map (unhalt k.ptraps)) }
  unpark k

/-- An ERET reads cr.status and cr.epc as they stood before its bundle (R22, R57). -/
def returnAs (old : Cr) (k : Core) : Core :=
  let epc := k.regs.cr.epc
  let k := returnFrom { k with regs := { k.regs with cr := { k.regs.cr with status := old.status, epc := old.epc } } }
  { k with regs := { k.regs with cr := { k.regs.cr with epc := epc } } }

/-- The bundle ends: its writes stand, the next bundle is selected, and TRAP's trap and STEP become pending (R57, R58,
R352, R361). After an ERET the pops that its trap found pending complete (R296). -/
def finishBundle (s : State) (c n0 : Nat) : State :=
  let x := s.ctx
  let s := (doubleWrites x.wr).foldl (fun s _ => warnC s c wSlotwrite) s
  let fresh := x.eret && !(getCore s c).held && decide (stPPL x.old.cr.status ≠ 1)
  onCore (if fresh then freshEngines s c else s) c fun k =>
    let k := markDead x.wr n0 k
    let cr := x.cwr.foldl (fun (cr : Cr) (e : Nat × W64) => crWrite s cr e.1 e.2) k.regs.cr
    let k := { k with regs := { k.regs with cr := cr }, pc := x.target.getD (va55 x.pc 32), hdrOk := none }
    let k := bump k 1 1
    let k := if x.eret then serveAll s.now (returnAs x.old.cr k) else k
    let k := match x.after with
      | some t => { k with ptraps := k.ptraps.take k.trapHold ++ t :: k.ptraps.drop k.trapHold, wake := true }
      | none => k
    if stSS x.old.cr.status && x.after.isNone then { k with stepDue := some x.pc, wake := true } else k

/-- The slots of a bundle that has passed every check act, each on the registers as they stood before it (R57). -/
def issueSlots (s : State) (c : Nat) (w : BitVec 256) (l : List (Nat × W64 × Instr)) : State :=
  let s := warnAll s (bundleWarns w)
  let s := l.foldl (fun (s : State) (e : Nat × W64 × Instr) =>
    let t := atSlot s e.1 e.2.1
    warnAll t (slotWarns t e.2.2 (predOk t (frameOf e.2.1)) e.1 e.2.1)) s
  let n0 := (getCore s c).buf.length
  let s := l.foldl (fun (s : State) (e : Nat × W64 × Instr) => slotExec e.2.2 (atSlot s e.1 e.2.1)) s
  finishBundle s c n0

/-- The bundle is held as before; one that is held on pops still waits on some. -/
def sameStall (a b : Stall) : Bool :=
  match a, b with
  | .rq _, .rq _ => true
  | _, _ => a = b

/-- A fetched bundle reaches issue: its decode checks, its header wait, its interlocks, its own checks, and its
slots. -/
def issueBundle (s : State) (c : Nat) (w : BitVec 256) : State :=
  let h := headerOf w
  let s := beginBundle s c h
  match decodeSlots s (presentSlots w) with
  | .error (n, wd, b) => stopBundle s c n wd b
  | .ok l =>
    let s := if (getCore s c).buf.isEmpty || decide (field h 56 2 = 0) then readHeader s c h else s
    let k := getCore s c
    if k.hdrOk ≠ some k.pc then s
    else
      match stallOf s k l with
      | .none =>
        match pushChecks s k l with
        | some (n, wd, b) => stopBundle s c n wd b
        | none => issueSlots (endStall s c) c w l
      | st =>
        let s := if sameStall k.stall st then onCore s c fun k => { k with stall := st }
          else onCore (endStall s c) c fun k => { k with stall := st, waited := 0 }
        match st with
        | .other => s
        | _ => onCore s c stuckNow

/-- BUNDLE_ISSUE (R27, R41 to R63): the next bundle of core `c` is fetched and issues, or is held, or traps. -/
def execBundleIssue (c : Nat) (s : State) : Out :=
  .next (if mayFetch s (getCore s c) then
      match fetchBundle s c with
      | (s, .ok w) => issueBundle s c w
      | (s, .error b) => stopBundle (beginBundle s c 0) c 0 0 b
    else s)

/-- HEADER_WAIT (R44, R202, R259): the next bundle's header wait reads its flag, after the checks at decode. -/
def execHeaderWait (c : Nat) (s : State) : Out :=
  .next (if mayFetch s (getCore s c) && (getCore s c).buf.isEmpty then
      match fetchBundle s c with
      | (s, .ok w) =>
        let t := beginBundle s c (headerOf w)
        match decodeSlots t (presentSlots w) with
        | .ok _ => readHeader t c (headerOf w)
        | .error _ => t
      | (_, .error _) => s
    else s)

/-- The trap that the next bundle takes as it issues. -/
def issueTrap (s : State) (c : Nat) : Option PTrap :=
  if !mayFetch s (getCore s c) then none
  else
    let trapOf := fun (n : Nat) (b : Block) => match b with
      | .trap t => some { t with eslot := BitVec.ofNat 2 n }
      | .s2 _ => none
    match fetchBundle s c with
    | (_, .error b) => trapOf 0 b
    | (s, .ok w) =>
      let s := beginBundle s c (headerOf w)
      match decodeSlots s (presentSlots w) with
      | .error (n, _, b) => trapOf n b
      | .ok l =>
        let s := readHeader s c (headerOf w)
        let k := getCore s c
        if k.hdrOk ≠ some k.pc || stallOf s k l ≠ .none then none
        else
          match pushChecks s k l with
          | some (n, _, b) => trapOf n b
          | none => none

/-- TRAP_ENTRY (R355): the trap that is due, pending or of the next bundle, is taken; an operand that names another does
nothing. -/
def execTrapEntry (c : Nat) (t : TrapArg) (s : State) : Out :=
  let same := fun x : PTrap => x.cause = t.cause && x.eslot = t.eslot && x.einfo = t.einfo
  .next (match dueTrap (getCore s c) with
    | some x => if same x then takeDue s c else s
    | none =>
      match issueTrap s c with
      | some x => if same x then
          match execBundleIssue c s with
          | .next s => s
          | _ => s
        else s
      | none => s)

end Sys2Proof.Machine
end

