-- ==== Sys2Proof/Machine/Packets.lean ====
section
/-! DEFINITION. Host submission queues and their packets: LAUNCH, FENCE, SIGNAL, COPY and MARK (R240 to R245). -/

namespace Sys2Proof.Machine

open Sys2Proof

/-- Submission queue `n`. -/
def getSQ (s : State) (n : Nat) : SubQ := SMap.get (fun _ => {}) s.sqs n

/-- A submission queue replaced. -/
def setSQ (s : State) (n : Nat) (x : SubQ) : State := { s with sqs := SMap.set (fun _ => {}) s.sqs n x }

/-- The package serves its queues: it has power and is ready (R402, R404). -/
def serving (s : State) : Bool := s.power && !s.tripped && s.boot.mode = .ready

/-- A queue's function is enabled (R339). -/
def sqEnabled (s : State) (x : SubQ) : Bool :=
  match x.vf with
  | some v => (getFctx s v).enabled
  | none => false

/-- The queue stops in ERROR (R240, R242). -/
def sqError (s : State) (n err : Nat) : State := setSQ s n { getSQ s n with st := .error, err := err, conds := none }

/-- An access that faults: err 4, with an entry of the PF's fault ring (R241). -/
def sqFault (s : State) (n : Nat) (f : S2Fault) : State :=
  sqError (hardwareFault s ((getSQ s n).vf.getD 0) 0xFF f.cause f.level f.ipa 0) n 4

/-- A translation of hardware's own access, or the fault that it meets with the address of that access. -/
def linkPlace (s : State) (v ipa : Nat) (wr : Bool) : Except S2Fault Trans :=
  match xlatIpa s v ipa (!wr) wr false [] with
  | .ok t => .ok t
  | .fault c l => .error { cause := c, level := l, ipa := ipa }
  | .stage2 c _ l _ => .error { cause := c, level := l, ipa := ipa }

/-- An address that no access of this kind may reach. -/
def linkRefused (t : Trans) (ipa : Nat) : S2Fault := { cause := cAccess, level := t.level, ipa := ipa }

/-- An address of a package that is down: FAR_DOWN (R344). -/
def linkDown (t : Trans) (ipa : Nat) : S2Fault := { cause := 0x11, level := t.level, ipa := ipa }

/-- What a packet, a table or a counter holds is poisoned: the queue cannot use it (R381; assumption 71). -/
def linkPoison (ipa : Nat) : S2Fault := { cause := cAccess, ipa := ipa }

/-! ### Accesses of the device for a host link (R241) -/

/-- A read of at most a granule at an intermediate address, with its poison. -/
def linkRead (s : State) (v ipa n : Nat) : Except S2Fault (State × List Byte × Bool) :=
  (linkPlace s v ipa false).bind fun t =>
    if isFlagPage t.pa then
      if isFlagWord t.pa n then
        let f := flagAt t.pa
        let x := getFlag (getCore s f.1) f.2
        .ok (touchLeaves s t false, toBytes 4 x.bits, x.poison)
      else .error (linkRefused t ipa)
    else if isOutside s t then
      if targetDown s t.pa then .error (linkDown t ipa)
      else .ok (outsideRead (outRequest (touchLeaves s t false) v { pa := t.pa, size := n }) n)
    else .ok (readPhys (touchLeaves s t false) t.pa n {})

/-- A write of at most a granule at an intermediate address. -/
def linkWrite (s : State) (v ipa : Nat) (l : List Byte) (poison : Bool) : Except S2Fault State :=
  (linkPlace s v ipa true).bind fun t =>
    if isFlagPage t.pa then
      if isFlagWord t.pa l.length then
        let f := flagAt t.pa
        .ok (onCore (touchLeaves s t true) f.1 fun k => setFlag k f.2 { bits := ofBytes 32 l, poison := poison } (hostSig s 0))
      else .error (linkRefused t ipa)
    else if isOutside s t then
      if targetDown s t.pa then .error (linkDown t ipa)
      else .ok (outRequest (touchLeaves s t true) v
        { pa := t.pa, size := l.length, write := true, data := ofBytes 512 l, poison := poison, sig := hostSig s 0 })
    else .ok (writePhys (touchLeaves s t true) t.pa l poison {})

/-- A read of several granules in ascending order, whose bytes must be sound (R381; assumption 71). -/
def linkReadAll : Nat → State → Nat → Nat → Except S2Fault (State × List Byte)
  | 0, s, _, _ => .ok (s, [])
  | n + 1, s, v, ipa =>
    match linkRead s v ipa 16 with
    | .error c => .error c
    | .ok (s, b, bad) =>
      if bad then .error (linkPoison ipa)
      else
        match linkReadAll n s v (ipa + 16) with
        | .error c => .error c
        | .ok (s, r) => .ok (s, b ++ r)

/-- An access to a range of intermediate addresses meets a lost page that is to be repaired from its far mirror first (R389). -/
def linkWaits (s : State) (v ipa n : Nat) (wr : Bool) : Bool :=
  (splitAccess n ipa n).any fun p => match xlatIpa s v p.1 (!wr) wr false [] with
    | .ok t => needsRepair s t.pa
    | _ => false

/-! ### Packets (R242) -/

/-- type. -/
def pkType (p : W512) : Nat := field p 0 8
/-- SIG. -/
def pkSig (p : W512) : Bool := bit p 8

/-- Reserved bits of a header or of a body of its type are not zero. -/
def pkReserved (p : W512) : Bool :=
  field p 9 55 ≠ 0 || match pkType p with
    | 1 => field p 356 4 ≠ 0 || field p 368 16 ≠ 0
    | 2 => field p 72 56 ≠ 0 || field p 192 320 ≠ 0
    | 3 => field p 208 304 ≠ 0 || (field p 200 8 = 0 && field p 160 32 ≠ 0)
    | 4 => field p 256 256 ≠ 0
    | _ => field p 192 320 ≠ 0

/-- A field of a packet lies beyond its limits (R243 to R245): err 3. -/
def pkBad (s : State) (v : Nat) (p : W512) : Bool :=
  match pkType p with
  | 1 =>
    let n := field p 224 32
    field p 64 5 ≠ 0 || n = 0 || decide (2 ^ 20 < n) || !ownsQueue s v (field p 320 16)
      || !(getTag s (field p 336 16)).live || (getTag s (field p 336 16)).vf ≠ v
  | 2 => field p 64 8 = 0 || decide (12 < field p 64 8) || field p 128 4 ≠ 0
  | 3 => decide (1 < field p 192 8) || decide (1 < field p 200 8) || field p 64 64 % (if field p 200 8 = 0 then 4 else 8) ≠ 0
  | 4 => decide (2 ^ 40 < field p 192 64)
  | _ => field p 128 4 ≠ 0

/-- The packet at consumed is parsed: its type, its reserved bits and its fields are checked in that order (R242). The
result is the state and the packet, if it stands. -/
def parsePacket (s : State) (n : Nat) : State × Option W512 :=
  let x := getSQ s n
  match x.vf with
  | none => (s, none)
  | some v =>
    if x.st ≠ .run || !serving s || !sqEnabled s x || x.consumed = x.tail then (s, none)
    else
      match x.pkt with
      | some p => (s, some p)
      | none =>
        let ipa := x.ring + 64 * (x.consumed % 2 ^ x.lgsize)
        if linkWaits s v ipa 64 false then (s, none)
        else
          match linkReadAll 4 s v ipa with
          | .error f => (sqFault s n f, none)
          | .ok (s, b) =>
            let p := ofBytes 512 b
            if pkType p = 0 ∨ 6 ≤ pkType p then (sqError s n 1, none)
            else if pkReserved p then (sqError s n 2, none)
            else if pkBad s v p then (sqError s n 3, none)
            else (setSQ s n { getSQ s n with pkt := some p }, some p)

/-- A packet completes: consumed advances past it, and SIG raises the queue's vector (R240, R242). -/
def completePacket (s : State) (n : Nat) (p : W512) : State :=
  let x := getSQ s n
  let s := setSQ s n { x with st := .run, consumed := (x.consumed + 1) % 2 ^ 64, pkt := none, nextI := 0, copied := 0, good := 0, conds := none }
  if pkSig p then raiseMsix s (x.vf.getD 0) (x.vector % 64) else s

/-- The packet of a type at consumed, parsed, is performed. -/
def onPacket (s : State) (n ty : Nat) (act : State → Nat → W512 → State) : State :=
  match parsePacket s n with
  | (s, some p) => if pkType p = ty then act s ((getSQ s n).vf.getD 0) p else s
  | (s, none) => s

/-- DOORBELL (R240): the ring's new tail. -/
def execDoorbell (sq tail : Nat) (s : State) : Out :=
  .next (if sq < 1024 ∧ (getSQ s sq).vf.isSome then setSQ s sq { getSQ s sq with tail := tail % 2 ^ 64 } else s)

/-! ### LAUNCH (R243) -/

/-- Root record `i` of a LAUNCH. -/
def rootRecord (p : W512) (i : Nat) : W512 :=
  let w := fun (lo n v : Nat) => (BitVec.ofNat 512 (v % 2 ^ n)) <<< lo
  w 0 64 (field p 64 64) ||| w 64 64 (field p 128 64 + i * field p 192 32) ||| w 128 64 (field p 256 64)
    ||| w 192 16 (field p 336 16) ||| w 208 8 (field p 352 4) ||| w 216 8 (field p 360 8)
    ||| w 320 64 (field p 384 64) ||| w 384 64 (field p 448 64) ||| w 448 64 i

/-- LAUNCH (R243): the next root record enters its queue, if there is room; the packet completes with the last. -/
def execLaunch (sq : Nat) (s : State) : Out :=
  .next (onPacket s sq 1 fun s _ p =>
    let x := getSQ s sq
    let q := field p 320 16
    if tqFull (getTQ s q) then s
    else
      match pushTail s q (rootRecord p x.nextI) (hostSig s 0) with
      | none =>
        match tqReach s (getTQ s q) (getTQ s q).tail true with
        | .error f => sqFault s sq f
        | .ok _ => s
      | some t =>
        let t := setSQ t sq { getSQ t sq with nextI := x.nextI + 1 }
        if x.nextI + 1 = field p 224 32 then completePacket t sq p else t)

/-! ### FENCE (R244) -/

/-- The fields of a condition: counter, its width in bytes, comparison and value. -/
def condOf (c : BitVec 128) : Nat × Nat × Nat × Nat :=
  let wide := bit c 56
  (field c 0 55, if wide then 8 else 4, field c 57 3, if wide then field c 64 64 else field c 64 32)

/-- A condition is well formed. -/
def condBad (c : BitVec 128) : Bool :=
  let x := condOf c
  decide (4 ≤ x.2.2.1) || x.1 % x.2.1 ≠ 0

/-- A condition's counter read as one event and compared: an error code, or whether it holds. -/
def condRead (s : State) (v : Nat) (c : BitVec 128) : Except (Nat × S2Fault) (State × Bool) :=
  let (ipa, n, cmp, val) := condOf c
  match linkPlace s v ipa false with
  | .error f => .error (4, f)
  | .ok t =>
    if t.mtype = 2 || !isPackageMem s t.pa then .error (3, linkRefused t ipa)
    else
      let r := readPhys (touchLeaves s t false) t.pa n {}
      let x := natOfBytes r.2.1
      if r.2.2 then .error (4, linkPoison ipa)
      else .ok (r.1, match cmp with
        | 0 => decide (val ≤ x)
        | 1 => x = val
        | 2 => x ≠ val
        | _ => Nat.land x val ≠ 0)

/-- Every condition in order: an error, or whether all hold. -/
def condsHold : List (BitVec 128) → State → Nat → Except (Nat × S2Fault) (State × Bool)
  | [], s, _ => .ok (s, true)
  | c :: l, s, v =>
    match condRead s v c with
    | .error e => .error e
    | .ok (s, b) =>
      match condsHold l s v with
      | .error e => .error e
      | .ok (s, r) => .ok (s, b && r)

/-- An evaluation of a FENCE's conditions: it completes, or the queue waits; a counter in a lost page is repaired first
(R389). -/
def evalFence (s : State) (sq v : Nat) (p : W512) (l : List (BitVec 128)) : State :=
  if l.any fun c => linkWaits s v (condOf c).1 (condOf c).2.1 false then s
  else match condsHold l s v with
  | .error (e, f) => if e = 4 then sqFault s sq f else sqError s sq e
  | .ok (s, true) => completePacket s sq p
  | .ok (s, false) => setSQ s sq { getSQ s sq with st := .wait, conds := some l }

/-- The conditions of a table read as bytes. -/
def condTable : Nat → List Byte → List (BitVec 128)
  | 0, _ => []
  | n + 1, b => ofBytes 128 (b.take 16) :: condTable n (b.drop 16)

/-- FENCE (R244): the table is read once, a fault naming the granule that met it (R241), and the conditions are evaluated. -/
def execFence (sq : Nat) (s : State) : Out :=
  .next (onPacket s sq 2 fun s v p =>
    if linkWaits s v (field p 128 64) (16 * field p 64 8) false then s
    else
      match linkReadAll (field p 64 8) s v (field p 128 64) with
      | .error f => sqFault s sq f
      | .ok (s, b) =>
        let l := condTable (field p 64 8) b
        if l.any condBad then sqError s sq 3 else evalFence s sq v p l)

/-- FENCE_EVALUATE (R244): a waiting FENCE is evaluated again. -/
def execFenceEvaluate (sq : Nat) (s : State) : Out :=
  let x := getSQ s sq
  .next (match x.st, x.vf, x.pkt, x.conds with
    | .wait, some v, some p, some l => if serving s && sqEnabled s x then evalFence s sq v p l else s
    | _, _, _, _ => s)

/-! ### SIGNAL, COPY and MARK (R245) -/

/-- SIGNAL: a write or an addition as one event. -/
def execSignal (sq : Nat) (s : State) : Out :=
  .next (onPacket s sq 3 fun s v p =>
    let ipa := field p 64 64
    let n := if field p 200 8 = 0 then 4 else 8
    let base := if field p 192 8 = 1 then linkRead s v ipa n else .ok (s, [], false)
    if linkWaits s v ipa n true then s
    else match base with
    | .error f => sqFault s sq f
    | .ok (t, b, bad) =>
      let x := (natOfBytes b + field p 128 64) % 2 ^ (8 * n)
      match linkWrite t v ipa (toBytes n (BitVec.ofNat 64 x)) bad with
      | .error f => sqFault s sq f
      | .ok t => completePacket t sq p)

/-- `n` bytes of a COPY have been written at an intermediate address: the count, and the marks of the granule that they
complete with data that are not poisoned (R385; assumption 56). -/
def copyWritten (s : State) (sq v dst n : Nat) (bad : Bool) : State :=
  let x := getSQ s sq
  let good := if bad then 0 else x.good + n
  let s := setSQ s sq { x with copied := x.copied + n, good := good }
  if (dst + n) % 64 = 0 ∧ 64 ≤ good then
    match xlatIpa s v dst false true false [] with
    | .ok t => if isFlagPage t.pa || isOutside s t then s else cleanPz s (t.pa / 64)
    | _ => s
  else s

/-- COPY: the next bytes, up to the end of a granule of either side, are copied in ascending order; their count is kept
for a warm reset (R400). -/
def execCopy (sq : Nat) (s : State) : Out :=
  .next (onPacket s sq 4 fun s v p =>
    let len := field p 192 64
    let at_ := (getSQ s sq).copied
    if len ≤ at_ then completePacket s sq p
    else
      let dst := (field p 64 64 + at_) % 2 ^ 64
      let src := (field p 128 64 + at_) % 2 ^ 64
      let n := min (len - at_) (min (16 - dst % 16) (16 - src % 16))
      if linkWaits s v src n false || linkWaits s v dst n true then s
      else match linkRead s v src n with
      | .error f => sqFault s sq f
      | .ok (t, b, bad) =>
        match linkWrite t v dst b bad with
        | .error f => sqFault s sq f
        | .ok t =>
          let t := copyWritten t sq v dst n bad
          if len ≤ at_ + n then completePacket t sq p else t)

/-- A local event of host link 0, through which packets stamp (R317; assumption 23). -/
def linkLocal (s : State) : W64 × State :=
  let l := SMap.get (fun _ => ({} : HostLink)) s.hostLinks 0
  let h := maxW (l.hlc + 1) (phys s)
  (h, { s with hostLinks := SMap.set (fun _ => ({} : HostLink)) s.hostLinks 0 { l with hlc := h } })

/-- MARK: the value and the link's stamp as one 16-byte event. -/
def execMark (sq : Nat) (s : State) : Out :=
  .next (onPacket s sq 5 fun s v p =>
    let (h, t) := linkLocal s
    let ipa := field p 128 64
    if linkWaits s v ipa 16 true then s
    else match linkWrite t v ipa (toBytes 8 (bits p 64 64) ++ toBytes 8 h) false with
    | .error f => sqFault s sq f
    | .ok t => completePacket t sq p)

/-- SQ_STATE_WRITE (R240): software writes the descriptor's own fields, and RUN over a queue that has stopped. A size out
of range leaves the field unchanged. -/
def execSqStateWrite (sq : Nat) (e : SqArg) (s : State) : Out :=
  let x := getSQ s sq
  .next (if x.vf.isNone then s
    else
      let x := { x with ring := e.ring / 64 * 64, vector := e.vector,
                        lgsize := if 4 ≤ e.lgsize ∧ e.lgsize ≤ 16 then e.lgsize else x.lgsize }
      let starts := e.run && (x.st = .stopped || x.st = .error)
      setSQ s sq (if starts then { x with st := .run, err := 0, pkt := none, nextI := 0, copied := 0, good := 0, conds := none } else x))

end Sys2Proof.Machine
end

