-- ==== Sys2Proof/Machine/Runs.lean ====
section
/-! DEFINITION. The life of a run on its core: pops by aging, priority and round robin (R249), the state at run start
(R15, R22, R340), pre-emption and time slices (R251), saves made by the hardware (R369 to R372), and restores (R371). -/

namespace Sys2Proof.Machine

open Sys2Proof

/-! ### Requeues (R251, R369) -/

/-- The record is put back (R251, R369, R371): at the head or the tail of its queue, or held for its core. -/
def requeue (s : State) (front : Bool) (core : Option Nat) (q : Nat) (r : W512) (g : Sig) : Option State :=
  match core with
  | some c =>
    let x := getTQ s q
    some (setTQ s q { x with heldFor := x.heldFor ++ [{ core := c, record := r }] })
  | none => if front then pushHead s q r g else pushTail s q r g

/-- A held run is put back into its queue, or waits outside until there is room (R369). -/
def requeueHeld (s : State) (h : HeldRun) : State :=
  match requeue s h.front h.core h.queue h.record {} with
  | some s => s
  | none => { s with held := s.held ++ [{ h with why := .requeue }] }

/-- A run that waits outside its queue for room is put back once there is room (R369). -/
def settleOne (s : State) : State :=
  match s.held.find? fun h => h.why = .requeue && (h.core.isSome || !tqFull (getTQ s h.queue)) with
  | some h => requeueHeld { s with held := s.held.erase h } h
  | none => s

/-- Every such run, in order. -/
def settleHeld (s : State) : State := s.held.foldl (fun s _ => settleOne s) s

/-! ### Which queue is popped (R249) -/

/-- The queue holds a record that core `c` may pop, and its function is enabled. -/
def poppable (s : State) (c : Nat) (x : TaskQ) : Bool :=
  admits c (getCore s c) x && hasRecord c x && (getFctx s (x.vf.getD 0)).enabled

/-- The better of two queues for core `c`: an over-aged one first, by count; then the lower prio; then the one that
comes next in the round; then the lower number. -/
def betterQueue (s : State) (c : Nat) (a b : Nat × TaskQ) : Bool :=
  let lim := s.limits.agelimit.toNat
  let old := fun x : TaskQ => decide (lim < x.passed)
  if old a.2 then !old b.2 || decide (b.2.passed < a.2.passed) || (a.2.passed = b.2.passed && decide (a.1 < b.1))
  else if old b.2 then false
  else if a.2.prio ≠ b.2.prio then decide (a.2.prio < b.2.prio)
  else
    let last := SMap.get (fun _ => 0) (getCore s c).rr a.2.prio
    let turn := fun q : Nat => if last ≤ q then q - last else q + 256 - last
    decide (turn a.1 < turn b.1)

/-- The queue that an idle core pops from. -/
def chooseQueue (s : State) (c : Nat) : Option Nat :=
  let l := s.tqs.filter fun e => poppable s c e.2
  (l.foldl (fun (best : Option (Nat × TaskQ)) e =>
    match best with
    | none => some e
    | some b => if betterQueue s c e b then some e else some b) none).map fun e => e.1

/-- What a pop does to the passed counts and to the round: every other admitted queue that holds a record is passed over
(R249). -/
def countPop (s : State) (c q : Nat) : State :=
  let others := (s.tqs.filter fun e => decide (e.1 ≠ q) && poppable s c e.2).map fun e => e.1
  let s := others.foldl (fun (s : State) n =>
    setTQ s n { getTQ s n with passed := min ((getTQ s n).passed + 1) (2 ^ 32 - 1) }) s
  let x := getTQ s q
  let s := setTQ s q { x with passed := 0 }
  onCore s c fun k => { k with rr := SMap.set (fun _ => 0) k.rr x.prio (q + 1) }

/-! ### Run start (R15, R22, R340) -/

/-- What a core clears before a run of another function (R20, R22, R340). -/
def clearForeign (v : Nat) (k : Core) : Core :=
  if k.prevVf = some v then k
  else
    { k with f := [], fsig := [], stash := [], stashPoison := [], stashMedia := [],
             eng := { k.eng with prod := [] }, counters := [], edgeSeq := 1,
             regs := { k.regs with cr := { k.regs.cr with shortmass := 0x3F733333, spawnwait := 65536 } } }

/-- The edge ring of a core: the function's, its base advanced by the core's number (R22, R26). -/
def ownRing (e : W64) (c : Nat) : W64 :=
  let size := field e 60 4
  BitVec.ofNat 64 (size * 2 ^ 60 + (field e 16 39 * 2 ^ 16 + c * 2 ^ (16 + size)) % 2 ^ 55)

/-- The control registers at a run's start (R22). -/
def startCr (x : FuncCtx) (c : Nat) (farClear : Bool) (cr : Cr) : Cr :=
  { cr with status := mkStatus 0 (stPPL cr.status) false (stPSS cr.status), warn := 0, warncount := 0,
            asid := x.defasid.setWidth 64, tvec := BitVec.ofNat 64 (field x.tvec 5 50 * 32),
            edgebase := ownRing x.edgering c, farlost := if farClear then 0 else cr.farlost }

/-- A core begins a run at its record's first bundle (R15, R40). Of the engines' registers the product table alone stays
(R135); the activation table is the identity and the mask tile all ones (R137, R181). -/
def startCore (x : FuncCtx) (c : Nat) (r : W512) (k : Core) : Core :=
  let code := recCode r / 32 * 32 % 2 ^ 55
  let s := SMap.set (fun _ => 0) [] 1 (BitVec.ofNat 64 (x.jrec + 64 * c))
  let cr := startCr x c k.farClear k.regs.cr
  { k with regs := { s := SMap.set (fun _ => 0) s 62 (recFrame r), p := [], d := [],
                     cr := { cr with epc := BitVec.ofNat 64 code } },
           eng := { prod := k.eng.prod }, flight := [],
           pc := code, phase := .running, held := true, wake := true, farClear := false,
           counters := k.counters.filter fun e => decide (20 ≤ e.1), paths := [], qsig := [], chsig := [],
           sliceTime := 0, hdrOk := none, stall := .none }

/-- The record's copy in the core's entry of the function's record page (R246). -/
def writeRecordPage (s : State) (v c : Nat) (r : W512) : State :=
  match linkPlace s v ((getFctx s v).jpage + 64 * c) true with
  | .ok t => writePhys (touchLeaves s t true) t.pa (toBytes 64 r) false {}
  | .error f => hardwareFault s v c f.cause f.level f.ipa 0

/-- The values that a popped record carries (R312). -/
def recordSig (x : TaskQ) (n : Nat) : Sig := (SMap.get (fun _ => none) x.sigs n).getD {}

/-- The run of a popped record begins on a core: the journal, the record page and the state of R15. One with a saved
context waits for its restore (R246, R371, R395). A new run's agents start at path 0, and it adopts what the record
carries, with an edge if the core waited for it (R310, R311, R313). The pop receives the record's signal (R317). -/
def beginRun (s : State) (c q n v : Nat) (r : W512) (g : Sig) : State :=
  let x := getFctx s v
  let waited := (getCore s c).waited
  let s := writeRecordPage s v c r
  let s := onCore s c fun k =>
    let k := clearForeign v k
    { k with run := { record := r, queue := q, index := n, vf := v }, stage := recStage r, waited := 0,
             journal := { record := r, phase := .running, queue := q, index := n } }
  let s := if recCtx r ≠ 0 then onCore (hlcRecv s c g.stamp) c fun k =>
      { k with phase := .starting, farClear := false,
               regs := { k.regs with cr := { k.regs.cr with farlost := if k.farClear then 0 else k.regs.cr.farlost } } }
    else
      let s := onCore s c (startCore x c r)
      let s := releaseEdge s c 0 4 (q % 256) g waited
      if waited = 0 then onCore s c fun k => adopt k 0 g else s
  onCore s c fun k => { k with journal := { k.journal with stamp := k.hlc } }

/-- The record that core `c` pops from a queue: one held for it, else the head; with the queue after the pop, the record's
index and its values. -/
def takeRecord (s : State) (c q : Nat) : Option (TaskQ × W512 × Nat × Sig) :=
  let x := getTQ s q
  match x.heldFor.find? fun h => decide (h.core = c) with
  | some h => some ({ x with heldFor := x.heldFor.erase h }, h.record, x.head, {})
  | none =>
    if x.head < x.tail then
      (readTask s x x.head).map fun r =>
        ({ x with head := x.head + 1, sigs := SMap.set (fun _ => none) x.sigs x.head none }, r, x.head, recordSig x x.head)
    else none

/-- A core may pop: idle, not failed, and the package serves. -/
def mayPop (s : State) (c : Nat) : Bool :=
  let k := getCore s c
  serving s && decide (c < 160) && k.phase = .idle && !k.fenced && !k.frozen

/-- A popped record whose tag is not LIVE is discarded, and completes as cancelled (R257). It is a pop all the same: the
core's stage is the record's, and its signal is received (R25, R249, R317). -/
def discardPopped (s : State) (c v : Nat) (r : W512) (g : Sig) : State :=
  let s := onCore (hlcRecv s c g.stamp) c fun k => { k with stage := recStage r }
  completeFailed (dropContext s r) v c r

/-- A pop's read of the ring marks the leaf that it goes through (R329). -/
def touchPop (s : State) (c q : Nat) : State :=
  let x := getTQ s q
  if x.heldFor.any fun h => decide (h.core = c) then s else touchTask s x x.head

/-- POP (R249, R257, R396): the record is journalled and head advances in one event. A ring that cannot be reached is
reported to the PF. -/
def execPop (c : Nat) (s : State) : Out :=
  .next (if !mayPop s c then s
    else
      match chooseQueue s c with
      | none => s
      | some q =>
        let v := (getTQ s q).vf.getD 0
        match takeRecord s c q with
        | none =>
          match tqReach s (getTQ s q) (getTQ s q).head false with
          | .error f => hardwareFault s v c f.cause f.level f.ipa 0
          | .ok _ => s
        | some (x, r, n, g) =>
          let s := { countPop (touchPop s c q) c q with preemptWait := [] }
          let s := setTQ s q { x with passed := 0 }
          settleHeld (if recordDead s v r then discardPopped s c v r g else beginRun s c q n v r g))

/-! ### Pre-emption, time slices and YIELD (R251) -/

/-- The run may be saved but for room in its queue: it is running, and no save is under way. -/
def stoppable (s : State) (k : Core) : Bool :=
  (match k.phase with
    | .running => true
    | .finishing n _ _ => decide (n < 5)
    | _ => false)
  && k.save.isNone && k.s2fault.isNone && !k.fenced && !k.frozen && !runCancelled s k

/-- The run may be chosen to be saved: its queue has room too, or does not need it (R251, R371). -/
def savable (s : State) (k : Core) : Bool := stoppable s k && (pinned k || !tqFull (getTQ s k.run.queue))

/-- A save is decided: a wake event (R377). -/
def decideSave (why : SaveReason) (k : Core) : Core := { k with save := some why, wake := true }

/-- A pre-emption of the queue has failed: it is decided again at the next pop in the package (R251, R372). -/
def waitForPop (s : State) (q : Nat) : State := { s with preemptWait := SMap.set (fun _ => false) s.preemptWait q true }

/-- The prio of the queue that a core's run was popped from. -/
def prioOf (s : State) (c : Nat) : Nat := (getTQ s (getCore s c).run.queue).prio

/-- The cores whose runs a queue of a prio could pre-empt but for room in their own queues: those that admit it and run a record
of a greater prio (R251). -/
def outranked (s : State) (x : TaskQ) : List Nat :=
  (List.range 160).filter fun c => admits c (getCore s c) x && stoppable s (getCore s c) && decide (x.prio < prioOf s c)

/-- The core whose run a queue pre-empts: of those that may be chosen the one of the greatest prio, and the lowest core. -/
def victim (s : State) (x : TaskQ) : Option Nat :=
  let prioOf := prioOf s
  let l := (outranked s x).filter fun c => savable s (getCore s c)
  l.foldl (fun (b : Option Nat) c =>
    match b with
    | none => some c
    | some d => if prioOf d < prioOf c then some c else some d) none

/-- The run is being saved as a pre-emption saves it, so that its core is about to be idle. -/
def leavesSoon (k : Core) : Bool :=
  match k.save with
  | some .preempt => true
  | some .slice => true
  | some .yield => true
  | _ => false

/-- PREEMPTION (R251): a PREEMPT queue that holds a record, with no admitting core idle or about to be, pre-empts a run. Where
every run that it could pre-empt has a full queue, the pre-emption is decided again at the next pop. DESIGN CHOICE, assumption 51:
a core that is already being saved counts as idle. -/
def execPreemption (q : Nat) (s : State) : Out :=
  let x := getTQ s q
  let free := (List.range 160).any fun c =>
    let k := getCore s c
    admits c k x && (k.phase = .idle || leavesSoon k)
  let wait := SMap.get (fun _ => false) s.preemptWait q
  .next (if serving s && x.preempt && x.enabled && decide (x.head < x.tail) && (getFctx s (x.vf.getD 0)).enabled && !free && !wait then
      match victim s x with
      | some c => onCore s c fun k => { decideSave .preempt k with preemptBy := q }
      | none => if (outranked s x).isEmpty then s else waitForPop s q
    else s)

/-- Cycles of a function's time slice (R10, R338). -/
def sliceCycles (x : FuncCtx) : Nat := x.slice * 3300

/-- TIME_SLICE (R251, R369): the slice expires. It is not taken while the run's own queue is full, and is attempted again
at the next slice. -/
def execTimeSlice (c : Nat) (s : State) : Out :=
  let k := getCore s c
  let x := getFctx s (vmid k)
  .next (if k.phase ≠ .idle ∧ x.slice ≠ 0 ∧ sliceCycles x ≤ k.sliceTime then
      let s := onCore s c fun k => { k with sliceTime := 0 }
      if savable s k then onCore s c (decideSave .slice) else s
    else s)

/-! ### Saves (R369, R370, R372) -/

/-- Free pages of a function's pool, from a free start. -/
def poolPages (s : State) (v n : Nat) : List Nat :=
  let x := getFctx s v
  let l := (List.range x.poolpages).map fun i => x.poolbase + i * 65536
  let i := freeStart s x.poolpages
  (((l.drop i) ++ (l.take i)).filter (pageFree s)).take n

/-- The bytes of an area by physical address: the bytes of page `i` lie in the `i`-th page listed. -/
def areaCells (pages : List Nat) (m : Img) : List Host.Cell :=
  m.filterMap fun e => (pages[e.1 / 65536]?).map fun p => (p + e.1 % 65536, e.2)

/-- The area is written into pool pages: every byte between its fields is 0, no granule is poisoned, and the pages carry no
mirror link; on frames with mirrors it is written again there (R363, R369, R389). -/
def writeArea (s : State) (pages : List Nat) (m : Img) : State :=
  let inside := fun a : Nat => pages.contains (a / 65536 * 65536)
  let mem := s.mem.filter fun e => !inside e.1
  let s := { s with mem := (areaCells pages m).foldl (fun mem e => SMap.set memDefault mem e.1 e.2) mem,
                    poison := s.poison.filter fun e => !inside (e.1 * 64),
                    lost := s.lost.filter fun e => !inside (e.1 * 65536),
                    links := s.links.filter fun e => !inside (e.1 * 65536) }
  (pages.map fun p => p / 65536).foldl mirrorFrame s

/-- Why a save is made, in the codes of PREEMPT. -/
def reasonCode (w : SaveReason) : Nat :=
  match w with
  | .preempt => 1
  | .slice => 2
  | .yield => 3
  | _ => 0

/-- PREEMPT's trap: the reason and the pool's free pages (R352, R372). -/
def preemptTrap (w : SaveReason) (free : Nat) : PTrap :=
  { cause := 0x0F, einfo := BitVec.ofNat 64 (reasonCode w + min free 255 * 256) }

/-- What a save by the hardware says of a run (R369): the next bundle, or the FINISH bundle of a run that waits in it. -/
def saveArg (k : Core) (handle : Nat) (pages : List Nat) : SaveArg :=
  let fin := k.buf.any fun b => match b.ev with
    | .finish _ => true
    | _ => false
  { resume := if fin then (finishPc k.phase).getD k.pc else k.pc, status := k.regs.cr.status.toNat,
    finishing := fin, handle := handle, pages := pages }

/-- The core stands where a save may be made. A run that is held stops where it is, its accesses not repeated. -/
def atSave (k : Core) : Bool :=
  enginesStopped (abandonSaqs k) && accessesDone k && (k.s2fault.isSome || (atBoundary k 0 && (dueTrap k).isNone))

/-- The core leaves its run, whose context stands in memory: it is idle, and its journal slot is EMPTY (R396). -/
def leaveRun (s : State) (c : Nat) : State :=
  onCore (looseWindows s c) c fun k => { clearRun k with journal := { k.journal with phase := .empty } }

/-- The context of a run is written into pages of its pool, and what the area does not hold is kept beside it
(assumption 21). The result is the record that names it. -/
def saveContext (s : State) (c : Nat) (pages : List Nat) : State × W512 :=
  let h := s.nextHold
  let s := onCore s c fun k =>
    let k := landTo k.vpos k
    let n := if isSup k then 0 else (flightRecs k).length
    bump (bump (cleanWindows (if isSup k then k else abandonSaqs k)) 65 1) 68 n
  let k := getCore s c
  let m := areaImage s c (saveArg k h pages)
  let s := writeArea { s with nextHold := h + 1 } pages m
  let s := { s with
    savePages := SMap.setAll (fun _ => false) s.savePages (pages.map fun p => (p / 65536, true)),
    ctxPages := SMap.insert s.ctxPages (pages.headD 0 / 65536) (pages, h),
    rests := SMap.insert s.rests h
      { restOf c k (k.buf ++ k.parked) with place := pages.headD 0, stamp := BitVec.ofNat 64 (getN m 0x10 8) } }
  (s, setCtx k.run.record (pages.headD 0))

/-- A held run whose stage-2 fault has been answered goes back to its queue's head, or is held for its function while that is
disabled (R336, R339). -/
def putAnswered (s : State) (h : HeldRun) : State :=
  if (getFctx s h.vf).enabled then requeueHeld s h else { s with held := s.held ++ [{ h with why := .disabled }] }

/-- Where a saved run's record goes: into its queue, or out of every queue while it is held (R336, R339, R369). -/
def placeRecord (s : State) (k : Core) (c : Nat) (why : SaveReason) (r : W512) : State :=
  let core := if pinned k then some c else none
  let held : HeldRun := { record := r, queue := k.run.queue, vf := k.run.vf, core := core }
  match why, k.s2fault with
  | _, some f =>
    if f.answer.isSome then putAnswered s held
    else { s with held := s.held ++ [{ held with why := .stage2 f, handle := f.handle }] }
  | .disable, none => { s with held := s.held ++ [{ held with why := .disabled }] }
  | w, none =>
    match requeue s (w ≠ .yield) core k.run.queue r (sigOf s c 0) with
    | some s => s
    | none => { s with held := s.held ++ [{ held with front := w ≠ .yield }] }

/-- A disabled function's run that has not yet been restored is held with the context it has. -/
def holdStarting (s : State) (c : Nat) : State :=
  let k := getCore s c
  leaveRun { s with held := s.held ++ [{ record := k.run.record, queue := k.run.queue, vf := k.run.vf, why := .disabled }] } c

/-! ### Answers to a stage-2 fault (R336) -/

/-- The fault that the function receives for answer 1: ACCESS_FAULT at level 0 with the VA (R334, R336). -/
def answeredTrap (f : S2Fault) (b : Option BufItem) : PTrap :=
  { cause := cAccess, einfo := BitVec.ofNat 64 (f.port * 2 ^ 60 + f.va % 2 ^ 55),
    eslot := match b with
      | some b => if f.port = 0 ∧ b.holds then BitVec.ofNat 2 b.slot else 0
      | none => 0,
    port := if f.port = 0 ∨ f.port = 8 then none else some f.port }

/-- The instruction whose event met the fault leaves the buffer, but for a FINISH, which makes its decrement again. -/
def dropFaulted (f : S2Fault) (l : List BufItem) : List BufItem :=
  match l with
  | [] => []
  | b :: t =>
    match b.ev with
    | .finish _ => l
    | e => if f.port = 0 ∧ !(match e with
        | .waitf _ _ _ _ _ _ => true
        | .wfi => true
        | _ => false) then t else l

/-- The answer to a command that the fault has halted: it is retried, or it is halted by the fault that the function
receives. -/
def answerAct (t : Option PTrap) (a : Active) : Active :=
  if a.s2 then { a with s2 := false, halted := t } else a

/-- The commands of a saved context, answered. -/
def answerActs (t : Option PTrap) (l : SMap (List Active)) : SMap (List Active) :=
  l.map fun e => (e.1, e.2.map (answerAct t))

/-- Answers 0 and 1 to a saved run: its access is retried, or meets the fault. -/
def answerRest (f : S2Fault) (deliver : Bool) (r : CtxRest) : CtxRest :=
  let t := if deliver then some (answeredTrap f r.items.head?) else none
  let r := { r with engines := answerActs t r.engines, chans := answerActs t r.chans }
  match t with
  | none => r
  | some t => { r with ptraps := r.ptraps ++ [t], items := dropFaulted f r.items }

/-- The answer that came before the save is applied to what was saved under a handle. -/
def applyAnswer (s : State) (k : Core) (h : Nat) : State :=
  match k.s2fault with
  | some f =>
    match f.answer with
    | some a => { s with rests := SMap.insert s.rests h (answerRest f (a = 1) (getRest s h)) }
    | none => s
  | none => s

/-- HARDWARE_SAVE (R369, R372): the save that was decided is made once the core stands at a boundary and its engines have
stopped. With too few pages PREEMPT becomes pending, or a held run stays frozen. -/
def execHardwareSave (c : Nat) (s : State) : Out :=
  let k := getCore s c
  .next (match k.save with
    | none => s
    | some why =>
      if k.fenced || k.frozen || runCancelled s k || pastDecrement k then s
      else if k.phase = .starting then (if why = .disable then holdStarting s c else s)
      else if !atSave k then s
      else
        let pages := poolPages s (vmid k) 12
        let queued := why ≠ .stage2 && why ≠ .disable && k.s2fault.isNone
        let failed := fun s : State => if why = .preempt then waitForPop s k.preemptBy else s
        if queued && !pinned k && tqFull (getTQ s k.run.queue) then failed (onCore s c fun k => { k with save := none })
        else if pages.length < 12 then
          if queued then failed (onCore s c fun k => pend { k with save := none } (preemptTrap why (freePages s (vmid k)))) else s
        else
          let h := s.nextHold
          let (s, r) := saveContext { s with free := s.free + 1 } c pages
          leaveRun (placeRecord (applyAnswer s k h) k c why r) c)

/-! ### Restores (R371) -/

/-- The bytes of a saved area, by offset. -/
def readArea (s : State) (pages : List Nat) : Img :=
  (List.range pages.length).foldl (fun (m : Img) i =>
    let p := pages.getD i 0
    m ++ (s.mem.filter fun e => decide (p ≤ e.1) && decide (e.1 < p + 65536) && decide (i * 65536 + (e.1 - p) < areaSize)).map
      fun e => (i * 65536 + (e.1 - p), e.2)) []

/-- The granules of saved pages that have a mirror are restored from it (R389). -/
def repairArea (s : State) (pages : List Nat) : State :=
  ((s.poison.filter fun e => pages.contains (e.1 / 1024 * 65536)).map fun e => e.1).foldl repairGranule s

/-- Some granule of saved pages is poisoned, within the area (R381). -/
def areaPoisoned (s : State) (pages : List Nat) : Bool :=
  (List.range pages.length).any fun i => s.poison.any fun e =>
    e.2.poison && decide (e.1 / 1024 = pages.getD i 0 / 65536) && decide (i * 65536 + e.1 % 1024 * 64 < areaSize)

/-- CONTEXT_RESTORE (R371): the context is loaded as CTXLOAD loads it, its pages return to the pool, and the run goes on at
its resume address. A context that the checks of R380 refuse, that no save of the machine made, or of which a part was destroyed,
ends the run as FAILED, reported to the PF (R381; assumption 71). -/
def execContextRestore (c : Nat) (s : State) : Out :=
  let k := getCore s c
  let pa := recCtx k.run.record
  .next (if k.phase ≠ .starting || k.fenced || k.save.isSome || runCancelled s k then s
    else
      let e := SMap.get (fun _ => ([], 0)) s.ctxPages (pa / 65536)
      let s := repairArea s e.1
      let m := readArea s e.1
      if e.1.isEmpty || areaPoisoned s e.1 || !areaOk s c m then
        let s := hardwareFault s (vmid k) c cAccess 0 pa 0
        completeFailed (onCore (discardRun s c) c journalDone) (vmid k) c k.run.record
      else
        let s := loadContext s c m e.2
        let s := freeCtxPages { s with rests := SMap.erase s.rests e.2 } pa
        onCore s c fun k => { k with run := { k.run with record := setCtx k.run.record 0 }, sliceTime := 0 })

/-! ### The sweep of cancelled records (R257) -/

/-- CANCEL_SWEEP (R257): queued records of a cancelled subtree are discarded, those held outside the queue too. -/
def execCancelSweep (q : Nat) (s : State) : Out :=
  let s := sweepQueue (fun s _ r => dropContext s r) s q
  let gone := s.held.filter fun h => decide (h.queue = q) && (getTag s (recTag h.record)).cancelling
  let s := { s with held := s.held.filter fun h => !(decide (h.queue = q) && (getTag s (recTag h.record)).cancelling) }
  .next (settleHeld (gone.foldl (fun (s : State) h => completeFailed (dropContext s h.record) h.vf 0xFF h.record) s))

/-! ### Stage-2 holds (R336) -/

/-- STAGE2_FAULT (R336): the run stops, to be saved and held; the PF is told under a handle. -/
def execStage2Fault (c : Nat) (s : State) : Out :=
  let k := getCore s c
  .next (match k.s2fault with
    | none => s
    | some f =>
      if f.handle ≠ 0 || k.fenced then s
      else
        let h := s.nextHandle
        let s := onCore { s with nextHandle := h + 1 } c fun k =>
          { k with s2fault := some { f with handle := h }, save := some .stage2, wake := true }
        pushFault s { vf := k.run.vf, gcore := c, port := f.port, cause := f.cause, level := f.level, handle := h, ipa := f.ipa,
                      va := f.va, stamp := k.hlc })

/-- The ASID in force at the task level of a run that hardware saved. -/
def savedAsid (s : State) (r : W512) : Nat :=
  getN (readArea s (SMap.get (fun _ => ([], 0)) s.ctxPages (recCtx r / 65536)).1) (0x260 + 8 * 9) 8 % 4096

/-- A run ends on its core as FINISH.fail ends one: its commands and rules go, its windows are kept as SFLUSH leaves them, its
barriers break, and it completes as FAILED (R299, R336). -/
def failRun (s : State) (c : Nat) : State :=
  let k := getCore s c
  let s := dropRules (dropClaims s c) c
  let s := endRun (breakBarriers s c (vmid k)) c
  completeUnder (onCore s c journalDone) (vmid k) (field k.regs.cr.asid 0 12) c k.run.record

/-- An answer to a saved run (R336). -/
def answerSaved (s : State) (h : HeldRun) (f : S2Fault) (action : Nat) : State :=
  let s := { s with held := s.held.erase h }
  if action = 2 then
    let asid := savedAsid s h.record
    completeUnder (dropContext s h.record) h.vf asid 0xFF h.record
  else
    let k := (SMap.get (fun _ => ([], 0)) s.ctxPages (recCtx h.record / 65536)).2
    putAnswered { s with rests := SMap.insert s.rests k (answerRest f (action = 1) (getRest s k)) } h

/-- FAULT_RING_ANSWER (R336): 0 the access is retried, 1 the function receives ACCESS_FAULT, 2 the run ends as FINISH.fail
ends one. An answer 0 or 1 to a run that is still to be saved stands until it is. -/
def execFaultRingAnswer (handle action : Nat) (s : State) : Out :=
  let saved := s.held.find? fun h => decide (h.handle = handle) && match h.why with
    | .stage2 _ => true
    | _ => false
  let frozen := (List.range 160).find? fun c => ((getCore s c).s2fault.map fun f => f.handle) = some handle
  .next (if handle = 0 ∨ 2 < action then s
    else
      match saved, frozen with
      | some h, _ =>
        match h.why with
        | .stage2 f => answerSaved s h f action
        | _ => s
      | none, some c =>
        if action = 2 then failRun s c
        else onCore s c fun k =>
          { k with s2fault := k.s2fault.map fun f => if f.answer.isNone then { f with answer := some action } else f }
      | none, none => s)

end Sys2Proof.Machine
end

