-- ==== Sys2Proof/Machine/Functions.lean ====
section
/-! DEFINITION. Functions and their contexts (R338 to R341), queue assignment and registration (R240, R248, R339), and
attestation (R349, R350). -/

namespace Sys2Proof.Machine

open Sys2Proof

/-- Two ranges of a length from a base overlap. -/
def rangesMeet (a n b m : Nat) : Bool := decide (0 < n) && decide (0 < m) && decide (a < b + m) && decide (b < a + n)

/-- The memory of a function: its pool and its node area. -/
def ownRanges (x : FuncCtx) : List (Nat × Nat) := [(x.poolbase, x.poolpages * 65536), (x.nodebase, x.nodecount * 4096)]

/-- The frame of a function's record page, if it translates. -/
def recordFrame (s : State) (v : Nat) : Option Nat :=
  match xlatIpa s v (getFctx s v).jpage false false false [] with
  | .ok t => some (t.pa / 65536)
  | _ => none

/-- The context that a state holds replaced. -/
def setFctx (s : State) (v : Nat) (x : FuncCtx) : State := { s with fctx := SMap.set (fun _ => {}) s.fctx v x }

/-- Two functions' ASID ranges, pools, node areas or record pages overlap. -/
def contextsMeet (s : State) (v w : Nat) : Bool :=
  let x := getFctx s v
  let y := getFctx s w
  rangesMeet x.asidbase x.asidcount y.asidbase y.asidcount
    || ((ownRanges x).any fun a => (ownRanges y).any fun b => rangesMeet a.1 a.2 b.1 b.2)
    || match recordFrame s v, recordFrame s w with
      | some a, some b => a = b
      | _, _ => false

/-- The functions whose context has been written. -/
def otherFunctions (s : State) (v : Nat) : List Nat := (s.fctx.map fun e => e.1).filter fun w => decide (w ≠ v)

/-- A field other than quota, slice and cflags changes. -/
def fieldsChange (a b : FuncCtx) : Bool :=
  decide ({ b with quota := a.quota, slice := a.slice, enabled := a.enabled } ≠ a)

/-- The position of the first condition of R338 that a write breaks; 0 when it breaks none. -/
def contextStatus (s : State) (v : Nat) (x : FuncCtx) : Nat :=
  let t := setFctx s v x
  if (otherFunctions s v).any (contextsMeet t v) then 1
  else if 65536 < x.tagquota + ((otherFunctions s v).map fun w => (getFctx s w).tagquota).sum then 2
  else if !asidInRange x x.defasid.toNat || !asidInRange x x.supasid.toNat then 3
  else if (getFctx s v).enabled && fieldsChange (getFctx s v) x then 4
  else if 9 ≤ field x.edgering 60 4 then 5
  else 0

/-- Clearing ENABLED: every run of the function is to be saved and held (R339). -/
def disableFunction (s : State) (v : Nat) : State :=
  let s := setFctx s v { getFctx s v with enabled := false }
  (List.range 160).foldl (fun (s : State) c =>
    let k := getCore s c
    if k.phase ≠ .idle ∧ vmid k = v ∧ k.s2fault.isNone then onCore s c (decideSave .disable) else s) s

/-- Setting ENABLED again: held runs are requeued at the heads of their queues, and a run that still stands on its core
goes on (R339). -/
def enableFunction (s : State) (v : Nat) : State :=
  let s := setFctx s v { getFctx s v with enabled := true }
  let s := (List.range 160).foldl (fun (s : State) c =>
    let k := getCore s c
    if vmid k = v ∧ k.save = some .disable then onCore s c fun k => { k with save := none } else s) s
  let mine := s.held.filter fun h => h.why = .disabled && decide (h.vf = v)
  mine.reverse.foldl requeueHeld { s with held := s.held.filter fun h => !(h.why = .disabled && decide (h.vf = v)) }

/-- FUNCTION_CONTEXT_WRITE (R338): the write is made, or its status names the condition that it breaks. -/
def execFunctionContextWrite (vf : Nat) (x : FuncCtx) (s : State) : Out :=
  let st := if vf < 64 then contextStatus s vf x else 1
  let was := (getFctx s vf).enabled
  .next (if st ≠ 0 then { s with fctxStatus := st }
    else
      let s := setFctx { s with fctxStatus := 0 } vf { x with enabled := was }
      if was && !x.enabled then disableFunction s vf
      else if !was && x.enabled then enableFunction s vf
      else s)

/-- FUNCTION_DISABLE (R339). -/
def execFunctionDisable (vf : Nat) (s : State) : Out :=
  .next (if (getFctx s vf).enabled then disableFunction s vf else s)

/-- FUNCTION_ENABLE (R339). -/
def execFunctionEnable (vf : Nat) (s : State) : Out :=
  .next (if vf < 64 ∧ !(getFctx s vf).enabled then enableFunction s vf else s)

/-- QUEUE_ASSIGNMENT (R339, R347): the PF assigns a queue to a function, with which it stands empty and stopped, or the CXL.mem
range. A queue of that function already, as after a warm reset, keeps what it holds (R399, R407). -/
def execQueueAssignment (k : AsgKind) (vf : Nat) (s : State) : Out :=
  let owner := if vf < 64 then some vf else none
  .next (match k with
    | .taskQueue n => if n < 256 ∧ (getTQ s n).vf ≠ owner then setTQ s n { vf := owner } else s
    | .subQueue n => if n < 1024 ∧ (getSQ s n).vf ≠ owner then setSQ s n { vf := owner } else s
    | .cxlMem base size => { s with cxlMem := owner.map fun v => (v, base, size) })

/-- TASK_QUEUE_ENTRY_WRITE (R248): the owner writes its own fields; a size out of range leaves the field unchanged. -/
def execTaskQueueEntryWrite (vf q : Nat) (e : QueueArg) (s : State) : Out :=
  .next (if ownsQueue s vf q then
      let x := getTQ s q
      setTQ s q { x with ring := e.ring / 64 * 64, lgsize := if e.lgsize ≤ 20 then e.lgsize else x.lgsize,
                         prio := e.prio % 8, enabled := e.enabled, preempt := e.preempt, stagemask := e.stagemask,
                         coremask := e.coremask }
    else s)

/-- Every record of a queue is discarded, as by the sweep of a cancellation (R257, R341). -/
def emptyQueue (s : State) (q : Nat) : State :=
  let x := getTQ s q
  let v := x.vf.getD 0
  let gone := ((List.range (x.tail - x.head)).filterMap fun i => readTask s x (x.head + i)) ++ x.heldFor.map fun h => h.record
  let s := (List.range (x.tail - x.head)).foldl (fun s i => touchTask s x (x.head + i)) s
  let s := setTQ s q { x with head := x.tail, sigs := [], heldFor := [] }
  gone.foldl (fun (s : State) r => completeFailed (dropContext s r) v 0xFF r) s

/-- FUNCTION_RESET (R341): tags cancelled, queued and held records discarded, submission queues stopped, open tensors
released, and cr.farlost cleared on every core before its next run. -/
def execFunctionReset (vf : Nat) (s : State) : Out :=
  let mine := fun (s : State) => (s.tags.filter fun e => e.2.live && decide (e.2.vf = vf)).map fun e => e.1
  let s := wakeCovered ((mine s).foldl cancelTree s)
  let s := ((s.tqs.filter fun e => e.2.vf = some vf).map fun e => e.1).foldl emptyQueue s
  let gone := s.held.filter fun h => decide (h.vf = vf)
  let s := { s with held := s.held.filter fun h => decide (h.vf ≠ vf) }
  let s := gone.foldl (fun (s : State) h => completeFailed (dropContext s h.record) vf 0xFF h.record) s
  let s := ((s.sqs.filter fun e => e.2.vf = some vf).map fun e => e.1).foldl (fun (s : State) n =>
    setSQ s n { getSQ s n with st := .stopped, err := 0, pkt := none, nextI := 0, copied := 0, good := 0, conds := none }) s
  let s := ((s.ots.filter fun e => e.2.st = 1 && decide (e.2.vf = vf)).map fun e => e.1).foldl dropRecord s
  .next ((List.range 160).foldl (fun (s : State) c => onCore s c fun k => { k with farClear := true }) s)

/-! ### Attestation (R350) -/

/-- A function context in the layout of R338. -/
def contextBytes (x : FuncCtx) : List Byte :=
  let w := fun (n v : Nat) => toBytes n (BitVec.ofNat (8 * n) v)
  w 8 x.s2root ++ w 8 x.asidtab ++ w 2 x.asidbase ++ w 2 x.asidcount ++ w 2 x.defasid.toNat ++ w 2 x.supasid.toNat
    ++ w 4 x.tkey.toNat ++ w 4 x.enabled.toNat ++ w 8 x.poolbase ++ w 8 x.poolpages ++ w 8 x.quota ++ w 8 x.nodebase
    ++ w 4 x.nodecount ++ w 4 x.slice ++ w 8 x.hostwin ++ w 8 x.hostwinsize ++ w 8 x.tvec.toNat ++ w 8 x.edgering.toNat
    ++ w 4 x.tagquota ++ w 4 0 ++ w 8 x.jpage ++ w 8 x.jrec

/-- The queue and ASID assignments of a function: the numbers of its task queues and submission queues, and its ASID range
(assumption 24 names this order). -/
def assignmentBytes (s : State) (v : Nat) : List Byte :=
  let w := fun (n : Nat) => toBytes 2 (BitVec.ofNat 16 n)
  ((s.tqs.filter fun e => e.2.vf = some v).flatMap fun e => w e.1)
    ++ ((s.sqs.filter fun e => e.2.vf = some v).flatMap fun e => w e.1)
    ++ w (getFctx s v).asidbase ++ w (getFctx s v).asidcount

/-- Bytes 0 to 655 of a report. -/
def reportBytes (s : State) (vf : Option Nat) (nonce : W512) : List Byte :=
  let digest : W512 := match vf with
    | some v => Config.shake256 (contextBytes (getFctx s v) ++ assignmentBytes s v)
    | none => 0
  toBytes 4 (1 : W32) ++ toBytes 2 (BitVec.ofNat 16 (vf.getD 0xFFFF)) ++ toBytes 2 (0 : W32) ++ toBytes 64 nonce
    ++ ((List.range 8).flatMap fun i => toBytes 64 (SMap.get (fun _ => 0) s.meas i)) ++ toBytes 64 digest
    ++ toBytes 8 (phys s)

/-- ATTESTATION_REPORT (R350): the controller of die 0 signs a report, of one function for its own mailbox. -/
def execAttestationReport (vf : Option Nat) (nonce : W512) (s : State) : Out :=
  let b := reportBytes s vf nonce
  .next (if s.power then
      { s with reports := s.reports ++ [{ vf := vf.getD 0xFFFF, body := ofBytes 5248 b, signature := Config.sign b }] }
    else s)

end Sys2Proof.Machine
end

