-- ==== Sys2Proof/Machine/Perform.lean ====
section
/-! DEFINITION. The head of a program buffer performed (R201, R202), and the delivery of far accesses (R208, R343,
R344). -/

namespace Sys2Proof.Machine

open Sys2Proof

/-! ### Pushes and drains (R205, R206, R226) -/

/-- PERFORM of a push: the command enters its FIFO with the values its pusher holds (R205, R313). -/
def performPush (s : State) (c : Nat) (b : BufItem) (q : Nat) (x : Cmd) : State :=
  if 64 ≤ (getEng (getCore s c) q).queue.length then setHead s c { b with began := true }
  else
    let g := sigOf s c 0
    dropHead (onCore s c fun k =>
      setEng { k with actSeq := k.actSeq + 1 } q
        { getEng k q with queue := (getEng k q).queue ++ [{ x with sig := g, seq := k.actSeq + 1 }] }) c

/-- PERFORM of a DRAIN: it leaves once every copy on its channels has retired, with its edge if it waited. -/
def performDrain (s : State) (c : Nat) (b : BufItem) (chan : Option Nat) : State :=
  let k := getCore s c
  let b := tried k b
  if copyPending k b.mark chan then setHead s c b
  else
    let h := chan.getD k.chLast
    dropHead (releaseEdge s c 0 5 h (SMap.get (fun _ => {}) k.chsig h) b.waited) c

/-! ### Window instructions (R119) -/

/-- What step 1 of R119 waits for cannot retire while the engines are frozen: a command that waits in a queue or a channel, a
vector command, or one that is held (R356, R357). -/
def windowStuck (k : Core) (mark : Nat) (d : W512) : Bool :=
  let hits := fun c : Cmd => !c.tokenOnly && c.descs.any fun x => hasWindow x && overlaps x d
  let stands := fun a : Active => hits a.cmd && (a.rule.isNone || decide (a.id ≤ mark))
  let held := fun q : Nat => fun a : Active => stands a && ((a.rule.isNone && [0, 3, 5].contains q) || actHeld k a)
  (k.engines.any fun e => e.2.queue.any hits || e.2.again.any stands || e.2.active.any (held e.1))
    || k.chans.any fun e => e.2.any stands

/-- PERFORM of SFLUSH (R119): memory already reads as the window does, so that writing back only cleans. -/
def performSflush (s : State) (c : Nat) (b : BufItem) (unmap : Bool) (d : W512) : State :=
  let k := getCore s c
  let b := tried k b
  match windowOf k d with
  | none => dropHead s c
  | some w =>
    if windowBusy k b.mark d then setHead (if windowStuck k b.mark d then onCore s c stuckNow else s) c b
    else if unmap then dropHead (onCore (looseWindow c s w) c fun k => onWindow k w fun _ => none) c
    else dropHead (onCore s c fun k => onWindow k w fun x => some { x with dirty := [] }) c

/-- The dirty granule of lowest address. -/
def lowestDirty : List Dirty → Option Dirty
  | [] => none
  | d :: t =>
    match lowestDirty t with
    | none => some d
    | some e => if d.pa ≤ e.pa then some d else some e

/-- PERFORM of SDROP (R119): one dirty granule goes back to the bytes of memory, and at the end the entry goes. -/
def performSdrop (s : State) (c : Nat) (b : BufItem) (d : W512) : State :=
  let k := getCore s c
  let b := tried k b
  match windowOf k d with
  | none => dropHead s c
  | some w =>
    if windowBusy k b.mark d then setHead (if windowStuck k b.mark d then onCore s c stuckNow else s) c b
    else
      match lowestDirty w.dirty with
      | none => dropHead (onCore (looseWindow c s w) c fun k => onWindow k w fun _ => none) c
      | some g =>
        let s := dropDirty s { w with dirty := [g] }
        setHead (onCore s c fun k => onWindow k w fun x => some { x with dirty := x.dirty.filter fun y => decide (y.pa ≠ g.pa) })
          c { b with ev := .sdrop d (some g.pa) }

/-! ### PERFORM -/

/-- The block or record that an instruction's event reads or writes. -/
def namedBlock (k : Core) (e : Ev) : Option Nat :=
  match e with
  | .bar _ ea _ none _ => some ea
  | .joinadd ea _ => some ea
  | .slice _ va _ _ => some va
  | .fbind _ kind va => if kind = 0 then none else some va
  | .stepend ea _ _ => some ea
  | .ctxsave ea (some _) done => if areaSize ≤ done then none else some (ea + done)
  | .finish _ => match k.phase with
    | .finishing 4 _ _ => some (recJoin k.run.record)
    | _ => none
  | _ => none

/-- It lies in a lost page that is to be repaired from its far mirror first (R389). -/
def headWaits (s : State) (c : Nat) (b : BufItem) : Bool :=
  match (namedBlock (getCore s c) b.ev).map fun va => translate s (vmid (getCore s c)) b.asid va false false false [] with
  | some (.ok t) => needsRepair s t.pa
  | _ => false

/-- The head entry of a core's buffer is performed as far as it can go: its next event. -/
def performHead (s : State) (c : Nat) (b : BufItem) : State :=
  match b.ev with
  | .access a => performAccess s c b a
  | .push q x => performPush s c b q x
  | .fset n v => performFset s c n v
  | .fadd n v => performFadd s c n v
  | .frd n dst => performFrd s c b n dst
  | .fbind n kind va => performFbind s c b n kind va
  | .waitf n cond v _ dst _ => performWaitf s c b n cond v dst
  | .drain chan => performDrain s c b chan
  | .ffence dst mark => performFfence s c b dst mark
  | .ifence => performIfence s c
  | .biasflip host ea => performBiasflip s c b host ea
  | .bar level ea dst arrived block => performBar s c b level ea dst arrived block
  | .squash g => performSquash s c g
  | .spawn nb ea q dst img poison full => performSpawn s c b nb ea q dst img poison full
  | .joinadd ea n => performJoinadd s c b ea n
  | .tagnew root parent group dst => performTagnew s c b root parent group dst
  | .cancel wait tag done => performCancel s c b wait tag done
  | .slice op ot z dst => performSlice s c b op ot z dst
  | .sflush unmap d => performSflush s c b unmap d
  | .sdrop d _ => performSdrop s c b d
  | .stepmark v => performStepmark s c v
  | .stepend ea dst rep => performStepend s c b ea dst rep
  | .edgerd word ref dst st got => performEdgerd s c b word ref dst st got
  | .wfi => performWfi s c b
  | .yield => performYield s c
  | .finish _ => performFinish s c b
  | .ctxsave ea img done => performCtxsave s c b ea img done
  | .ctxload ea img done => performCtxload s c b ea img done

/-! ### DELIVER (R202, R208, R343, R344) -/

/-- The access leaves its far queue, or what is left of it stays at the head. -/
def putFar (s : State) (c q : Nat) (rest : Option FarItem) : State :=
  onCore s c fun k =>
    let l := SMap.get (fun _ => []) k.far q
    { k with far := SMap.set (fun _ => []) k.far q (rest.toList ++ l.tail) }

/-- A lost or refused far store, or a lost atomic, is counted (R343, R344). -/
def countLost (s : State) (c : Nat) : State :=
  onCore s c fun k => { k with regs := { k.regs with cr := { k.regs.cr with
    farlost := (satInc 32 (k.regs.cr.farlost.setWidth 32)).setWidth 64 } } }

/-- An access of a failed target that an FFENCE reports (R227). -/
def noteLost (s : State) (c : Nat) : State := onCore s c fun k => { k with farLost := true }

/-- The bytes that an answer returns for `n` bytes. -/
def ansBytes (d : BitVec 128) (n : Nat) : List Byte := toBytes n d

/-- The bytes of a far item's next event (R200). -/
def farBytes (it : FarItem) : Nat :=
  match it.who with
  | .core _ _ => ((eventsOf it.va it.size).headD (it.va, it.size)).2
  | _ => it.size

/-- What is left of a far item after one event of `n` bytes: it goes on in the page that it crosses into (R200). -/
def farRest (it : FarItem) (n : Nat) : FarItem :=
  let turns := decide ((it.va + n) % 65536 = 0)
  { it with pa := if turns then it.cross.getD (it.pa + n) else it.pa + n, cross := if turns then none else it.cross,
            va := it.va + n, size := it.size - n, data := it.data >>> (8 * n) }

/-- The head of the buffer, where it is an access of which a part is on its way, leaves it, or stands there changed. -/
def onOut (s : State) (c : Nat) (b : Option BufItem) : State :=
  match (getCore s c).buf with
  | { ev := .access a, .. } :: _ =>
    if a.out then
      match b with
      | some b => setHead s c b
      | none => dropHead s c
    else s
  | _ => s

/-- The control core's far access is answered: its value returns as the last event ends, or its trap (R220). -/
def deliverCore (s : State) (c q : Nat) (it : FarItem) (b : BufItem) (a : Access) (ans : FarAns) : State :=
  let part := decide (a.done + it.size < a.size)
  let fault := fun (s : State) (cause : BitVec 8) =>
    let s := if part then onOut s c none else s
    if a.kind = .st ∨ a.kind = .dst then s
    else
      let slotOf := match a.kind with
        | .dld => BitVec.ofNat 2 b.slot
        | _ => 0
      pushRet s c { dest := accessDest a, dead := b.dead,
                    trap := some { cause := cause, eslot := slotOf, einfo := BitVec.ofNat 64 a.ea } }
  match ans with
  | .refused => fault (if it.write then countLost (putFar s c q none) c else putFar s c q none) cAccess
  | .lost => fault (noteLost (if it.write || it.atomic then countLost (putFar s c q none) c else putFar s c q none) c) 0x11
  | .done d p =>
    let n := farBytes it
    let a := { a with done := a.done + n, acc := a.acc ++ if it.write then [] else ansBytes d n, poison := a.poison || (p && !it.write),
                      poisonAt := if p && !a.poison then it.va / 16 * 16 else a.poisonAt }
    if a.size ≤ a.done then finishAccess (putFar s c q none) c b a
    else if it.size ≤ n then onOut (putFar s c q none) c (some { b with ev := .access { a with out := false } })
    else putFar s c q (some { farRest it n with who := .core b a })

/-- An active command, by its number. -/
def actById (k : Core) (a id : Nat) : Option Active := (actsOf k a).find? fun x => decide (x.id = id)

/-- The data that an answer returns to an engine's read. -/
def gotOf (i : Item) (d : BitVec 128) (p : Bool) : List Got :=
  let a := (itemSpan i).1
  i.elems.map fun e =>
    let v := (d >>> (8 * (e.addr - a))).setWidth 64 &&& BitVec.ofNat 64 (2 ^ (8 * e.size) - 1)
    { opnd := i.opnd, key := e.key, part := e.part, size := e.size, val := takeNib e.nib v, poison := p }

/-- An engine's far access is answered: a read's data, the end of a write, or a fault that halts the command, which
makes the access again (R236, R237, R335). -/
def deliverAgent (s : State) (c q : Nat) (it : FarItem) (a id : Nat) (i : Item) (ans : FarAns) : State :=
  let s := putFar s c q none
  match actById (getCore s c) a id with
  | none => s
  | some x =>
    let x := { x with farOut := x.farOut - 1 }
    let back := countAt x i.port (· - 1)
    let again := if i.write then { back with writes := i :: x.writes } else { back with reads := i :: x.reads }
    let fault := fun (s : State) (cause : BitVec 8) =>
      let r := haltItem s c again i (.trap { cause := cause, einfo := BitVec.ofNat 64 (it.va % 2 ^ 55) })
      putById r.1 c a r.2
    match ans with
    | .done d p => putById s c a (if i.write then x else { x with got := x.got ++ gotOf i d p })
    | .refused =>
      if i.write then putById (countLost s c) c a x else fault s cAccess
    | .lost => fault (noteLost (if i.write then countLost s c else s) c) 0x11

/-- A granule of a SPAWN's image or of a CTXLOAD's area is answered: its 16 bytes, or the instruction's fault (R298, R380,
R421). -/
def deliverImage (s : State) (c q : Nat) (it : FarItem) (ans : FarAns) : State :=
  let s := putFar s c q none
  match (getCore s c).buf with
  | [] => s
  | b :: _ =>
    match b.ev, ans with
    | .spawn nb ea tq dst img poison full, .done d p =>
      setHead s c { b with ev := .spawn nb ea tq dst (img ++ ansBytes d 16) (poison || p) full }
    | .spawn _ _ _ _ _ _ _, .refused => eventTrap s c b { cause := cAccess, einfo := BitVec.ofNat 64 (it.va % 2 ^ 55) }
    | .spawn _ _ _ _ _ _ _, .lost => eventTrap (noteLost s c) c b { cause := 0x11, einfo := BitVec.ofNat 64 (it.va % 2 ^ 55) }
    | .ctxload ea img done, .done d p =>
      if p then eventBlock s c b (accessFull (BitVec.ofNat 64 ea))
      else setHead s c { b with ev := .ctxload ea (pokeBytes img done (ansBytes d 16)) (done + 16) }
    | .ctxload _ _ _, .refused => eventTrap s c b { cause := cAccess, einfo := BitVec.ofNat 64 (it.va % 2 ^ 55) }
    | .ctxload _ _ _, .lost => eventTrap (noteLost s c) c b { cause := 0x11, einfo := BitVec.ofNat 64 (it.va % 2 ^ 55) }
    | _, _ => s

/-- The target of a far queue is up: the pod table says so, and a host link is up while it is trained. -/
def farUp (s : State) (q : Nat) : Bool :=
  if q < 4096 then (getPod s q).up else (getLink s (q - 4096)).up

/-- What an access delivered to another package or to the host does there, as it leaves this package: the request of one
event. -/
def sendOut (s : State) (it : FarItem) (ans : FarAns) : State :=
  match ans with
  | .done _ _ => { s with farSent := s.farSent ++ [{ it with size := farBytes it, cross := none, who := .none }] }
  | _ => s

/-- The head access of a far queue leaves it with the answer that its target, or its loss, gives (R220, R343, R344). -/
def answerFar (s : State) (c q : Nat) (it : FarItem) (ans : FarAns) : State :=
  match it.who with
  | .core b a => deliverCore s c q it b a ans
  | .agent a id i => deliverAgent s c q it a id i ans
  | .image => deliverImage s c q it ans
  | .none => putFar (match ans with
    | .lost => if it.write || it.atomic then countLost (noteLost s c) c else noteLost s c
    | .refused => if it.write then countLost s c else s
    | .done _ _ => s) c q none

/-- Every access of a core under way to a target that has gone down is lost, in order (R344). -/
def loseFar (s : State) (c q : Nat) : State :=
  (SMap.get (fun _ => []) (getCore s c).far q).foldl (fun s it => answerFar s c q it .lost) s

/-- What a core has under way to targets that are down is lost: an access that is forwarded to one, too (R344). -/
def loseDown (s : State) (c : Nat) : State :=
  ((getCore s c).far.filter fun e => decide (e.1 < 4096) && !(getPod s e.1).up).foldl (fun s e => loseFar s c e.1) s

/-- PERFORM (R202): the head access of a program buffer performs its next event at the order point. One on a lost page waits for
its repair (R389). -/
def execPerform (c : Nat) (s : State) : Out :=
  .next (match (getCore s c).buf with
    | [] => s
    | b :: _ => if performStops (getCore s c) || headWaits s c b then s else loseDown (performHead (stampEvent s c) c b) c)

/-- DELIVER (R202, R208): the head access of a far queue is performed at its target, which answers as the operand says;
an access under an incarnation that is no longer the target's is refused (R342). -/
def execDeliver (c target : Nat) (ans : FarAns) (s : State) : Out :=
  let k := getCore s c
  .next (match (SMap.get (fun _ => []) k.far target).head? with
    | none => s
    | some it =>
      let up := farUp s target
      let ans := if up ∧ target < 4096 ∧ it.inc ≠ (getPod s target).inc then FarAns.refused else ans
      if k.fenced || (!up && decide (ans ≠ .lost)) || (up && decide (ans = .lost)) then s
      else
        answerFar (sendOut (stampEvent s c) it ans) c target it ans)

end Sys2Proof.Machine
end

