-- ==== Sys2Proof/Machine/Registers.lean ====
section
/-! DEFINITION. The registers that the host reads through BAR0 of the PF and of a function (R346, R405, R406): their bytes.
A write of a register is the event of the package that its rule describes. DESIGN CHOICE, assumption 72: the spec gives the
groups and the structures; the places of the structures within a group are the model's. -/

namespace Sys2Proof.Machine

open Sys2Proof

/-! ### Structures as bytes -/

/-- A field of `n` bytes. -/
def regField (n v : Nat) : List Byte := toBytes n (BitVec.ofNat (8 * n) v)

/-- The code of the package's state (R405). -/
def modeCode (m : BootMode) : Nat :=
  match m with
  | .notReady => 0
  | .ready => 1
  | .recovery => 2

/-- Identity, state, boot report and disabled parts: 48 bytes, after which the boot journal stands (R402, R405). -/
def identityBytes (s : State) : List Byte :=
  regField 4 Config.pkg.toNat ++ regField 1 (modeCode s.boot.mode) ++ regField 1 s.boot.kept.toNat ++ regField 2 s.boot.step
    ++ regField 4 s.boot.number ++ regField 4 s.ownInc.toNat ++ regField 8 s.boot.journal.length ++ regField 8 (phys s).toNat
    ++ regField 16 (((List.range 71).map fun n => if SMap.get (fun _ => false) s.boot.disabled n then 2 ^ n else 0).sum)

/-- A boot journal entry (R401). -/
def bootBytes (x : BootEntry) : List Byte :=
  regField 2 x.step ++ regField 1 x.kind ++ regField 1 0 ++ regField 4 x.boot ++ regField 8 x.stamp.toNat

/-- A fault ring entry (R336). -/
def faultBytes (x : FaultEntry) : List Byte :=
  regField 1 x.vf ++ regField 1 x.gcore ++ regField 1 x.port ++ regField 1 x.cause.toNat ++ regField 4 x.handle
    ++ regField 8 x.ipa ++ regField 8 x.va ++ regField 8 x.stamp.toNat

/-- An error log entry (R406). -/
def logBytes (x : LogEntry) : List Byte :=
  regField 8 x.stamp.toNat ++ regField 1 x.cls ++ regField 1 x.die ++ regField 2 x.unit ++ regField 4 x.count
    ++ regField 8 x.pa ++ regField 8 x.vf

/-- A pod table entry (R342). -/
def podBytes (x : PodEntry) : List Byte := regField 4 x.up.toNat ++ regField 4 x.inc.toNat

/-- An export table entry (R343). -/
def exportBytes (x : ExportEntry) : List Byte :=
  regField 8 (x.base / 2 ^ 29 * 2 ^ 29 + x.func * 4 + x.w.toNat * 2 + x.r.toNat) ++ regField 4 x.tkey.toNat ++ regField 4 x.limit

/-- The code of a submission queue's state (R240). -/
def sqCode (x : SqState) : Nat :=
  match x with
  | .stopped => 0
  | .run => 1
  | .wait => 2
  | .error => 3

/-- A submission queue descriptor (R240). -/
def sqBytes (x : SubQ) : List Byte :=
  regField 8 x.ring ++ regField 1 x.lgsize ++ regField 1 (sqCode x.st) ++ regField 2 0 ++ regField 1 (x.vf.getD 0xFF)
    ++ regField 1 x.err ++ regField 2 0 ++ regField 8 x.consumed ++ regField 8 x.tail ++ regField 8 x.vector

/-- A task queue entry (R248). -/
def tqBytes (x : TaskQ) : List Byte :=
  regField 8 x.ring ++ regField 1 x.lgsize ++ regField 1 x.prio ++ regField 1 (x.enabled.toNat + 2 * x.preempt.toNat) ++ regField 1 0
    ++ regField 2 x.stagemask.toNat ++ regField 1 (x.vf.getD 0xFF) ++ regField 1 0 ++ regField 20 x.coremask.toNat ++ regField 4 0
    ++ regField 8 x.head ++ regField 8 x.tail ++ regField 4 x.passed

/-- The latest attestation report of a requester, which is 0xFFFF for the PF (R350). -/
def mailboxBytes (s : State) (who : Nat) : List Byte :=
  match s.reports.reverse.find? fun r => decide (r.vf = who) with
  | some r => toBytes 656 r.body ++ toBytes 3309 r.signature
  | none => []

/-- The limits of R404. -/
def limitBytes (x : Limits) : List Byte :=
  regField 4 x.power ++ regField 4 x.throttle ++ regField 4 x.agelimit.toNat ++ regField 4 x.coreThr ++ regField 4 x.stackThr
    ++ regField 4 x.pageThr ++ regField 4 x.irqs.toNat

/-- The latest entry of a log that stands at a place of its ring of `n`. -/
def ringAt {α : Type} (l : List α) (n i : Nat) : Option α := if l.length ≤ i then none else l[i + (l.length - 1 - i) / n * n]?

/-- A ring of 2,047 entries of 32 bytes behind the count of the entries that have been written to it. -/
def ringByte {α : Type} (l : List α) (bytes : α → List Byte) (r : Nat) : Byte :=
  if r < 32 then (regField 8 l.length).getD r 0
  else ((ringAt l 2047 (r / 32 - 1)).map fun x => (bytes x).getD (r % 32) 0).getD 0

/-! ### The two BARs -/

/-- The numbers of a function's submission queues, ascending (R346). -/
def ownSqs (s : State) (v : Nat) : List Nat := (s.sqs.filter fun e => decide (e.2.vf = some v)).map fun e => e.1

/-- The numbers of a function's task queues, ascending. -/
def ownTqs (s : State) (v : Nat) : List Nat := (s.tqs.filter fun e => decide (e.2.vf = some v)).map fun e => e.1

/-- Byte `r` of a group of PF BAR0 (R405). -/
def groupByte (s : State) (g r : Nat) : Byte :=
  let at_ := fun (l : List Byte) (i : Nat) => l.getD i 0
  match g with
  | 0 =>
    if r < 48 then at_ (identityBytes s) r
    else ((s.boot.journal[(r - 48) / 16]?).map fun x => at_ (bootBytes x) (r % 16)).getD 0
  | 1 => if r < 8192 then at_ (contextBytes (getFctx s (r / 128))) (r % 128) else at_ (regField 4 s.fctxStatus) (r - 8192)
  | 2 =>
    if r < 1024 then BitVec.ofNat 8 ((getSQ s r).vf.getD 0xFF)
    else if r < 1280 then BitVec.ofNat 8 ((getTQ s (r - 1024)).vf.getD 0xFF)
    else 0
  | 3 => ringByte s.faultRing faultBytes r
  | 4 => if r < 32768 then at_ (podBytes (getPod s (r / 8))) (r % 8) else BitVec.ofNat 8 (SMap.get (fun _ => 0) s.routes (r - 32768))
  | 5 => ringByte s.errLog logBytes r
  | 7 =>
    if r < 256 then at_ (limitBytes s.limits) r
    else ((s.mirrors[(r - 256) / 16]?).map fun e => at_ (regField 8 e.1 ++ regField 8 (e.2.getD 0)) (r % 16)).getD 0
  | 8 =>
    if r < 1280 then at_ (regField 8 ((getCore s (r / 8)).stop.getD (2 ^ 64 - 1))) (r % 8)
    else if r < 1440 then BitVec.ofNat 8 (getCore s (r - 1280)).frozen.toNat
    else 0
  | 16 => at_ (mailboxBytes s 0xFFFF) r
  | _ => 0

/-- Byte `r` of a window of the BAR0 of function `v`: its doorbells, its queues, its exports and its mailbox (R346). -/
def windowByte (s : State) (v g r : Nat) : Byte :=
  let at_ := fun (l : List Byte) (i : Nat) => l.getD i 0
  match g with
  | 0 => (((ownSqs s v)[r / 8]?).map fun q => at_ (regField 8 (getSQ s q).tail) (r % 8)).getD 0
  | 1 => (((ownSqs s v)[r / 64]?).map fun q => at_ (sqBytes (getSQ s q)) (r % 64)).getD 0
  | 2 => (((ownTqs s v)[r / 64]?).map fun q => at_ (tqBytes (getTQ s q)) (r % 64)).getD 0
  | 3 =>
    let x := SMap.get (fun _ => ({} : ExportEntry)) s.exports (r / 16)
    if x.func = v then at_ (exportBytes x) (r % 16) else 0
  | 4 => at_ (mailboxBytes s v) r
  | _ => 0

/-- Bytes of a BAR0: that of the PF, 64, or of a function (R346). -/
def barSize (v : Nat) : Nat := if v = 64 then 2 ^ 22 else 2 ^ 20

/-- A byte of a BAR0. -/
def barByte (s : State) (v off : Nat) : Byte :=
  if v = 64 then groupByte s (off / 65536) (off % 65536) else windowByte s v (off / 65536) (off % 65536)

/-- What a read of a BAR0 returns. -/
def barRead (s : State) (v off n : Nat) : BitVec 128 := ofBytes 128 ((List.range n).map fun i => barByte s v (off + i))

/-- The registers can be reached: a function's only in a package that is ready, the PF's while it boots and in recovery too
(R402). -/
def barAnswers (s : State) (v : Nat) : Bool := s.power && !s.tripped && (decide (v = 64) || decide (s.boot.mode = .ready))

/-- An access lies in the BAR of its function, as a read or a write of at most 16 bytes (R346). -/
def barFits (v off n : Nat) (k : ExtKind) : Bool :=
  decide (v ≤ 64) && decide (0 < n) && decide (n ≤ 16) && decide (off + n ≤ barSize v) && match k with
    | .read => true
    | .write _ => true
    | _ => false

end Sys2Proof.Machine
end

