-- ==== Sys2Proof/Machine/Outside.lean ====
section
/-! DEFINITION. What comes from outside the package: far requests and the export table (R342 to R344), the pod table, and
host accesses over both links (R346, R347). -/

namespace Sys2Proof.Machine

open Sys2Proof

/-- What an access from outside needs: reading and writing. -/
def extNeeds (k : ExtKind) : Bool × Bool :=
  match k with
  | .read => (true, false)
  | .write _ => (false, true)
  | _ => (true, true)

/-- An atomic from outside with its operands; none for a plain access. -/
def extAtomic (k : ExtKind) : Option (AccKind × Nat × Nat) :=
  match k with
  | .amo op x => some (.amo op, x.toNat, 0)
  | .cas e n => some (.cas, e.toNat, n.toNat)
  | .bnd i b => some (.bnd, i.toNat, b.toNat)
  | _ => none

/-- An access as one event at a physical address: the state, what a read returns and its poison. A poisoned value is left by
an atomic (R222). -/
def extEvent (s : State) (pa n : Nat) (k : ExtKind) (poison : Bool) : State × BitVec 128 × Bool :=
  match extAtomic k, k with
  | some (kind, x, y), _ =>
    let r := readPhys (stampAtomic s pa) pa n {}
    let v := natOfBytes r.2.1
    if r.2.2 then (r.1, BitVec.ofNat 128 v, true)
    else
      match atomicNew kind n v x y with
      | some w => (writePhys r.1 pa (toBytes n (BitVec.ofNat 128 w)) false {}, BitVec.ofNat 128 v, false)
      | none => (r.1, BitVec.ofNat 128 v, false)
  | none, .write d => (writePhys s pa (toBytes n d) poison {}, 0, false)
  | none, _ =>
    let r := readPhys s pa n {}
    (r.1, ofBytes 128 r.2.1, r.2.2)

/-- An access to a flag from outside, of 4 bytes at its address (R20). -/
def extFlag (s : State) (pa : Nat) (k : ExtKind) (poison : Bool) (g : Sig) : State × BitVec 128 × Bool :=
  let f := flagAt pa
  let x := getFlag (getCore s f.1) f.2
  let put := fun (v : PV 32) => onCore s f.1 fun k => setFlag k f.2 v g
  match extAtomic k, k with
  | some (kind, a, b), _ =>
    if x.poison then (s, x.bits.setWidth 128, true)
    else
      match atomicNew kind 4 x.bits.toNat a b with
      | some w => (put { bits := BitVec.ofNat 32 w }, x.bits.setWidth 128, false)
      | none => (s, x.bits.setWidth 128, false)
  | none, .write d => (put { bits := d.setWidth 32, poison := poison }, 0, false)
  | none, _ => (s, x.bits.setWidth 128, x.poison)

/-- The access may be made at its target: an atomic inside one granule, a flag only as a word and by no CAS or AMOBND (R200,
R219). -/
def extFits (pa n : Nat) (k : ExtKind) : Bool :=
  decide (0 < n) && decide (n ≤ 16) && ((extAtomic k).isNone || decide (pa % 16 + n ≤ 16))
    && (!isFlagPage pa || (isFlagWord pa n && match k with
      | .cas _ _ => false
      | .bnd _ _ => false
      | _ => true))

/-- An access from outside to memory that lies outside too: its request goes out, and what a read or an atomic returns is a free
value, with a free mark of poison (R342, R345, R387; assumption 59). -/
def extOutward (s : State) (v pa n : Nat) (k : ExtKind) (poison : Bool) (g : Sig) : State × BitVec 128 × Bool :=
  let x : Nat := match k, extAtomic k with
    | .write d, _ => d.toNat
    | _, some (_, x, _) => x
    | _, none => 0
  let atomic := (extAtomic k).isSome
  let s := outRequest s v { pa := pa, size := n, write := (extNeeds k).2 && !atomic, atomic := atomic, data := BitVec.ofNat 512 x,
                            poison := poison, sig := g }
  if (extNeeds k).1 then
    let r := outsideRead s n
    (r.1, ofBytes 128 r.2.1, r.2.2)
  else (s, 0, false)

/-- The access may be made at a translated address: an atomic goes to no host memory, where it would be no event of the
package, and nothing goes to a package that is down (R219, R344). -/
def extAllowed (s : State) (t : Trans) (n : Nat) (k : ExtKind) : Bool :=
  extFits t.pa n k && !(isOutside s t && isHostMem t.pa && (extAtomic k).isSome) && !targetDown s t.pa

/-- The data of a part of an access, which begins at a byte of it. -/
def extPart (k : ExtKind) (off : Nat) : ExtKind :=
  match k with
  | .write d => .write (d >>> (8 * off))
  | k => k

/-- One event of an access from outside, at its translated address. -/
def extAt (s : State) (v : Nat) (t : Trans) (n : Nat) (k : ExtKind) (poison : Bool) (g : Sig) : State × BitVec 128 × Bool :=
  let s := touchLeaves s t (extNeeds k).2
  if isFlagPage t.pa then extFlag s t.pa k poison g
  else if isOutside s t then extOutward s v t.pa n k poison g
  else extEvent s t.pa n k poison

/-- The access at an intermediate address of a function, or none where it is refused, with nothing written. It is one event
within a sector, else one for each granule, in ascending order (R200; assumption 60). -/
def extAccess (s : State) (v ipa n : Nat) (k : ExtKind) (poison : Bool) (g : Sig) : Option (State × BitVec 128 × Bool) :=
  let need := extNeeds k
  let at_ := fun a : Nat => xlatIpa s v a need.1 need.2 false []
  let parts := eventsOf ipa n
  let ok := fun (p : Nat × Nat) => match at_ p.1 with
    | .ok t => extAllowed s t p.2 k
    | _ => false
  if n = 0 ∨ ¬ parts.all ok then none
  else some (parts.foldl (fun (r : State × BitVec 128 × Bool) p =>
    match at_ p.1 with
    | .ok t =>
      let q := extAt r.1 v t p.2 (extPart k (p.1 - ipa)) poison g
      (q.1, r.2.1 ||| (q.2.1 <<< (8 * (p.1 - ipa))), r.2.2 || q.2.2)
    | _ => r) (s, 0, false))

/-- A part of the access lies in a lost page that is to be repaired from its far mirror first (R389). -/
def extWaits (s : State) (v ipa n : Nat) (k : ExtKind) : Bool :=
  (eventsOf ipa n).any fun p => match xlatIpa s v p.1 (extNeeds k).1 (extNeeds k).2 false [] with
    | .ok t => needsRepair s t.pa
    | _ => false

/-- The level of the stage-2 entry that refuses an access from outside (R334); 0 where none does. -/
def extLevel (s : State) (v ipa n : Nat) (k : ExtKind) : Nat :=
  ((eventsOf ipa n).findSome? fun p =>
    match xlatIpa s v p.1 (extNeeds k).1 (extNeeds k).2 false [] with
    | .ok _ => none
    | .fault _ l => some l
    | .stage2 _ _ l _ => some l).getD 0

/-- An answer to an access from outside. -/
def reply (s : State) (who status : Nat) (d : BitVec 128) (poison : Bool) : State :=
  { s with replies := s.replies ++ [(who, status, d, poison)] }

/-! ### Far requests (R342, R343) -/

/-- Entry `e` of the export table. -/
def getExport (s : State) (e : Nat) : ExportEntry := SMap.get (fun _ => {}) s.exports e

/-- A far request passes the checks of its incarnation, of its source, which must be up, and of its entry (R342, R343, R393). -/
def exportAllows (s : State) (r : FarReq) : Bool :=
  let x := getExport s (r.offset / 2 ^ 29)
  let need := extNeeds r.kind
  r.inc = s.ownInc && (getPod s r.source).up && decide (r.offset / 2 ^ 29 < 512) && x.tkey = r.tkey && (!need.1 || x.r) && (!need.2 || x.w)
    && decide (r.offset % 2 ^ 29 + r.size ≤ x.limit * 65536)

/-- FAR_REQUEST (R343): performed through the exporting function's stage 2, or refused with nothing written. One that meets a
lost page waits for its repair (R389). -/
def execFarRequest (r : FarReq) (s : State) : Out :=
  let x := getExport s (r.offset / 2 ^ 29)
  let ipa := x.base + r.offset % 2 ^ 29
  .next (if !exportAllows s r then reply s r.source 1 0 false
    else if extWaits s x.func ipa r.size r.kind then s
    else
      match extAccess (nextStamp s) x.func ipa r.size r.kind r.poison r.sig with
      | some (s, d, p) => reply s r.source 0 d p
      | none => reply s r.source 1 0 false)

/-- EXPORT_TABLE_WRITE (R343): a function writes only an entry that it owns, or one that allows nothing. -/
def execExportTableWrite (vf e : Nat) (x : ExportEntry) (s : State) : Out :=
  let old := getExport s e
  .next (if e < 512 ∧ ((!old.r && !old.w) ∨ old.func = vf) ∧ 1 ≤ x.limit ∧ x.limit ≤ 8192 then
      { s with exports := SMap.set (fun _ => {}) s.exports e { x with func := vf } }
    else s)

/-! ### The pod table (R342, R344) -/

/-- An entry of the pod table replaced. -/
def setPod (s : State) (p : Nat) (x : PodEntry) : State := { s with pod := SMap.set (fun _ => {}) s.pod p x }

/-- ERROR_LOG_INTERRUPT (R404, R406): PF vector 1, for the classes that firmware has set and at most once per source every
10 µs; for the fault ring, its vector 0, where an entry has raised none yet. -/
def execErrorLogInterrupt (source : Nat) (s : State) : Out :=
  .next (if source = faultSource then (if s.faultDue && !irqRecent s faultSource then raiseFault s else s)
    else if !irqRecent s source
        && s.errLog.any (fun x => decide (logSource x = source) && !x.told && bit s.limits.irqs x.cls) then
      raiseMsix { s with lastIrq := SMap.set (fun _ => none) s.lastIrq source (some s.now),
                         errLog := s.errLog.map fun x => if logSource x = source then { x with told := true } else x } 64 1
    else s)

/-- A package is marked down: every access under way to it is lost at this event, and later ones fault (R344). -/
def markDown (s : State) (pkg : Nat) : State :=
  (List.range 160).foldl (fun s c => loseFar s c pkg) (setPod s pkg { getPod s pkg with up := false })

/-- The port of the route to a package, and the die that has it: six ports to a die (R394, R406; assumption 41). -/
def routePort (s : State) (pkg : Nat) : Nat := SMap.get (fun _ => 0) s.routes pkg

/-- A log entry of a link event at a port (R406). -/
def portEntry (port : Nat) : LogEntry := { cls := 6, die := port / 6, unit := port }

/-- TARGET_DOWN (R344): the target goes down, with an entry in the error log for the port of its route. -/
def execTargetDown (pkg : Nat) (s : State) : Out :=
  .next (if (getPod s pkg).up then logError (markDown s pkg) (portEntry (routePort s pkg)) else s)

/-- TARGET_UP (R344): the target is up with its new incarnation. -/
def execTargetUp (pkg : Nat) (inc : W32) (s : State) : Out :=
  .next (if pkg < 4096 then setPod s pkg { up := true, inc := inc } else s)

/-- POD_TABLE_WRITE (R342, R394): a package's state, incarnation and route. -/
def execPodTableWrite (pkg : Nat) (up : Bool) (inc : W32) (route : Nat) (s : State) : Out :=
  .next (if pkg < 4096 then
      let s := { s with routes := SMap.set (fun _ => 0) s.routes pkg route }
      let s := setPod (if (getPod s pkg).up && !up then markDown s pkg else s) pkg { up := up, inc := inc }
      if pkg = Config.pkg.toNat then { s with ownInc := inc } else s
    else s)

/-- ROUTE_LOSS_TIMEOUT (R394): no route has reached the target for 1 ms, and firmware marks it down. -/
def execRouteLossTimeout (pkg : Nat) (s : State) : Out := execTargetDown pkg s

/-! ### Host accesses (R346, R347) -/

/-- The intermediate address of a host access, with its function: of the function's host window, or of the CXL.mem
range. -/
def hostPlace (s : State) (a : HostAcc) : Option (Nat × Nat) :=
  if a.cxl then
    match s.cxlMem with
    | some (v, base, size) => if a.offset + a.size ≤ size then some (v, base + a.offset) else none
    | none => none
  else
    let x := getFctx s a.vf
    if a.vf < 64 ∧ a.offset + a.size ≤ x.hostwinsize then some (a.vf, x.hostwin + a.offset) else none

/-- The lines that a CXL.mem access leaves in the host's caches (R347). -/
def hostCaches (s : State) (v ipa : Nat) : State :=
  match xlatIpa s v ipa false false false [] with
  | .ok t => { s with hostLines := SMap.set (fun _ => false) s.hostLines (t.pa / 64) true }
  | _ => s

/-- An access of the host to registers: a read returns them, and a write completes, its effect being the event of the package
that the register's rule describes (R346, R405; assumption 72). -/
def barAccess (a : HostAcc) (s : State) : State :=
  if !barAnswers s a.vf then s
  else if barFits a.vf a.offset a.size a.kind then
    reply s (4096 + a.link) 0 (if a.kind = .read then barRead s a.vf a.offset a.size else 0) false
  else reply (hardwareFault s a.vf 0xFF cAccess 0 a.offset 0) (4096 + a.link) 2 0 false

/-- HOST_ACCESS (R346, R347): performed through the function's stage 2, or completed as an unsupported request that the PF
is told of. One that meets a lost page waits for its repair (R389). -/
def execHostAccess (a : HostAcc) (s : State) : Out :=
  let ready := s.power && !s.tripped && s.boot.mode = .ready
    && (getLink s a.link).up && (!a.cxl || (getLink s a.link).cxl)
  let refused := fun (s : State) (v ipa level : Nat) =>
    reply (hardwareFault s v 0xFF cAccess level ipa 0) (4096 + a.link) 2 0 false
  .next (if a.bar0 then (if a.link < 2 ∧ (getLink s a.link).up then barAccess a s else s)
    else if a.link < 2 ∧ ready then
      match hostPlace s a with
      | none => refused s a.vf a.offset 0
      | some (v, ipa) =>
        if extWaits s v ipa a.size a.kind then s
        else
          match extAccess (stampLink s a.link) v ipa a.size a.kind a.poison (hostSig s a.link) with
          | some (s, d, p) => reply (if a.cxl then hostCaches s v ipa else s) (4096 + a.link) 0 d p
          | none => refused s v ipa (extLevel s v ipa a.size a.kind)
    else s)

/-- HOST_SNOOP (R347): the device gives up a host line that it holds, and the host receives its contents. The answer to a
snoop is under the PF, which stands at 64. -/
def execHostSnoop (line : Nat) (s : State) : Out := .next (surrenderLine s 64 line)

end Sys2Proof.Machine
end

