-- ==== Sys2Proof/Machine/Recovery.lean ====
section
/-! DEFINITION. Errors, poison and mirrors (R383 to R391), failed cores (R398), links (R394), resets (R399, R400, R407),
the boot journal (R401 to R403) and firmware's limits (R404). -/

namespace Sys2Proof.Machine

open Sys2Proof

/-! ### Units and counts (R384) -/

/-- The unit of a core's own stores. -/
def coreUnit (c : Nat) : Nat := 256 + c

/-- The unit that holds an error site. -/
def siteUnit (x : ErrSite) : Nat :=
  match x with
  | .mem pa => memUnit pa
  | .cache pa _ none => 1024 + memUnit pa
  | .cache _ _ (some c) => coreUnit c
  | .icache c _ => coreUnit c
  | .stash c _ => coreUnit c
  | .lane c _ _ => coreUnit c
  | .acc c _ _ _ => coreUnit c
  | .sorus c _ _ => coreUnit c
  | .rq c _ => coreUnit c
  | .flag c _ => coreUnit c
  | .coreState c => coreUnit c
  | .flash => 2048

/-- The core whose SRAM holds an error site (R376). -/
def siteCore (x : ErrSite) : Option Nat :=
  match x with
  | .cache _ _ l1 => l1
  | .icache c _ => some c
  | .stash c _ => some c
  | .lane c _ _ => some c
  | .acc c _ _ _ => some c
  | .sorus c _ _ => some c
  | .rq c _ => some c
  | .flag c _ => some c
  | .coreState c => some c
  | _ => none

/-- The log entry of an error at a site, by class (R406; assumption 41): flash is under die 0. -/
def siteEntry (cls : Nat) (x : ErrSite) : LogEntry :=
  match siteCore x, x with
  | some c, .cache pa _ _ => { cls := cls, die := c / 40, unit := c, pa := pa }
  | some c, _ => { cls := cls, die := c / 40, unit := c }
  | none, .mem pa => memEntry cls pa
  | none, .cache pa _ _ => memEntry cls pa
  | none, _ => { cls := cls }

/-- A count raised. -/
def countUnit (m : SMap Nat) (u : Nat) : SMap Nat := SMap.set (fun _ => 0) m u (SMap.get (fun _ => 0) m u + 1)

/-- Where the corrected errors of a page are counted. -/
def pageUnit (fr : Nat) : Nat := 2 ^ 20 + fr

/-- What firmware does at a threshold of corrected errors (R384, R404): it fences a core, disables a stack, or retires a page. -/
inductive Policy where
  | fence (c : Nat)
  | disable (k : Nat)
  | retire (fr : Nat)
deriving DecidableEq, Repr

/-- The thresholds that a count of corrected errors has just reached; 0 is none. -/
def policyOf (s : State) (x : ErrSite) : List Policy :=
  let reached := fun (u t : Nat) => decide (t ≠ 0) && decide (SMap.get (fun _ => 0) s.corrected u = t)
  match siteCore x, x with
  | some c, _ => if reached (coreUnit c) s.limits.coreThr then [.fence c] else []
  | none, .mem pa =>
    (if memUnit pa < 12 && reached (memUnit pa) s.limits.stackThr then [.disable (memUnit pa)] else [])
      ++ if reached (pageUnit (pa / 65536)) s.limits.pageThr then [.retire (pa / 65536)] else []
  | none, _ => []

/-! ### Poison from errors (R385, R388) -/

/-- Some window holds the granule dirty, so that memory's own copy is not the latest (R35). -/
def heldDirty (s : State) (g : Nat) : Bool :=
  s.cores.any fun e => e.2.wins.any fun w => w.dirty.any fun d => decide (d.pa / 64 = g)

/-- The latest value of a granule is lost: it is poisoned with media origin, its bytes are no known value, and no copy stands
dirty in a window any more. -/
def loseGranule (s : State) (g : Nat) : State :=
  let r := outsideRead (recallLine s g none none) 64
  setPz { r.1 with mem := pokeBytes r.1.mem (g * 64) r.2.1 } g { poison := true, media := true }

/-- Memory's own copy of a granule is lost, beneath one that a window holds dirty: the window's value stands, and a drop of it
finds the granule destroyed (R119, R385). -/
def loseBeneath (s : State) (g : Nat) : State :=
  let r := outsideRead s 64
  let hit := fun d : Dirty => if d.pa / 64 = g then { d with old := ofBytes 512 r.2.1, oldPz := { poison := true, media := true } } else d
  eachCore r.1 fun _ k => { k with wins := k.wins.map fun w => { w with dirty := w.dirty.map hit } }

/-- Memory's own copy of a granule is lost. -/
def loseStored (s : State) (g : Nat) : State := if heldDirty s g then loseBeneath s g else loseGranule s g

/-- The function whose pool holds a frame. -/
def poolOwner (s : State) (fr : Nat) : Option Nat :=
  (s.fctx.find? fun e => decide (e.2.poolbase ≤ fr * 65536) && decide (fr * 65536 < e.2.poolbase + e.2.poolpages * 65536)).map
    fun e => e.1

/-- A granule of a lost page. -/
def markLost (s : State) (g : Nat) : State :=
  if heldDirty s g then loseBeneath s g else setPz s g { poison := true, media := true }

/-- A pool page is lost as a whole: every granule is poisoned with media origin (R388). -/
def losePage (s : State) (fr : Nat) : State :=
  let s := (List.range 1024).foldl (fun (s : State) i => markLost s (fr * 1024 + i)) s
  { s with lost := SMap.set (fun _ => false) s.lost fr true }

/-- The report of an uncorrectable error of memory. A pool page is lost, unless its frame has a mirror, from which the granule is
restored when it is next met (R388, R389). -/
def reportLoss (s : State) (pa : Nat) : State :=
  match (poolOwner s (pa / 65536)).filter fun _ => (mirrorOf s (pa / 65536)).isNone with
  | some v => logError (losePage s (pa / 65536)) { memEntry 3 pa with pa := pa / 65536 * 65536, vf := v }
  | none => logError s { memEntry 2 pa with pa := pa / 64 * 64 }

/-- The latest value of a granule of memory is lost. -/
def loseMemory (s : State) (pa : Nat) : State := reportLoss (loseGranule s (pa / 64)) pa

/-- The granules of memory behind a stash granule that a window has filled (R35). -/
def behindStash (s : State) (c g : Nat) : List Nat :=
  let k := getCore s c
  match winAt k (g * 64) with
  | none => []
  | some i =>
    let w := k.wins.getD i {}
    if !w.filled.contains g then []
    else
      let o := winOpd s c w.asid w
      let b : By := { c := c, x := { cmd := { asid := w.asid } }, port := 0 }
      ((List.range 64).flatMap fun n =>
        match winByte o (g * 64 + n - stashStart w.desc) with
        | .parts l _ => l.filterMap fun p =>
          match placeSpace p.1 p.2.1 with
          | some (sp, a) =>
            match elemTarget s b 0 false sp a 1 (placeNib p.1) with
            | .ok (_, pa) => some (pa / 64)
            | .error _ => none
          | none => none
        | _ => []).eraseDups

/-- A dirty granule of a window that the stash holds. -/
def dirtyBehind (k : Core) (g : Nat) : List Nat :=
  (k.wins.flatMap fun w => (w.dirty.filter fun d => decide (d.off = g)).map fun d => d.pa / 64).eraseDups

/-- A log entry of an error in a core. -/
def logCore (s : State) (c : Nat) : State := logError s { cls := 2, die := c / 40, unit := c, vf := vmid (getCore s c) }

/-- The log entry of a part that is disabled, by its boot step: a die, a stack, the LPDDR, a port, a team by its first core, or a
host link (R403, R406; assumption 41). -/
def partEntry (n : Nat) : LogEntry :=
  if 2 ≤ n ∧ n ≤ 4 then { cls := 7, die := n - 1 }
  else if 5 ≤ n ∧ n ≤ 16 then { cls := 7, die := (n - 5) / 3, unit := n - 5 }
  else if n = 18 then { cls := 7, unit := 12 }
  else if 19 ≤ n ∧ n ≤ 22 then { cls := 7, die := n - 19, unit := n - 19 }
  else if 23 ≤ n ∧ n ≤ 46 then { cls := 7, die := (n - 23) / 6, unit := n - 23 }
  else if 47 ≤ n ∧ n ≤ 66 then { cls := 7, die := (n - 47) / 5, unit := 8 * (n - 47) }
  else { cls := 7, unit := n - 67 }

/-! ### Failed cores (R398) -/

/-- What the core held exclusively is lost: granules of its L1, and dirty granules of its windows. -/
def loseHeld (s : State) (c : Nat) : State :=
  let k := getCore s c
  let l := (k.l1x.map fun e => e.1) ++ k.wins.flatMap fun w => w.dirty.map fun d => d.pa / 64
  l.eraseDups.foldl (fun (s : State) g => loseMemory s (g * 64)) s

/-- The journal slot of a core is settled (R398): a completion as cancelled or FAILED, or a reissue at the head of the
queue. A reissue that finds no room waits outside the queue (R369). -/
def settleJournal (s : State) (c : Nat) : State :=
  let j := (getCore s c).journal
  let v := (getCore s c).run.vf
  if j.phase ≠ .running then s
  else
    let tag := getTag s (recTag j.record)
    let mark := fun (s : State) p => onCore s c fun k => { k with journal := { k.journal with phase := p } }
    if tagLive tag ∧ recIdem j.record then
      let r := setCtx j.record 0
      mark (match pushHead s j.queue r {} with
        | some s => s
        | none => { s with held := s.held ++ [{ record := r, queue := j.queue, vf := v }] }) .empty
    else mark (completeFailed s v c j.record) .done

/-- The run of a core that fails, or that a warm reset stops, is discarded: rules, holds, feeds and barriers. Its saved
context, if it had not been restored, goes too. `lose` says that what it held exclusively is lost. -/
def dropCore (s : State) (c : Nat) (lose : Bool) : State :=
  let k := getCore s c
  let s := if lose then loseHeld s c else onCore s c cleanWindows
  if k.phase = .idle then s
  else
    let s := if k.phase = .starting then dropContext s k.run.record else s
    let s := dropClaims s c
    let s := dropRules s c
    endRun (breakBarriers s c (vmid k)) c

/-- A core is fenced, and within its bound everything that R398 lists is done. -/
def failCore (s : State) (c : Nat) (lose : Bool) : State :=
  let s := dropCore s c lose
  let s := settleJournal s c
  onCore s c fun k => { k with fenced := true, l1x := [], wins := [] }

/-- CORE_FAILURE (R398). -/
def execCoreFailure (c : Nat) (s : State) : Out :=
  .next (if c < 160 ∧ !(getCore s c).fenced then
      logError (failCore s c true) { cls := 5, die := c / 40, unit := c }
    else s)

/-- CORE_FENCE (R398, R407): a management request fences a core, and its journal is settled. -/
def execCoreFence (c : Nat) (s : State) : Out :=
  .next (if c < 160 ∧ !(getCore s c).fenced then failCore s c true else s)

/-- A core as it stands after a reset: its stamp and logical time go on, and the boot's fences stay (R20, R317, R399). -/
def freshCore (s : State) (fence : Bool) (k : Core) : Core :=
  { hlc := maxW k.hlc (phys s), ltime := k.ltime, fenced := fence }

/-- CORE_RELEASE (R398, R407): firmware has tested the core. It is no reset: the stage of the record that it last popped, and
the queues it popped from, stand (R249). One whose team is disabled stays fenced (R403). -/
def execCoreRelease (c : Nat) (s : State) : Out :=
  .next (if c < 160 ∧ (getCore s c).fenced ∧ !partOff s (47 + c / 8) ∧ !(decide (40 ≤ c) && partOff s (1 + c / 40)) then
      onCore s c fun k =>
        { freshCore s false k with journal := k.journal, far := k.far, farSeq := k.farSeq, stage := k.stage, rr := k.rr }
    else s)

/-! ### Corrected errors (R383, R384) -/

/-- What firmware does at a threshold (R404; assumption 41): a fenced core is settled as R398 states, a disabled stack is absent
from then on (R324, R403), and a retired page is handed out no more (R391). -/
def applyPolicy (s : State) (p : Policy) : State :=
  match p with
  | .fence c => if (getCore s c).fenced then s else failCore s c true
  | .disable k =>
    logError { s with boot := { s.boot with disabled := SMap.set (fun _ => false) s.boot.disabled (5 + k) true } } (partEntry (5 + k))
  | .retire fr => { s with quarantine := SMap.set (fun _ => false) s.quarantine fr true }

/-- CORRECTED_ERROR (R383, R384): no value changes; the unit's count rises, that of the page, and the core's counter 69. At a
threshold of firmware's the error is logged and firmware acts. -/
def execCorrectedError (site : ErrSite) (s : State) : Out :=
  let s := { s with corrected := countUnit s.corrected (siteUnit site) }
  let s := match site with
    | .mem pa => { s with corrected := countUnit s.corrected (pageUnit (pa / 65536)) }
    | _ => s
  let s := match siteCore site with
    | some c => onCore s c fun k => bump k 69 1
    | none => s
  let l := policyOf s site
  .next (l.foldl applyPolicy (if l.isEmpty then s else logError s (siteEntry 1 site)))

/-! ### Uncorrectable errors (R383) -/

/-- UNCORRECTABLE_ERROR (R383 to R385, R388): what is lost is poisoned, refetched or invalidated as the structure's row
says, and each error is logged. -/
def execUncorrectableError (site : ErrSite) (s : State) : Out :=
  let s := { s with uncorrected := countUnit s.uncorrected (siteUnit site) }
  .next (match site with
    | .mem pa => if isPackageMem s pa then reportLoss (loseStored s (pa / 64)) pa else s
    | .cache pa dirty l1 =>
      if dirty && isPackageMem s pa then loseMemory s pa
      else logError s { siteEntry 2 (.cache pa dirty l1) with pa := pa / 64 * 64 }
    | .icache c pa =>
      logCore (onCore s c fun k => { k with icache := k.icache.filter fun e => decide (e.1 / 2 ≠ pa / 64) }) c
    | .stash c off =>
      let g := off / 64
      let behind := behindStash s c g ++ dirtyBehind (getCore s c) g
      let s := onCore s c fun k => { k with stashPoison := SMap.set (fun _ => false) k.stashPoison g true,
                                            stashMedia := SMap.set (fun _ => false) k.stashMedia g true }
      behind.eraseDups.foldl (fun (s : State) g => loseMemory s (g * 64)) (logCore s c)
    | .lane c reg lane =>
      logCore (onCore s c fun k =>
        let x := SMap.get (fun _ => ({} : PV 32)) k.eng.v (64 * reg + lane)
        { k with eng := { k.eng with v := SMap.set (fun _ => ({} : PV 32)) k.eng.v (64 * reg + lane) { x with poison := true } } }) c
    | .acc c tile i j =>
      logCore (onCore s c fun k =>
        let n := 8192 * tile + 64 * i + j
        let x := SMap.get (fun _ => ({} : PV 32)) k.eng.acc n
        { k with eng := { k.eng with acc := SMap.set (fun _ => ({} : PV 32)) k.eng.acc n { x with poison := true } } }) c
    | .sorus c entry i =>
      logCore (onCore s c fun k =>
        let b := k.eng.sorus
        let n := 256 * entry + i
        let x := SMap.get (fun _ => ({} : PV 32)) b.sum n
        { k with eng := { k.eng with sorus := { b with sum := SMap.set (fun _ => ({} : PV 32)) b.sum n { x with poison := true } } } }) c
    | .rq c i =>
      logCore (onCore s c fun k =>
        match k.rq[i]? with
        | some e => { k with rq := k.rq.set i { e with val := { e.val with poison := true } } }
        | none => k) c
    | .flag c n =>
      logCore (onCore s c fun k =>
        { k with f := SMap.set (fun _ => ({} : PV 32)) k.f n { getFlag k n with poison := true } }) c
    | .coreState c =>
      if c < 160 ∧ !(getCore s c).fenced then logError (failCore s c true) { cls := 5, die := c / 40, unit := c } else s
    | .flash => logError { s with boot := { s.boot with imageB := true } } (siteEntry 2 .flash))

/-- SCRUB (R384, R389): the scrub of a unit meets every error that stands in it; a frame with a mirror is restored. -/
def execScrub (unit : Nat) (s : State) : Out :=
  let bad := (s.poison.filter fun e => e.2.media && decide (memUnit (e.1 * 64) = unit)).map fun e => e.1
  .next (bad.foldl repairGranule s)

/-- MIRROR_REPAIR (R389): lost data are restored, from the frame's mirror, or for a lost pool page from the far mirror that
its link names, whose contents come as the operand. A repair that cannot complete leaves the data poisoned. -/
def execMirrorRepair (granule : Nat) (data : Option MirrorData) (s : State) : Out :=
  let fr := granule / 1024
  let z := getPz s granule
  .next (if !(z.poison && z.media) then s
    else
      match mirrorOf s fr with
      | some _ => repairGranule s granule
      | none =>
        if !isLost s fr then s
        else
          match linkOf s fr, data with
          | some l, some d =>
            if !(getPod s (farTarget l.pa)).up ∨ (getPod s (farTarget l.pa)).inc ≠ l.inc then s
            else
              let s := freshPz { s with mem := pokeBytes s.mem (granule * 64) (toBytes 64 d.data) } granule d.poison
              if isLost s fr then s else logError s { repairEntry granule with pa := fr * 65536 }
          | some _, none => { s with links := SMap.set (fun _ => none) s.links fr none }
          | none, _ => s)

/-- QUARANTINE_RELEASE (R391): firmware has tested the page, by frame, and returns it to its pool; one that was retired while in
use goes on being used. -/
def execQuarantineRelease (page : Nat) (s : State) : Out :=
  let s' := { s with quarantine := SMap.set (fun _ => false) s.quarantine page false,
                     corrected := SMap.set (fun _ => 0) s.corrected (pageUnit page) 0 }
  .next (if !SMap.get (fun _ => false) s.quarantine page then s
    else if getRef s (page * 65536) ≠ 0 || SMap.get (fun _ => false) s.savePages page then s'
    else { s' with lost := SMap.set (fun _ => false) s.lost page false,
                   poison := s.poison.filter fun e => decide (e.1 / 1024 ≠ page) })

/-- MIRROR_REGISTRATION (R389): a frame's mirror lies in another HBM stack or in the second tier of the package. The mirror
takes the frame's contents as it is registered (assumption 25). -/
def execMirrorRegistration (frame mirror : Nat) (s : State) : Out :=
  let a := frame * 65536
  let b := mirror * 65536
  .next (if isPackageMem s a ∧ isPackageMem s b ∧ memUnit a ≠ memUnit b then
      { copyFrame s frame mirror with mirrors := SMap.set (fun _ => none) s.mirrors frame (some mirror) }
    else s)

/-! ### Links (R394) -/

/-- FLIT_REPLAY (R394): a replay changes time only. -/
def execFlitReplay (_ : Nat) (s : State) : Out := .next s

/-- PORT_LANE_LOSS (R394): the port goes on with 4 lanes, or fails and its traffic moves to other ports. -/
def execPortLaneLoss (port : Nat) (failed : Bool) (s : State) : Out :=
  let p := SMap.get (fun _ => ({} : Port)) s.ports port
  let q : Port := if failed then { p with failed := true } else { p with lanes := 4 }
  .next (logError { s with ports := SMap.set (fun _ => ({} : Port)) s.ports port q } (portEntry port))

/-- DIE_BOUNDARY_ERROR (R394): the package requests a warm reset. -/
def execDieBoundaryError (boundary : Nat) (s : State) : Out :=
  .next (logError { s with warmReq := true } { cls := 6, die := boundary, unit := boundary })

/-- EXPANDER_FAILURE (R348): it is reported, and its frames fault from then on. -/
def execExpanderFailure (port : Nat) (s : State) : Out :=
  .next (if port < 4 then
      logError { s with expanders := SMap.set (fun _ => 0) s.expanders port 0 } (partEntry (19 + port))
    else s)

/-! ### Resets (R399, R400, R407) -/

/-- The latest stamp that is kept (R317, R399; assumption 39): of the cores and the host links, and no earlier than the clock. -/
def keptStamp (s : State) : W64 :=
  (s.hostLinks.map fun e => e.2.hlc).foldl maxW ((s.cores.map fun e => e.2.hlc).foldl maxW (phys s))

/-- A boot journal entry is appended, with the stamp that is kept, or the tick count where none is yet (R401). -/
def bootEntry (s : State) (step kind : Nat) : State :=
  let stamp := if s.boot.kept then keptStamp s else BitVec.ofNat 64 (tickOf s.now)
  { s with boot := { s.boot with
      journal := s.boot.journal ++ [{ step := step, kind := kind, boot := s.boot.number, stamp := stamp }] } }

/-- A boot begins (R402): the device reports itself not ready until step 70. -/
def beginBoot (b : Boot) (kept : Bool) : Boot := { b with mode := .notReady, step := 0, number := b.number + 1, kept := kept }

/-- A core at a warm reset: it stops at a boundary with its dirty data written back, or, late, as a failed core; its
journal slot is settled (R399). -/
def resetCore (late : List Nat) (s : State) (c : Nat) : State :=
  let s := settleJournal (dropCore s c (late.contains c)) c
  onCore s c fun k => { freshCore s k.fenced k with journal := k.journal }

/-- A submission queue after a warm reset: a FENCE is evaluated afresh, and every other packet goes on where it stood
(R400). -/
def resumeSQ (x : SubQ) : SubQ := if x.st = .wait then { x with st := .run, conds := none } else x

/-- WARM_RESET (R399): `late` lists the cores whose quiesce had not finished. Memory, queues, tags, tensors, journals and
logs are kept; the PF enables the functions again after the boot (R407). -/
def execWarmReset (late : List Nat) (s : State) : Out :=
  .next (if !s.power || s.tripped then s
    else
      let s := (List.range 160).foldl (resetCore late) s
      let s := breakAll (settleHeld s)
      let s := (s.devHost.map fun e => e.1).foldl (fun s g => surrenderLine s 64 g) s
      { s with ownInc := s.ownInc + 1, warmReq := false, podWaits := [], hostLines := [],
               boot := beginBoot s.boot true,
               fctx := s.fctx.map fun e => (e.1, { e.2 with enabled := false }),
               sqs := s.sqs.map fun e => (e.1, resumeSQ e.2),
               conts := s.conts.map fun x => { x with core := none } })

/-- The package with nothing kept: flash, the measurement registers and the clock go on, and every stamp is the clock's
(R317, R349, R401, R407). -/
def coldState (s : State) : State :=
  let t : State := { boot := beginBoot s.boot false, meas := s.meas, now := s.now, free := s.free, ownInc := s.ownInc + 1,
                     agenda := s.agenda, cur := s.cur, power := s.power }
  let t := (List.range 160).foldl (fun (t : State) c => onCore t c fun k => { k with hlc := phys s }) t
  let link : HostLink := { cxl := false, hlc := phys s, up := false }
  [0, 1].foldl (fun (t : State) l => { t with hostLinks := SMap.set (fun _ => ({} : HostLink)) t.hostLinks l link }) t

/-- COLD_RESET (R407): nothing is kept, and the boot restarts. -/
def execColdReset (s : State) : Out := .next (if s.power then coldState s else s)

/-- POWER_ON (R349): the measurement registers are reset, and the boot begins. -/
def execPowerOn (s : State) : Out := .next (if s.power then s else { coldState s with power := true, meas := [] })

/-- POWER_LOSS (R382): the package stops, and the hosts see the links go down. -/
def execPowerLoss (s : State) : Out := .next { coldState s with power := false }

/-- THERMAL_TRIP (R404): the package stops until a cold reset. -/
def execThermalTrip (s : State) : Out := .next (logError { s with tripped := true } { cls := 8 })

/-! ### The boot (R401 to R403) -/

/-- STARTs of a step since its last DONE, from the journal read backwards. -/
def startsOf (step : Nat) : List BootEntry → Nat
  | [] => 0
  | e :: l => if e.step ≠ step then startsOf step l else if e.kind = 2 then 0 else startsOf step l + (decide (e.kind = 1)).toNat

/-- The step has an alternative that disables a part (R403). -/
def hasAlternative (n : Nat) : Bool :=
  (decide (2 ≤ n) && decide (n ≤ 16)) || (decide (18 ≤ n) && decide (n ≤ 66)) || n = 68 || n = 69

/-- The image that a step starts is measured: m := SHAKE256(m ‖ digest) (R349); the register of step `n` is `n`. -/
def measure (s : State) (n : Nat) : State :=
  let m := SMap.get (fun _ => (0 : W512)) s.meas n
  let m' := Config.shake256 (toBytes 64 m ++ toBytes 64 (Config.imageDigest n s.boot.imageB))
  { s with meas := SMap.set (fun _ => 0) s.meas n m' }

/-- The cores of a range are fenced. -/
def fenceCores (s : State) (a n : Nat) : State :=
  (List.range n).foldl (fun (s : State) i => onCore s (a + i) fun k => { k with fenced := true }) s

/-- What is lost with a part that is disabled (R403). -/
def partLost (s : State) (n : Nat) : State :=
  if 2 ≤ n ∧ n ≤ 4 then fenceCores s (40 * (n - 1)) 40
  else if 47 ≤ n ∧ n ≤ 66 then fenceCores s (8 * (n - 47)) 8
  else if 23 ≤ n ∧ n ≤ 46 then
    { s with ports := SMap.set (fun _ => ({} : Port)) s.ports (n - 23) { lanes := 8, failed := true } }
  else if n = 68 then
    let link : HostLink := { SMap.get (fun _ => ({} : HostLink)) s.hostLinks 1 with up := false }
    { s with hostLinks := SMap.set (fun _ => ({} : HostLink)) s.hostLinks 1 link }
  else s

/-- What a step that succeeds brings up. -/
def stepDone (s : State) (n : Nat) : State :=
  if n ≤ 4 then measure s n
  else if 19 ≤ n ∧ n ≤ 22 then
    { s with expanders := SMap.set (fun _ => 0) s.expanders (n - 19) (min (Config.expander (n - 19)) (1536 * 10 ^ 9)) }
  else if 23 ≤ n ∧ n ≤ 46 then { s with ports := SMap.set (fun _ => ({} : Port)) s.ports (n - 23) {} }
  else if n = 67 ∨ n = 68 then
    let was := SMap.get (fun _ => ({} : HostLink)) s.hostLinks (n - 67)
    let link : HostLink := { was with up := true, cxl := Config.linkCxl (n - 67) }
    { s with hostLinks := SMap.set (fun _ => ({} : HostLink)) s.hostLinks (n - 67) link }
  else if n = 70 then { s with boot := { s.boot with mode := .ready } }
  else s

/-- A part that is to be attempted again is disabled no longer, and its earlier STARTs count no more (R402). -/
def takeRetry (s : State) (n : Nat) : State :=
  if SMap.get (fun _ => false) s.boot.retry n then
    { s with boot := { s.boot with disabled := SMap.set (fun _ => false) s.boot.disabled n false,
                                   retry := SMap.set (fun _ => false) s.boot.retry n false,
                                   since := SMap.set (fun _ => 0) s.boot.since n s.boot.journal.length } }
  else s

/-- The STARTs of a step since its last DONE, and since it was last re-enabled. -/
def bootStarts (s : State) (n : Nat) : Nat := startsOf n (s.boot.journal.drop (SMap.get (fun _ => 0) s.boot.since n)).reverse

/-- The boot goes on with the next step. -/
def nextBoot (s : State) : State := { s with boot := { s.boot with step := s.boot.step + 1 } }

/-- The alternative of a step (R403): the other image, the part disabled and remembered in flash, or the kept state
discarded as at a cold reset, which is reported. -/
def alternative (s : State) (n : Nat) (ok : Bool) : State :=
  let s := bootEntry s n 3
  if n = 0 ∧ ok ∧ !s.boot.imageB then
    nextBoot (bootEntry (measure { s with boot := { s.boot with imageB := true } } 0) 0 2)
  else if n = 69 then
    let t := { coldState s with boot := { s.boot with kept := false }, hostLinks := s.hostLinks, ports := s.ports,
                                expanders := s.expanders, ownInc := s.ownInc }
    let t := (List.range 160).foldl (fun (t : State) c => onCore t c fun k => { k with fenced := (getCore s c).fenced }) t
    nextBoot (logError t (partEntry 69))
  else if hasAlternative n then
    let s := { s with boot := { s.boot with disabled := SMap.set (fun _ => false) s.boot.disabled n true } }
    nextBoot (logError (partLost s n) (partEntry n))
  else { s with boot := { s.boot with mode := .recovery } }

/-- BOOT_STEP (R402, R403): the next step of the boot. A disabled part is skipped; a step with two STARTs since its last
DONE takes its alternative; else START is appended, and DONE if it succeeds. With no alternative the boot halts in
recovery mode. -/
def execBootStep (ok : Bool) (s : State) : Out :=
  let n := s.boot.step
  .next (if !s.power || s.tripped || s.boot.mode ≠ .notReady || decide (70 < n) then s
    else
      let s := takeRetry s n
      if partOff s n then nextBoot (partLost (bootEntry s n 4) n)
      else if 2 ≤ bootStarts s n then alternative s n ok
      else
        let s := bootEntry s n 1
        if ok then nextBoot (bootEntry (stepDone s n) n 2) else s)

/-- REENABLING (R402): a disabled part, named by its boot step, is attempted again at the next boot; of step 0, image A is. -/
def execReenabling (part : Nat) (s : State) : Out :=
  .next { s with boot := { s.boot with retry := SMap.set (fun _ => false) s.boot.retry part true,
                                       imageB := s.boot.imageB && decide (part ≠ 0) } }

/-- LIMITS_WRITE (R404): firmware sets policy within the hardware's limits; a value beyond them is not taken. -/
def execLimitsWrite (l : LimitArg) (s : State) : Out :=
  let m := s.limits
  .next (match l with
    | .power w => if w ≤ 2800 then { s with limits := { m with power := w } } else s
    | .throttle t => if t ≤ 110 then { s with limits := { m with throttle := t } } else s
    | .ageLimit n => { s with limits := { m with agelimit := n } }
    | .coreThreshold n => { s with limits := { m with coreThr := n } }
    | .stackThreshold n => { s with limits := { m with stackThr := n } }
    | .pageThreshold n => { s with limits := { m with pageThr := n } }
    | .interrupts b => { s with limits := { m with irqs := b } })

end Sys2Proof.Machine
end

