-- ==== Sys2Proof/Machine/Time.lean ====
section
/-! DEFINITION. The passing of cycles: path values (R311), performance counters (R321, R376), waits and timeouts, the
deadlock timer (R32), precise stops (R322), the power clamp (R14) and logical time (R214, R215). -/

namespace Sys2Proof.Machine

open Sys2Proof

/-- The control core stands in a recorded wait (R310). -/
def recordedWait (k : Core) : Bool :=
  match k.stall with
  | .header => true
  | .queue _ => true
  | .rq _ => true
  | _ =>
    match k.buf with
    | b :: _ => b.began && match b.ev with
      | .waitf _ _ _ _ _ _ => true
      | .drain _ => true
      | .bar _ _ _ arrived _ => arrived.isSome
      | _ => false
    | [] => false

/-- The control core stands in a stall of another kind. -/
def otherStall (k : Core) : Bool := k.stall = .other || k.buf.any fun b => b.holds

/-- An entry that has been tried and waits grows older by `dt` cycles. -/
def ageItem (dt : Nat) (b : BufItem) : BufItem :=
  if !b.began then b
  else
    let b := { b with waited := b.waited + dt }
    match b.ev with
    | .waitf n cond v t dst e => { b with ev := .waitf n cond v t dst (e + dt) }
    | _ => b

/-- An agent's path grows by `dt`, saturating (R311). -/
def growPath (k : Core) (a dt : Nat) : Core :=
  let p := getPath k a
  setPath k a { p with path := min pathMax (p.path + dt) }

/-- The control core is frozen by a trap entry or a pre-emption, or held at stage 2 (R311, R336). -/
def controlFrozen (k : Core) : Bool := entryWaits k || k.save.isSome || k.s2fault.isSome

/-- Cycles of the control core: those with the engines frozen in a handler are counted in every case (R376). -/
def ageControl (dt : Nat) (k : Core) : Core :=
  let k := if enginesFrozen k then bump k 67 dt else k
  if controlFrozen k then k
  else
    let k := bump k 0 dt
    let k := if recordedWait k then bump k 2 dt
      else growPath (if otherStall k then bump k 3 dt else k) 0 dt
    { k with waited := if k.stall = .none then k.waited else k.waited + dt, sliceTime := k.sliceTime + dt,
             buf := match k.buf with
               | b :: l => ageItem dt b :: l
               | [] => [] }

/-- A firing of CPYIDX waits on an empty RQ (R234, R310). -/
def awaitsRq (now : Nat) (k : Core) (x : Active) : Bool := waitsEntry x && rqEmpty now k

/-- Cycles of an engine up to cycle `now`: its path and busy count, and the hold of its head or of a firing of CPYIDX (R310,
R311). -/
def ageEngine (now dt : Nat) (k : Core) (q : Nat) : Core :=
  let e := getEng k q
  let refused := headRefused now k q
  let head := headMayIssue k q && !refused.isEmpty
  let held := head || e.active.any (awaitsRq now k)
  let k := if e.active.isEmpty then k else
    let k := bump k (4 + q) dt
    if held then k else growPath k (q + 1) dt
  let e := { e with active := e.active.map fun x => if awaitsRq now k x then { x with waited := x.waited + dt } else x }
  if head then setEng k q { e with waited := e.waited + dt, refused := (e.refused ++ refused).eraseDups }
  else if held then setEng k q e
  else k

/-- Cycles of a channel. -/
def ageChan (dt : Nat) (k : Core) (h : Nat) : Core := if (getChan k h).isEmpty then k else growPath k (8 + h) dt

/-- The engine of a queue is held on a refused give, of a copy in its channel too, or its oldest command on a full RQ: what has
issued behind goes no further than that (R31, R33). -/
def engineDead (k : Core) (q : Nat) : Bool :=
  givesHeld k q || ((getEng k q).active.find? fun a => a.rule.isNone).any (rqBlocked k)

/-- A queue is in one of the two conditions of R32: it is empty, and its engine at rest, or its head or its engine is
held on a refused take, for which a CPYIDX's wait on an empty RQ counts (R234), a refused give or a full RQ. -/
def queueDead (now : Nat) (k : Core) (q : Nat) : Bool :=
  let e := getEng k q
  e.again.isEmpty && (engineDead k q || e.active.isEmpty && (e.queue.isEmpty || !(headRefused now k q).isEmpty))

/-- The control core is stalled as R32 counts it: on a full queue, an empty RQ, or step 1 of a window instruction
(R119). -/
def stalledHard (k : Core) : Bool :=
  match k.stall with
  | .queue _ => true
  | .rq _ => true
  | _ =>
    match k.buf with
    | b :: _ => b.began && match b.ev with
      | .sflush _ _ => true
      | .sdrop _ off => off.isNone
      | _ => false
    | [] => false

/-- Both conditions of R32 hold, and no firing is pending or in progress. The head copy of no channel is still at work: it could
give a token. -/
def deadlocked (s : State) (c : Nat) (k : Core) : Bool :=
  stalledHard k && ((List.range 6).all (queueDead (s.now + 1) k)) && (k.chans.all fun e => (e.2.take 1).all fun a => a.retiring)
    && (List.range 32).all fun n => !eligible s c n && !firingOf k n

/-- Cycles for which a core runs before its precise stop, of `dt` (R322). -/
def untilStop (k : Core) (dt : Nat) : Nat :=
  match k.stop with
  | some n => if (getCounter k 0).toNat ≤ n then min dt (n - (getCounter k 0).toNat) else dt
  | none => dt

/-- A core whose counter has reached its precise stop freezes (R322). -/
def reachStop (k : Core) : Core :=
  if k.stop = some (getCounter k 0).toNat then { k with frozen := true } else k

/-- `dt` cycles pass on a core; the pops that may complete then do. -/
def ageCore (s : State) (c dt : Nat) (k : Core) : Core :=
  if k.frozen || k.fenced then k
  else
    match k.phase with
    | .idle => { k with waited := k.waited + dt }
    | .starting => k
    | _ =>
      let n := untilStop k dt
      let dead := deadlocked s c k
      let k := ageControl n k
      let k := (List.range 6).foldl (ageEngine (s.now + n) n) k
      let k := (List.range 8).foldl (ageChan n) k
      let k := { k with deadlock := if dead then k.deadlock + n else 0, clamp := k.clamp - n }
      serveAll (s.now + n) (reachStop k)

/-- `dt` cycles of the arithmetic clock pass (R10). -/
def advance (s : State) (dt : Nat) : State :=
  if dt = 0 then s
  else
    let s := (List.range 160).foldl (fun (s : State) c => onCore s c (ageCore s c dt)) s
    { s with now := s.now + dt }

/-! ### Events of time -/

/-- PRECISE_STOP_ARM (R322): a stop at a cycle already passed is never taken. -/
def execPreciseStopArm (c cycle : Nat) (s : State) : Out :=
  .next (if (getCounter (getCore s c) 0).toNat ≤ cycle then onCore s c fun k => { k with stop := some cycle } else s)

/-- PRECISE_STOP (R322): at the edge where counter 0 reaches the armed cycle every agent of the core freezes. -/
def execPreciseStop (c : Nat) (s : State) : Out :=
  .next (if (getCore s c).phase = .idle then s else onCore s c reachStop)

/-- PRECISE_STOP_RELEASE (R322): the core continues from the same edge. -/
def execPreciseStopRelease (c : Nat) (s : State) : Out :=
  .next (if (getCore s c).frozen then onCore s c fun k => { k with frozen := false, stop := none } else s)

/-- POWER_CLAMP (R14): issue positions are withheld from the matrix and vector engines; no result changes. -/
def execPowerClamp (c positions : Nat) (s : State) : Out :=
  .next (onCore s c fun k => { bump k 18 positions with clamp := k.clamp + positions })

/-- LOGICAL_TIME_REBASE (R215): every logical time is lowered by one amount. An idle core's time has advanced at least
that far first (R214). -/
def execLogicalTimeRebase (amount : Nat) (s : State) : Out :=
  .next (if amount ≤ s.ltime then rebaseTimes amount s else s)

end Sys2Proof.Machine
end

