-- ==== Sys2Proof/Machine/Dispatch.lean ====
section
/-! DEFINITION. One arm per constructor: each a direct call of the instruction's meaning. -/

namespace Sys2Proof.Machine

open Sys2Proof

/-- What an instruction does. -/
def exec (i : Instr) (s : State) : Host.Outcome State Fault Refusal :=
  match i with
  | .nop raw => Sys2Proof.Machine.execNop raw s
  | .add f o => Sys2Proof.Machine.execAdd f o s
  | .sub f o => Sys2Proof.Machine.execSub f o s
  | .mul f o => Sys2Proof.Machine.execMul f o s
  | .mulh f o => Sys2Proof.Machine.execMulh f o s
  | .div f o => Sys2Proof.Machine.execDiv f o s
  | .rem f o => Sys2Proof.Machine.execRem f o s
  | .and f o => Sys2Proof.Machine.execAnd f o s
  | .or f o => Sys2Proof.Machine.execOr f o s
  | .xor f o => Sys2Proof.Machine.execXor f o s
  | .andn f o => Sys2Proof.Machine.execAndn f o s
  | .shl f o => Sys2Proof.Machine.execShl f o s
  | .shr f o => Sys2Proof.Machine.execShr f o s
  | .sra f o => Sys2Proof.Machine.execSra f o s
  | .ror f o => Sys2Proof.Machine.execRor f o s
  | .min f o => Sys2Proof.Machine.execMin f o s
  | .max f o => Sys2Proof.Machine.execMax f o s
  | .clz f o => Sys2Proof.Machine.execClz f o s
  | .ctz f o => Sys2Proof.Machine.execCtz f o s
  | .popc f o => Sys2Proof.Machine.execPopc f o s
  | .brev f o => Sys2Proof.Machine.execBrev f o s
  | .bswap f o => Sys2Proof.Machine.execBswap f o s
  | .sel f o => Sys2Proof.Machine.execSel f o s
  | .setc f o => Sys2Proof.Machine.execSetc f o s
  | .cmp f o => Sys2Proof.Machine.execCmp f o s
  | .pand f o => Sys2Proof.Machine.execPand f o s
  | .por f o => Sys2Proof.Machine.execPor f o s
  | .pxor f o => Sys2Proof.Machine.execPxor f o s
  | .pnot f o => Sys2Proof.Machine.execPnot f o s
  | .addi f o => Sys2Proof.Machine.execAddi f o s
  | .andi f o => Sys2Proof.Machine.execAndi f o s
  | .ori f o => Sys2Proof.Machine.execOri f o s
  | .xori f o => Sys2Proof.Machine.execXori f o s
  | .shli f o => Sys2Proof.Machine.execShli f o s
  | .shri f o => Sys2Proof.Machine.execShri f o s
  | .srai f o => Sys2Proof.Machine.execSrai f o s
  | .li f o => Sys2Proof.Machine.execLi f o s
  | .lih f o => Sys2Proof.Machine.execLih f o s
  | .lea f o => Sys2Proof.Machine.execLea f o s
  | .ld f o => Sys2Proof.Machine.execLd f o s
  | .st f o => Sys2Proof.Machine.execSt f o s
  | .amo f o => Sys2Proof.Machine.execAmo f o s
  | .cas f o => Sys2Proof.Machine.execCas f o s
  | .amobnd f o => Sys2Proof.Machine.execAmobnd f o s
  | .pref f o => Sys2Proof.Machine.execPref f o s
  | .ffence f o => Sys2Proof.Machine.execFfence f o s
  | .drain f o => Sys2Proof.Machine.execDrain f o s
  | .drainAll f o => Sys2Proof.Machine.execDrainAll f o s
  | .ifence f o => Sys2Proof.Machine.execIfence f o s
  | .biasflipHost f o => Sys2Proof.Machine.execBiasflipHost f o s
  | .biasflipDev f o => Sys2Proof.Machine.execBiasflipDev f o s
  | .br f o => Sys2Proof.Machine.execBr f o s
  | .bp f o => Sys2Proof.Machine.execBp f o s
  | .jmp f o => Sys2Proof.Machine.execJmp f o s
  | .jmpr f o => Sys2Proof.Machine.execJmpr f o s
  | .call f o => Sys2Proof.Machine.execCall f o s
  | .callr f o => Sys2Proof.Machine.execCallr f o s
  | .ret f o => Sys2Proof.Machine.execRet f o s
  | .loop f o => Sys2Proof.Machine.execLoop f o s
  | .fset f o => Sys2Proof.Machine.execFset f o s
  | .fadd f o => Sys2Proof.Machine.execFadd f o s
  | .frd f o => Sys2Proof.Machine.execFrd f o s
  | .fbind f o => Sys2Proof.Machine.execFbind f o s
  | .fbindNone f o => Sys2Proof.Machine.execFbindNone f o s
  | .barTeam f o => Sys2Proof.Machine.execBarTeam f o s
  | .barDie f o => Sys2Proof.Machine.execBarDie f o s
  | .barPkg f o => Sys2Proof.Machine.execBarPkg f o s
  | .barPod f o => Sys2Proof.Machine.execBarPod f o s
  | .rpop f o => Sys2Proof.Machine.execRpop f o s
  | .squash f o => Sys2Proof.Machine.execSquash f o s
  | .waitf f o => Sys2Proof.Machine.execWaitf f o s
  | .spawn f o => Sys2Proof.Machine.execSpawn f o s
  | .spawnNb f o => Sys2Proof.Machine.execSpawnNb f o s
  | .finish f o => Sys2Proof.Machine.execFinish f o s
  | .finishFail f o => Sys2Proof.Machine.execFinishFail f o s
  | .yield f o => Sys2Proof.Machine.execYield f o s
  | .joinadd f o => Sys2Proof.Machine.execJoinadd f o s
  | .tagnew f o => Sys2Proof.Machine.execTagnew f o s
  | .tagnewRoot f o => Sys2Proof.Machine.execTagnewRoot f o s
  | .cancel f o => Sys2Proof.Machine.execCancel f o s
  | .cancelWait f o => Sys2Proof.Machine.execCancelWait f o s
  | .self f o => Sys2Proof.Machine.execSelf f o s
  | .slopen f o => Sys2Proof.Machine.execSlopen f o s
  | .slopenFeed f o => Sys2Proof.Machine.execSlopenFeed f o s
  | .slpub f o => Sys2Proof.Machine.execSlpub f o s
  | .sltent f o => Sys2Proof.Machine.execSltent f o s
  | .slcommit f o => Sys2Proof.Machine.execSlcommit f o s
  | .slreject f o => Sys2Proof.Machine.execSlreject f o s
  | .slfork f o => Sys2Proof.Machine.execSlfork f o s
  | .sldrop f o => Sys2Proof.Machine.execSldrop f o s
  | .slquery f o => Sys2Proof.Machine.execSlquery f o s
  | .revoke f o => Sys2Proof.Machine.execRevoke f o s
  | .resume f o => Sys2Proof.Machine.execResume f o s
  | .rskip f o => Sys2Proof.Machine.execRskip f o s
  | .rpause f o => Sys2Proof.Machine.execRpause f o s
  | .rquery f o => Sys2Proof.Machine.execRquery f o s
  | .dld f o => Sys2Proof.Machine.execDld f o s
  | .dst f o => Sys2Proof.Machine.execDst f o s
  | .dset f o => Sys2Proof.Machine.execDset f o s
  | .dget f o => Sys2Proof.Machine.execDget f o s
  | .dadv f o => Sys2Proof.Machine.execDadv f o s
  | .sflush f o => Sys2Proof.Machine.execSflush f o s
  | .sflushUnmap f o => Sys2Proof.Machine.execSflushUnmap f o s
  | .sdrop f o => Sys2Proof.Machine.execSdrop f o s
  | .stepmark f o => Sys2Proof.Machine.execStepmark f o s
  | .stepend f o => Sys2Proof.Machine.execStepend f o s
  | .edgerd f o => Sys2Proof.Machine.execEdgerd f o s
  | .vadd f o => Sys2Proof.Machine.execVadd f o s
  | .vsub f o => Sys2Proof.Machine.execVsub f o s
  | .vmul f o => Sys2Proof.Machine.execVmul f o s
  | .vfma f o => Sys2Proof.Machine.execVfma f o s
  | .vfms f o => Sys2Proof.Machine.execVfms f o s
  | .vmin f o => Sys2Proof.Machine.execVmin f o s
  | .vmax f o => Sys2Proof.Machine.execVmax f o s
  | .vabs f o => Sys2Proof.Machine.execVabs f o s
  | .vneg f o => Sys2Proof.Machine.execVneg f o s
  | .vrcp f o => Sys2Proof.Machine.execVrcp f o s
  | .vrsqrt f o => Sys2Proof.Machine.execVrsqrt f o s
  | .vsqrt f o => Sys2Proof.Machine.execVsqrt f o s
  | .vexp2 f o => Sys2Proof.Machine.execVexp2 f o s
  | .vlog2 f o => Sys2Proof.Machine.execVlog2 f o s
  | .vcvt f o => Sys2Proof.Machine.execVcvt f o s
  | .vcmp f o => Sys2Proof.Machine.execVcmp f o s
  | .vsel f o => Sys2Proof.Machine.execVsel f o s
  | .vand f o => Sys2Proof.Machine.execVand f o s
  | .vor f o => Sys2Proof.Machine.execVor f o s
  | .vxor f o => Sys2Proof.Machine.execVxor f o s
  | .vshl f o => Sys2Proof.Machine.execVshl f o s
  | .vshr f o => Sys2Proof.Machine.execVshr f o s
  | .vsra f o => Sys2Proof.Machine.execVsra f o s
  | .vmov f o => Sys2Proof.Machine.execVmov f o s
  | .vred f o => Sys2Proof.Machine.execVred f o s
  | .vscan f o => Sys2Proof.Machine.execVscan f o s
  | .vperm f o => Sys2Proof.Machine.execVperm f o s
  | .vbcast f o => Sys2Proof.Machine.execVbcast f o s
  | .viota f o => Sys2Proof.Machine.execViota f o s
  | .vins f o => Sys2Proof.Machine.execVins f o s
  | .vext f o => Sys2Proof.Machine.execVext f o s
  | .kop f o => Sys2Proof.Machine.execKop f o s
  | .kpopc f o => Sys2Proof.Machine.execKpopc f o s
  | .vld f o => Sys2Proof.Machine.execVld f o s
  | .vst f o => Sys2Proof.Machine.execVst f o s
  | .vldg f o => Sys2Proof.Machine.execVldg f o s
  | .vsts f o => Sys2Proof.Machine.execVsts f o s
  | .vshort f o => Sys2Proof.Machine.execVshort f o s
  | .vrand f o => Sys2Proof.Machine.execVrand f o s
  | .vtopk f o => Sys2Proof.Machine.execVtopk f o s
  | .vnop f o => Sys2Proof.Machine.execVnop f o s
  | .mma f o => Sys2Proof.Machine.execMma f o s
  | .mzero f o => Sys2Proof.Machine.execMzero f o s
  | .mtbl f o => Sys2Proof.Machine.execMtbl f o s
  | .mtblProd f o => Sys2Proof.Machine.execMtblProd f o s
  | .epi f o => Sys2Proof.Machine.execEpi f o s
  | .epired f o => Sys2Proof.Machine.execEpired f o s
  | .epifn f o => Sys2Proof.Machine.execEpifn f o s
  | .cpy f o => Sys2Proof.Machine.execCpy f o s
  | .cpyg f o => Sys2Proof.Machine.execCpyg f o s
  | .cpys f o => Sys2Proof.Machine.execCpys f o s
  | .cpyidx f o => Sys2Proof.Machine.execCpyidx f o s
  | .cpyfill f o => Sys2Proof.Machine.execCpyfill f o s
  | .cpymir f o => Sys2Proof.Machine.execCpymir f o s
  | .saq f o => Sys2Proof.Machine.execSaq f o s
  | .samask f o => Sys2Proof.Machine.execSamask f o s
  | .srcfg f o => Sys2Proof.Machine.execSrcfg f o s
  | .srabsReg f o => Sys2Proof.Machine.execSrabsReg f o s
  | .srabsDesc f o => Sys2Proof.Machine.execSrabsDesc f o s
  | .srmerge f o => Sys2Proof.Machine.execSrmerge f o s
  | .srmergePair f o => Sys2Proof.Machine.execSrmergePair f o s
  | .srread f o => Sys2Proof.Machine.execSrread f o s
  | .srset f o => Sys2Proof.Machine.execSrset f o s
  | .srclr f o => Sys2Proof.Machine.execSrclr f o s
  | .trap f o => Sys2Proof.Machine.execTrap f o s
  | .eret f o => Sys2Proof.Machine.execEret f o s
  | .crd f o => Sys2Proof.Machine.execCrd f o s
  | .cwr f o => Sys2Proof.Machine.execCwr f o s
  | .wfi f o => Sys2Proof.Machine.execWfi f o s
  | .brk f o => Sys2Proof.Machine.execBrk f o s
  | .ctxsave f o => Sys2Proof.Machine.execCtxsave f o s
  | .ctxload f o => Sys2Proof.Machine.execCtxload f o s
  | .perfrd f o => Sys2Proof.Machine.execPerfrd f o s
  | .bundleIssue c => Sys2Proof.Machine.execBundleIssue c s
  | .headerWait c => Sys2Proof.Machine.execHeaderWait c s
  | .commandIssue c q => Sys2Proof.Machine.execCommandIssue c q s
  | .commandRetire c a => Sys2Proof.Machine.execCommandRetire c a s
  | .tokenGiveGranted c q => Sys2Proof.Machine.execTokenGiveGranted c q s
  | .tokenDeadlock c => Sys2Proof.Machine.execTokenDeadlock c s
  | .windowFill c g => Sys2Proof.Machine.execWindowFill c g s
  | .windowWriteback c g => Sys2Proof.Machine.execWindowWriteback c g s
  | .operandFetch c port => Sys2Proof.Machine.execOperandFetch c port s
  | .streamFault c port => Sys2Proof.Machine.execStreamFault c port s
  | .loadReturn c n => Sys2Proof.Machine.execLoadReturn c n s
  | .perform c => Sys2Proof.Machine.execPerform c s
  | .deliver c target ans => Sys2Proof.Machine.execDeliver c target ans s
  | .logicalTimeRebase amount => Sys2Proof.Machine.execLogicalTimeRebase amount s
  | .firing c q => Sys2Proof.Machine.execFiring c q s
  | .firingRetire c q => Sys2Proof.Machine.execFiringRetire c q s
  | .trapEntry c t => Sys2Proof.Machine.execTrapEntry c t s
  | .asyncTrapTaken c => Sys2Proof.Machine.execAsyncTrapTaken c s
  | .waitfTimeout c => Sys2Proof.Machine.execWaitfTimeout c s
  | .waitRelease c => Sys2Proof.Machine.execWaitRelease c s
  | .wfiWake c => Sys2Proof.Machine.execWfiWake c s
  | .doorbell sq tail => Sys2Proof.Machine.execDoorbell sq tail s
  | .launch sq => Sys2Proof.Machine.execLaunch sq s
  | .fence sq => Sys2Proof.Machine.execFence sq s
  | .fenceEvaluate sq => Sys2Proof.Machine.execFenceEvaluate sq s
  | .signal sq => Sys2Proof.Machine.execSignal sq s
  | .copy sq => Sys2Proof.Machine.execCopy sq s
  | .mark sq => Sys2Proof.Machine.execMark sq s
  | .sqStateWrite sq e => Sys2Proof.Machine.execSqStateWrite sq e s
  | .taskQueueEntryWrite vf q e => Sys2Proof.Machine.execTaskQueueEntryWrite vf q e s
  | .pop c => Sys2Proof.Machine.execPop c s
  | .contextRestore c => Sys2Proof.Machine.execContextRestore c s
  | .preemption q => Sys2Proof.Machine.execPreemption q s
  | .timeSlice c => Sys2Proof.Machine.execTimeSlice c s
  | .hardwareSave c => Sys2Proof.Machine.execHardwareSave c s
  | .spawnFull c => Sys2Proof.Machine.execSpawnFull c s
  | .spawnRetry c => Sys2Proof.Machine.execSpawnRetry c s
  | .continuationEnqueue n => Sys2Proof.Machine.execContinuationEnqueue n s
  | .cancelSweep q => Sys2Proof.Machine.execCancelSweep q s
  | .podCancel vf group => Sys2Proof.Machine.execPodCancel vf group s
  | .cancelRunStop c => Sys2Proof.Machine.execCancelRunStop c s
  | .tagRelease t => Sys2Proof.Machine.execTagRelease t s
  | .barrierRelease b => Sys2Proof.Machine.execBarrierRelease b s
  | .podBarrierArrival group x => Sys2Proof.Machine.execPodBarrierArrival group x s
  | .barrierBroken b => Sys2Proof.Machine.execBarrierBroken b s
  | .frondRelease ot => Sys2Proof.Machine.execFrondRelease ot s
  | .saqComplete c => Sys2Proof.Machine.execSaqComplete c s
  | .lauterMerge c row level e => Sys2Proof.Machine.execLauterMerge c row level e s
  | .stage2Fault c => Sys2Proof.Machine.execStage2Fault c s
  | .faultRingAnswer handle action => Sys2Proof.Machine.execFaultRingAnswer handle action s
  | .warmReset late => Sys2Proof.Machine.execWarmReset late s
  | .bootStep ok => Sys2Proof.Machine.execBootStep ok s
  | .preciseStop c => Sys2Proof.Machine.execPreciseStop c s
  | .access c a write n => Sys2Proof.Machine.execAccess c a write n s
  | .functionContextWrite vf x => Sys2Proof.Machine.execFunctionContextWrite vf x s
  | .functionDisable vf => Sys2Proof.Machine.execFunctionDisable vf s
  | .functionEnable vf => Sys2Proof.Machine.execFunctionEnable vf s
  | .queueAssignment k vf => Sys2Proof.Machine.execQueueAssignment k vf s
  | .functionReset vf => Sys2Proof.Machine.execFunctionReset vf s
  | .farRequest r => Sys2Proof.Machine.execFarRequest r s
  | .exportTableWrite vf e x => Sys2Proof.Machine.execExportTableWrite vf e x s
  | .targetDown pkg => Sys2Proof.Machine.execTargetDown pkg s
  | .targetUp pkg inc => Sys2Proof.Machine.execTargetUp pkg inc s
  | .hostAccess a => Sys2Proof.Machine.execHostAccess a s
  | .attestationReport vf nonce => Sys2Proof.Machine.execAttestationReport vf nonce s
  | .correctedError site => Sys2Proof.Machine.execCorrectedError site s
  | .uncorrectableError site => Sys2Proof.Machine.execUncorrectableError site s
  | .scrub unit => Sys2Proof.Machine.execScrub unit s
  | .mirrorRepair granule data => Sys2Proof.Machine.execMirrorRepair granule data s
  | .quarantineRelease page => Sys2Proof.Machine.execQuarantineRelease page s
  | .mirrorRegistration frame mirror => Sys2Proof.Machine.execMirrorRegistration frame mirror s
  | .coreFailure c => Sys2Proof.Machine.execCoreFailure c s
  | .flitReplay port => Sys2Proof.Machine.execFlitReplay port s
  | .portLaneLoss port failed => Sys2Proof.Machine.execPortLaneLoss port failed s
  | .routeLossTimeout pkg => Sys2Proof.Machine.execRouteLossTimeout pkg s
  | .dieBoundaryError boundary => Sys2Proof.Machine.execDieBoundaryError boundary s
  | .coldReset => Sys2Proof.Machine.execColdReset s
  | .coreFence c => Sys2Proof.Machine.execCoreFence c s
  | .coreRelease c => Sys2Proof.Machine.execCoreRelease c s
  | .powerOn => Sys2Proof.Machine.execPowerOn s
  | .thermalTrip => Sys2Proof.Machine.execThermalTrip s
  | .powerClamp c positions => Sys2Proof.Machine.execPowerClamp c positions s
  | .limitsWrite l => Sys2Proof.Machine.execLimitsWrite l s
  | .podTableWrite pkg up inc route => Sys2Proof.Machine.execPodTableWrite pkg up inc route s
  | .preciseStopArm c cycle => Sys2Proof.Machine.execPreciseStopArm c cycle s
  | .preciseStopRelease c => Sys2Proof.Machine.execPreciseStopRelease c s
  | .errorLogInterrupt source => Sys2Proof.Machine.execErrorLogInterrupt source s
  | .expanderFailure port => Sys2Proof.Machine.execExpanderFailure port s
  | .hostSnoop line => Sys2Proof.Machine.execHostSnoop line s
  | .powerLoss => Sys2Proof.Machine.execPowerLoss s
  | .reenabling part => Sys2Proof.Machine.execReenabling part s

end Sys2Proof.Machine
end

