-- ==== Sys2Proof/Machine/Round.lean ====
section
/-! DEFINITION. What the step rests on: the phase of an agent's command, the choices of the model's own scheduler, a
package that has stopped, and the least a core needs to fetch a slot word (assumptions 1 and 2). -/

namespace Sys2Proof.Machine

open Sys2Proof

/-! ### The operation of an agent (R201) -/

/-- A phase of a command is due: it has not performed its operation, every read of it has returned, and no fault halts
it. A SAQ whose leaves stand goes on by its own events. The positions that a VNOP has still to issue wait as a command would:
under the power clamp, while the engine is held, and while it stops (R14, R31, R143, R147). -/
def phaseDue (k : Core) (a : Nat) (x : Active) : Bool :=
  !x.ran && x.reads.isEmpty && decide (x.farOut = 0) && !isHalted x && !x.s2 && !(isSaq x && decide (x.stage = 3))
    && !accessStops k a x
    && !(decide (0 < x.pend) && (decide (0 < k.clamp) || vectorHeld k || givesHeld k 3 || issueStops k))

/-- The oldest command of an agent whose next phase is due is performed as far as it can go. -/
def agentTurn (s : State) (c a : Nat) : State :=
  match (actsOf (getCore s c) a).findIdx? (phaseDue (getCore s c) a) with
  | some i => runAgent s c a i
  | none => s

/-! ### A package that has stopped (R382, R404) -/

/-- The package does nothing: it has no power, or has tripped at its thermal limit. -/
def stopped (s : State) : Bool := !s.power || s.tripped

/-- The events that reach a stopped package. -/
def reachesStopped (i : Instr) : Bool :=
  match i with
  | .coldReset => true
  | .powerOn => true
  | .powerLoss => true
  | _ => false

/-! ### The model's own scheduler (assumption 1) -/

/-- The merges that a SAQ's tree allows. -/
def mergeTurns (c : Nat) (x : Active) : List Turn :=
  if isSaq x ∧ x.stage = 3 then
    (x.tree.filter fun n => decide (n.pos % 2 = 0)).map fun n => .ev 0 (.lauterMerge c n.row (n.level + 1) (n.pos / 2))
  else []

/-- The accesses that an agent tries: its first, and one that no halted port keeps (R335). -/
def accessTurns (k : Core) (c a : Nat) (write : Bool) : List Turn :=
  Turn.ev 0 (.access c a write 0) ::
    match (accessPairs k a write).findIdx? (mayAccess k a write) with
    | some (n + 1) => [.ev 0 (.access c a write (n + 1))]
    | _ => []

/-- The turns of a core in one round: what is pending, the program buffer, the agents, and the next bundle. -/
def coreRound (s : State) (c : Nat) : List Turn :=
  let k := getCore s c
  let ev := fun i : Instr => Turn.ev 0 i
  match k.phase with
  | .idle => [ev (.pop c)]
  | .starting => [ev (.cancelRunStop c), ev (.contextRestore c)]
  | _ =>
    [ev (.cancelRunStop c), ev (.hardwareSave c), ev (.stage2Fault c), ev (.asyncTrapTaken c)]
      ++ (List.range k.rets.length).map (fun _ => ev (.loadReturn c 0))
      ++ [ev (.wfiWake c), ev (.waitRelease c), ev (.waitfTimeout c), ev (.spawnRetry c), ev (.spawnFull c), ev (.perform c)]
      ++ (List.range 6).flatMap (fun q => [ev (.firing c q), ev (.commandIssue c q)])
      ++ agentList.flatMap (fun a =>
          .engine 0 c a :: accessTurns k c a false ++ accessTurns k c a true ++ [.engine 0 c a, ev (.commandRetire c a)])
      ++ (List.range 6).flatMap (fun q => [ev (.firingRetire c q), ev (.tokenGiveGranted c q)])
      ++ (getEng k 4).active.flatMap (mergeTurns c)
      ++ [ev (.saqComplete c), ev (.tokenDeadlock c), ev (.preciseStop c), ev (.timeSlice c), ev (.bundleIssue c)]

/-- The turns of the package in one round. -/
def packageRound (s : State) : List Turn :=
  let ev := fun i : Instr => Turn.ev 0 i
  [Turn.ev 1 (.bootStep true)]
    ++ (if 2 ^ 47 ≤ s.ltime then [ev (.logicalTimeRebase (2 ^ 46))] else [])
    ++ (if s.warmReq then [ev (.warmReset [])] else [])
    ++ s.sqs.flatMap (fun e => [ev (.launch e.1), ev (.fence e.1), ev (.fenceEvaluate e.1), ev (.signal e.1), ev (.copy e.1),
                                ev (.mark e.1)])
    ++ s.tqs.flatMap (fun e => [ev (.cancelSweep e.1), ev (.preemption e.1)])
    ++ s.barriers.flatMap (fun b => [ev (.barrierRelease b.slot), ev (.barrierBroken b.slot)])
    ++ (List.range s.conts.length).map (fun i => ev (.continuationEnqueue i))
    ++ s.ots.map (fun e => ev (.frondRelease e.1))
    ++ s.tags.map fun e => ev (.tagRelease e.1)

/-- One round: a cycle passes, and every agent of the package has its turn. -/
def round (s : State) : List Turn := packageRound s ++ (List.range 160).flatMap (coreRound s)

/-! ### A slot word where core 0 fetches next -/

/-- Where the word's bundle and the tables that map it lie. -/
abbrev placeAt : Nat := 0x10000

/-- A leaf of level 1 over all of its range, at the address that it maps, with every permission. -/
def identityLeaf : W64 := 0xFF0000000000011F

/-- Memory with a bundle whose slot 3 is a word, and with one leaf of each stage over the lowest 4 TiB. -/
def placeMemory (m : List Host.Cell) (w : W64) : List Host.Cell :=
  let put := fun (m : List Host.Cell) (a : Nat) (v : W64) => pokeBytes m a (toBytes 8 v)
  let m := put m placeAt 0x8000000000
  let m := put (put m (placeAt + 8) 0) (placeAt + 16) 0
  let m := put m (placeAt + 24) w
  let m := put m 0x20000 identityLeaf
  let m := put m 0x30000 0x40001
  put m 0x40000 identityLeaf

/-- A core that stands before the bundle, with nothing under way that would hold it. -/
def placeCore (k : Core) : Core :=
  { k with pc := placeAt, phase := .running, run := { k.run with vf := 0 }, buf := [], hdrOk := none, stall := .none,
           icache := [], ptraps := [], stepDue := none, save := none, s2fault := none, cancelled := false,
           frozen := false, fenced := false, regs := { k.regs with cr := { k.regs.cr with asid := 0 } } }

/-- A state in which core 0 is to issue a bundle whose one slot is a word: the memory, the tables of its function and
the core as the fetch needs them, and the scheduler's next choice. -/
def placeWord (s : State) (w : W64) : State :=
  let x : FuncCtx := { getFctx s 0 with s2root := 0x20000, asidtab := 0x30000, asidbase := 0, supasid := 0, enabled := true }
  let s := onCore s 0 placeCore
  let t := recTag (getCore s 0).run.record
  { s with mem := placeMemory s.mem w, fctx := SMap.set (fun _ => {}) s.fctx 0 x,
           tags := SMap.set (fun _ => {}) s.tags t { SMap.get (fun _ => ({} : Tag)) s.tags t with cancelling := false },
           poison := s.poison.filter (fun e => decide (0x1400 ≤ e.1)), power := true, tripped := false,
           agenda := [.ev 0 (.bundleIssue 0)] }

end Sys2Proof.Machine
end

