-- ==== Sys2Proof/Machine/Step.lean ====
section
/-! DEFINITION. One step of the machine: the next choice of the agenda (assumption 1). -/

namespace Sys2Proof.Machine

open Sys2Proof

/-- One step. The next turn's cycles pass, and then its event or operation is performed; a stopped package takes only
what reaches it. With no choice left the model's own scheduler chooses a round, and a stopped package does nothing
more. -/
def step (s : State) : Host.Outcome State Fault Refusal :=
  match s.agenda with
  | [] => if !s.power then .fault .noPower else if s.tripped then .fault .tripped else .next { s with agenda := round s }
  | .ev dt i :: rest =>
    let t := advance { s with agenda := rest } dt
    if stopped t && !reachesStopped i then .next t else exec i t
  | .engine dt c a :: rest =>
    let t := advance { s with agenda := rest } dt
    if stopped t then .next t else .next (agentTurn t c a)

/-- A slot word placed where core 0 fetches its next bundle, with core 0's issue as the next turn. -/
def State.withFetchWord (s : State) (nbits w : Nat) : State := placeWord s (BitVec.ofNat 64 (w % 2 ^ min nbits 64))

end Sys2Proof.Machine
end

