-- ==== Sys2Proof/Safety.lean ====
section
/-! DEFINITION. What counts as a safe run, and the words in which the statements speak: what an instruction writes, and
the frame of what it leaves as it was. -/

namespace Sys2Proof

/-- A step that neither faults nor is refused. -/
def stepsOn (s : Machine.State) : Prop := ∃ t, Machine.step s = .next t

namespace Claim

open Machine

/-! ### Frames -/

/-- Every byte of memory reads as before. -/
def SameMemory (s t : State) : Prop := ∀ a, memByte t a = memByte s a

/-- Every byte of memory outside the `n` bytes from `a` reads as before. -/
def SameMemoryBut (a n : Nat) (s t : State) : Prop := ∀ b, ¬ (a ≤ b ∧ b < a + n) → memByte t b = memByte s b

/-- Every core but `c` is as before. -/
def OthersSame (c : Nat) (s t : State) : Prop := ∀ j, j ≠ c → getCore t j = getCore s j

/-- Every core is as before. -/
def SameCores (s t : State) : Prop := ∀ j, getCore t j = getCore s j

/-- Every granule's poison bits are as before. -/
def SamePoison (s t : State) : Prop := ∀ g, getPz t g = getPz s g

/-- Nothing outside the cores changes, but for the record of the bundle in issue. -/
def PackageSame (s t : State) : Prop := { t with cores := s.cores, ctx := s.ctx } = s

/-- Only registers of the current core change: no byte of memory, no other core, nothing of the package, and nothing of
the core beside its register files and control registers. -/
def RegsOnly (s t : State) : Prop :=
  SameMemory s t ∧ OthersSame s.cur s t ∧ PackageSame s t ∧ { cc t with regs := (cc s).regs } = cc s

/-- The current core's scalars, predicates, descriptors and control registers all read as before. -/
def SameRegs (s t : State) : Prop :=
  (∀ m, rdS (cc t).regs m = rdS (cc s).regs m) ∧ (∀ m, rdP (cc t).regs m = rdP (cc s).regs m)
    ∧ (∀ m, rdD (cc t).regs m = rdD (cc s).regs m) ∧ (cc t).regs.cr = (cc s).regs.cr

/-- s[n] := v and nothing else; a write to s0 is discarded, so that then nothing changes. -/
def ScalarWritten (s t : State) (n : BitVec 6) (v : W64) : Prop :=
  (∀ m, rdS (cc t).regs m = if m = n.toNat ∧ n ≠ 0 then v else rdS (cc s).regs m)
    ∧ (∀ m, rdP (cc t).regs m = rdP (cc s).regs m) ∧ (∀ m, rdD (cc t).regs m = rdD (cc s).regs m)
    ∧ (cc t).regs.cr = (cc s).regs.cr ∧ RegsOnly s t

/-- p[n] := v and nothing else; a write to p0 is discarded. -/
def PredicateWritten (s t : State) (n : Nat) (v : Bool) : Prop :=
  (∀ m, rdP (cc t).regs m = if m = n ∧ n ≠ 0 then v else rdP (cc s).regs m)
    ∧ (∀ m, rdS (cc t).regs m = rdS (cc s).regs m) ∧ (∀ m, rdD (cc t).regs m = rdD (cc s).regs m)
    ∧ (cc t).regs.cr = (cc s).regs.cr ∧ RegsOnly s t

/-- The instruction completes and writes s[n] := v. -/
def GivesScalar (i : Instr) (s : State) (n : BitVec 6) (v : W64) : Prop := ∃ t, exec i s = .next t ∧ ScalarWritten s t n v

/-- The instruction completes and writes p[n] := v. -/
def GivesPredicate (i : Instr) (s : State) (n : Nat) (v : Bool) : Prop :=
  ∃ t, exec i s = .next t ∧ PredicateWritten s t n v

/-- `n` W_FALLBACK events in a control-register file (R24). -/
def fallbacks : Nat → Cr → Cr
  | 0, cr => cr
  | n + 1, cr => fallbacks n (crWarn cr wFallback)

/-- Core `c` becomes `g` of itself: no other core, no byte of memory and nothing of the package changes. -/
def CoreOnly (c : Nat) (s t : State) (g : Core → Core) : Prop :=
  getCore t c = g (getCore s c) ∧ SameMemory s t ∧ OthersSame c s t ∧ PackageSame s t

/-- The program buffer of the current core gains one entry at its tail, made by the slot in issue, which holds the issue
of later bundles if `holds` says so, with `n` W_FALLBACK events; nothing else of the core changes, no byte of memory, and
no other core. -/
def Entered (s t : State) (n : Nat) (holds : Bool) (ev : Ev) : Prop :=
  ∃ b : BufItem, b.ev = ev ∧ b.holds = holds ∧ b.slot = s.ctx.slot ∧ b.asid = asidOf s (oldCore s)
    ∧ CoreOnly s.cur s t fun k =>
      { k with buf := k.buf ++ [b], regs := { k.regs with cr := fallbacks n k.regs.cr } }

/-- The instruction completes by entering the program buffer, after `n` W_FALLBACK events. -/
def EntersWith (n : Nat) (i : Instr) (s : State) (holds : Bool) (ev : Ev) : Prop :=
  ∃ t, exec i s = .next t ∧ Entered s t n holds ev

/-- The instruction completes by entering the program buffer. -/
def Enters (i : Instr) (s : State) (holds : Bool) (ev : Ev) : Prop := EntersWith 0 i s holds ev

/-- The instruction completes in a state of which `P` holds. -/
def LeadsTo (i : Instr) (s : State) (P : State → Prop) : Prop := ∃ t, exec i s = .next t ∧ P t

/-- The instruction completes and changes nothing at all. -/
def NoEffect (i : Instr) (s : State) : Prop := exec i s = .next s

/-- `n` W_FALLBACK events and the instruction has no other effect. -/
def OnlyWarns (n : Nat) (i : Instr) (s : State) : Prop :=
  ∃ t, exec i s = .next t ∧ CoreOnly s.cur s t fun k => { k with regs := { k.regs with cr := fallbacks n k.regs.cr } }

/-- The instruction completes as a control transfer to `target`, with `n` W_FALLBACK events; no register changes. -/
def Jumps (n : Nat) (i : Instr) (s : State) (target : Nat) : Prop :=
  ∃ t, exec i s = .next t ∧ t.ctx.target = some target
    ∧ CoreOnly s.cur s t fun k => { k with regs := { k.regs with cr := fallbacks n k.regs.cr } }

/-- The same with s[r] := v. -/
def JumpsLinking (n : Nat) (i : Instr) (s : State) (target : Option Nat) (r : BitVec 6) (v : W64) : Prop :=
  ∃ t, exec i s = .next t ∧ t.ctx.target = target
    ∧ CoreOnly s.cur s t fun k => { k with regs := { wrS k.regs r.toNat v with cr := fallbacks n k.regs.cr } }

/-- The instruction completes and changes the current core as `g` says, and nothing else. -/
def ChangesCore (i : Instr) (s : State) (g : Core → Core) : Prop := ∃ t, exec i s = .next t ∧ CoreOnly s.cur s t g

/-- The instruction completes with s[n] := v after `w` W_RESERVED events, and nothing else. -/
def GivesReserved (w : Nat) (i : Instr) (s : State) (n : BitVec 6) (v : W64) : Prop :=
  ChangesCore i s fun k =>
    { k with regs := { wrS k.regs n.toNat v with cr := if w = 0 then k.regs.cr else crWarn k.regs.cr wReserved } }

/-- `d` and `e` agree but for the `w` bits from bit `lo`, which in `e` are the low bits of `v`. -/
def FieldWritten (d e : W512) (lo w : Nat) (v : Nat) : Prop :=
  ∀ i, i < 512 → e.getLsbD i = if lo ≤ i ∧ i < lo + w then v.testBit (i - lo) else d.getLsbD i

/-! ### Addresses and records (R217, R305) -/

/-- An effective address: base + index × 2^scale + displacement, modulo 2^64 (R217). -/
def effective (base index : W64) (scale : Nat) (disp : W64) : W64 := base + index * BitVec.ofNat 64 (2 ^ scale) + disp

/-- Every page that a scalar access touches translates with what the access needs, and its target allows the form (R217,
R219). -/
def Accessible (s : State) (kind : AccKind) (ea size : Nat) (rd wr : Bool) : Prop :=
  ∀ a ∈ pageStarts ea size, ∃ t, translate s (vmid (cc s)) (asidOf s (oldCore s)) a rd wr false [0] = .ok t
    ∧ targetBlock s kind ea size t = none

/-- A block that an instruction names: aligned, and in memory of this package of an accepted type. -/
def Names (s : State) (va : W64) (align : Nat) (types : Nat → Bool) (rd wr : Bool) (t : Trans) : Prop :=
  va.toNat % align = 0 ∧ translate s (vmid (cc s)) (asidOf s (oldCore s)) va.toNat rd wr false [0] = .ok t
    ∧ isPackageMem s t.pa = true ∧ types t.mtype = true

/-- An open tensor record that an instruction names: FREE, or the run's own function's. -/
def NamesRecord (s : State) (va : W64) (types : Nat → Bool) : Prop :=
  ∃ t, Names s va 256 types false false t ∧ ((getOT s t.pa).st = 0 ∨ (getOT s t.pa).vf = vmid (cc s))

/-- The bundle in issue was issued at supervisor level. -/
def Supervisor (s : State) : Prop := stPL s.ctx.old.cr.status = 1

/-- The current core has a trap vector. -/
def HasVector (s : State) : Prop := field (cc s).regs.cr.tvec 5 50 ≠ 0

/-! ### Queue-routed slots (R28) -/

/-- Every queue-routed instruction, with one frame and one set of operands of each format. -/
def queueForms (f : Frame) (v : OpV) (e : OpE) : List Instr :=
  [.vadd f v, .vsub f v, .vmul f v, .vfma f v, .vfms f v, .vmin f v, .vmax f v, .vabs f v, .vneg f v, .vrcp f v,
   .vrsqrt f v, .vsqrt f v, .vexp2 f v, .vlog2 f v, .vcvt f v, .vcmp f v, .vsel f v, .vand f v, .vor f v, .vxor f v,
   .vshl f v, .vshr f v, .vsra f v, .vmov f v, .vred f v, .vscan f v, .vperm f v, .vbcast f v, .viota f v, .vins f v,
   .vext f v, .kop f v, .kpopc f v, .vld f v, .vst f v, .vldg f v, .vsts f v, .vshort f v, .vrand f v, .vtopk f v,
   .vnop f v]
  ++ [.mma f e, .mzero f e, .mtbl f e, .mtblProd f e, .epi f e, .epired f e, .epifn f e, .cpy f e, .cpyg f e, .cpys f e,
      .cpyidx f e, .cpyfill f e, .cpymir f e, .saq f e, .samask f e, .srcfg f e, .srabsReg f e, .srabsDesc f e,
      .srmerge f e, .srmergePair f e, .srread f e, .srset f e, .srclr f e]

/-- The descriptors that the slot in issue names, and the queue that it is for. -/
def namedBy (i : Instr) (s : State) : List Use := usesOf i s.ctx.word (srcD s)

/-- The queue of the slot in issue. -/
def queueFor (i : Instr) (s : State) : Nat := (queueOf s.ctx.word (namedBy i s) (srcD s)).getD 0

/-- The table of R120 for one descriptor, whatever the window map holds: its reasons with what makes each fail. -/
def reasonsOf (d : W512) (types : Nat → Bool) : List (Nat × Bool) :=
  let strides := [dStride d 0, dStride d 1, dStride d 2]
  let size := tySize (dType d)
  [(1, decide (dKind d = 0) || decide (4 ≤ dKind d)),
   (2, decide (dDim d 0 = 0) || decide (dDim d 1 = 0) || decide (dDim d 2 = 0)),
   (3, dOpen d != decide (dKind d = 3) || (dOpen d && decide (dAxis d = 3))),
   (4, decide (12 ≤ dType d) || !types (dType d)),
   (5, decide (dType d = 5) && decide (dBlen d = 0)),
   (6, (decide (dKind d ≠ 2) && decide (dBase d % size ≠ 0)) || strides.any (fun x => decide (x % (size : Int) ≠ 0))
      || (decide (dKind d = 3) && (decide (dOtr d = 0) || decide (dOtr d % 256 ≠ 0)))),
   (7, (decide (dKind d = 2) && !dWin d) || (dWin d && decide (16384 < dOffset d + dSize d + 1))),
   (8, (dWin d && decide (dSize d + 1 < dDim d 1 * dDim d 2 * rowUnits d))
      || (decide (dPitch d ≠ 0) && decide (64 * dPitch d < rowBytes d)))]

/-- The first reason that fails. -/
def firstReason (d : W512) (types : Nat → Bool) : Option Nat :=
  ((reasonsOf d types).find? fun x => x.2).map fun x => x.1

/-- The command of the slot in issue (R28, R332). -/
def pushed (s : State) (tokenOnly : Bool) (descs : List W512) : Cmd :=
  { word := s.ctx.word, lit := s.ctx.lit, asid := asidOf s (oldCore s), gen := s.ctx.gen, tokenOnly := tokenOnly,
    descs := descs, shortmass := s.ctx.old.cr.shortmass.setWidth 32 }

/-- The instruction completes with a push at the tail of the program buffer, the windows of its descriptors mapped, and
`w` W_INSTALL events. -/
def Pushes (i : Instr) (s : State) (w : Nat) (x : Cmd) : Prop :=
  ∃ b : BufItem, b.ev = .push (queueFor i s) x ∧ b.holds = false ∧ ChangesCore i s fun k =>
    let m := mapWindows x.asid none x.descs k
    { m with buf := m.buf ++ [b],
             regs := { m.regs with cr := if w = 0 then m.regs.cr else crWarn m.regs.cr wInstall } }

/-! ### The vector engine (R142 to R168) -/

/-- The meaning called for the `n`-th command of the vector engine, which begins, with no result in flight. -/
def AtVector (s : State) (n : Nat) (x : Active) : Prop :=
  s.role = .agent 4 n ∧ (actsOf (cc s) 4)[n]? = some x ∧ x.stage = 0 ∧ (cc s).flight = []

/-- What a vector command leaves as it was, with `w` W_FALLBACK events and `p` issue positions: memory, other cores, the
package, the control core's registers and the engine's, into which its results land later; the command is done. -/
def VectorStep (s t : State) (n w p : Nat) : Prop :=
  SameMemory s t ∧ OthersSame s.cur s t ∧ PackageSame s t
    ∧ (cc t).regs = { (cc s).regs with cr := fallbacks w (cc s).regs.cr } ∧ (cc t).eng = (cc s).eng
    ∧ (cc t).vpos = (cc s).vpos + p ∧ ∃ y, (actsOf (cc t) 4)[n]? = some y ∧ y.ran = true ∧ y.stage = 2

/-- A result in flight gives lane `l` of register `r` the value `v` before issue position `due`. -/
def Lands (t : State) (r l due : Nat) (v : PV 32) : Prop :=
  ∃ e ∈ (cc t).flight, e.mask = false ∧ e.reg = r ∧ e.lanes.getLsbD l = true ∧ e.due = due ∧ e.vals.getD l {} = v

/-- The active lanes of register `r` receive their values, and no other lane or register. -/
def LanesGiven (t : State) (r due : Nat) (active : Nat → Bool) (val : Nat → PV 32) : Prop :=
  (∀ l, l < 64 → active l = true → Lands t r l due (val l))
    ∧ ∀ e ∈ (cc t).flight, e.mask = false ∧ e.reg = r ∧ ∀ l, e.lanes.getLsbD l = true → active l = true

/-- The command completes: the active lanes of register `r` receive their values after its latency. -/
def GivesLanes (i : Instr) (s : State) (n w r lat : Nat) (active : Nat → Bool) (val : Nat → PV 32) : Prop :=
  ∃ t, exec i s = .next t ∧ VectorStep s t n w 1 ∧ LanesGiven t r ((cc s).vpos + lat) active val

/-- The command completes: the active lanes' bits of mask register `r` receive their values; k0 discards them. -/
def GivesMask (i : Instr) (s : State) (n r lat : Nat) (active val : Nat → Bool) : Prop :=
  ∃ t, exec i s = .next t ∧ VectorStep s t n 0 1
    ∧ (∀ l, l < 64 → r ≠ 0 → active l = true → ∃ e ∈ (cc t).flight, e.mask = true ∧ e.reg = r
        ∧ e.lanes.getLsbD l = true ∧ e.due = (cc s).vpos + lat ∧ e.bits.getLsbD l = val l)
    ∧ ∀ e ∈ (cc t).flight, e.mask = true ∧ e.reg = r ∧ r ≠ 0 ∧ ∀ l, e.lanes.getLsbD l = true → active l = true

/-- Lane `l` of vector register `r`. -/
def lane (s : State) (r : BitVec 5) (l : Nat) : PV 32 := SMap.get (fun _ => {}) (cc s).eng.v (64 * r.toNat + l)

/-- Mask register `n`; k0 is all ones (R16). -/
def maskReg (s : State) (n : Nat) : W64 := if n = 0 then BitVec.allOnes 64 else SMap.get (fun _ => 0) (cc s).eng.k n

/-- Lane `l` is active under the instruction's mask (R150). -/
def laneOn (s : State) (o : OpV) (l : Nat) : Bool := (maskReg s (field o.imm 9 3)).getLsbD l

/-- What a lane-wise instruction does to one element: how many sources it reads, whether its type field counts, its
latency, and the element's bits from those of its sources (R152 to R156). -/
structure Element where
  sources : Nat
  typed : Bool
  latency : Nat
  value : List Nat → Nat

/-- The lane-wise instructions (R102 to R104, R146, R152, R153, R156). -/
def elementOf (i : Instr) : Option Element :=
  let rounded := fun (o : OpV) (v : FV) => (roundTo v o.type.toNat o.rnd.toNat o.ovf.toNat).bits
  let exact := fun (o : OpV) (v : FV) => (roundTo v o.type.toNat 0 0).bits
  let placed := fun (o : OpV) (k : Int) =>
    if o.fn = 1 then (k % 2 ^ tyBits o.type.toNat).toNat else (roundTo (ofInt k) o.type.toNat 0 o.ovf.toNat).bits
  let fp := fun o : OpV => isFloat o.type.toNat
  let dec := fun (o : OpV) (l : List Nat) (j : Nat) => decodeF o.type.toNat (l.getD j 0)
  let int := fun (o : OpV) (l : List Nat) (j : Nat) => intOf o.type.toNat (l.getD j 0)
  let down := fun o : OpV => decide (o.rnd = 3)
  let half := fun o : OpV => 2 ^ (tyBits o.type.toNat - 1)
  let wrapped := fun (o : OpV) (k : Int) => (k % 2 ^ tyBits o.type.toNat).toNat
  let arith := fun o : OpV => if fp o then 4 else 2
  let amount := fun (o : OpV) (l : List Nat) => (if o.fn = 1 then o.imm.toNat % 32 else l.getD 1 0) % tyBits o.type.toNat
  let shiftSources := fun o : OpV => if o.fn = 1 then 1 else 2
  let word := fun (l : List Nat) (j : Nat) => (BitVec.ofNat 32 (l.getD j 0) : W32)
  match i with
  | .vadd _ o => some ⟨2, true, arith o, fun l =>
      if fp o then rounded o (addF (down o) (dec o l 0) (dec o l 1)) else placed o (int o l 0 + int o l 1)⟩
  | .vsub _ o => some ⟨2, true, arith o, fun l =>
      if fp o then rounded o (addF (down o) (dec o l 0) (negF (dec o l 1))) else placed o (int o l 0 - int o l 1)⟩
  | .vmul _ o => some ⟨2, true, 4, fun l =>
      if fp o then rounded o (mulF (dec o l 0) (dec o l 1)) else placed o (int o l 0 * int o l 1)⟩
  | .vfma _ o => some ⟨3, true, 5, fun l => rounded o (addF (down o) (mulF (dec o l 0) (dec o l 1)) (dec o l 2))⟩
  | .vfms _ o => some ⟨3, true, 5, fun l => rounded o (addF (down o) (mulF (dec o l 0) (dec o l 1)) (negF (dec o l 2)))⟩
  | .vmin _ o => some ⟨2, true, arith o, fun l =>
      if fp o then exact o (extF false (dec o l 0) (dec o l 1)) else wrapped o (min (int o l 0) (int o l 1))⟩
  | .vmax _ o => some ⟨2, true, arith o, fun l =>
      if fp o then exact o (extF true (dec o l 0) (dec o l 1)) else wrapped o (max (int o l 0) (int o l 1))⟩
  | .vabs _ o => some ⟨1, true, arith o, fun l =>
      if fp o then (if dec o l 0 = .nan then nanOf o.type.toNat else l.getD 0 0 % half o)
      else placed o (int o l 0).natAbs⟩
  | .vneg _ o => some ⟨1, true, arith o, fun l =>
      if fp o then
        (if dec o l 0 = .nan then nanOf o.type.toNat
         else if l.getD 0 0 / half o % 2 = 1 then l.getD 0 0 - half o else l.getD 0 0 + half o)
      else placed o (- int o l 0)⟩
  | .vrcp _ o => some ⟨1, true, 8, fun l => (vrcp (dec o l 0) o.type.toNat o.rnd.toNat o.ovf.toNat).bits⟩
  | .vrsqrt _ o => some ⟨1, true, 8, fun l => (vrsqrt (dec o l 0) o.type.toNat o.rnd.toNat o.ovf.toNat).bits⟩
  | .vsqrt _ o => some ⟨1, true, 8, fun l => (vsqrt (dec o l 0) o.type.toNat o.rnd.toNat o.ovf.toNat).bits⟩
  | .vexp2 _ o => some ⟨1, true, 8, fun l => (vexp2 (dec o l 0) o.type.toNat o.rnd.toNat o.ovf.toNat).bits⟩
  | .vlog2 _ o => some ⟨1, true, 8, fun l => (vlog2 (dec o l 0) o.type.toNat o.rnd.toNat o.ovf.toNat).bits⟩
  | .vsel _ _ => some ⟨3, false, 2, fun l =>
      (l.getD 0 0 &&& l.getD 2 0) ||| (word l 1 &&& ~~~word l 2).toNat⟩
  | .vand _ _ => some ⟨2, false, 2, fun l => l.getD 0 0 &&& l.getD 1 0⟩
  | .vor _ _ => some ⟨2, false, 2, fun l => l.getD 0 0 ||| l.getD 1 0⟩
  | .vxor _ _ => some ⟨2, false, 2, fun l => l.getD 0 0 ^^^ l.getD 1 0⟩
  | .vshl _ o => some ⟨shiftSources o, true, 2, fun l => wrapped o (l.getD 0 0 * 2 ^ amount o l)⟩
  | .vshr _ o => some ⟨shiftSources o, true, 2, fun l => l.getD 0 0 / 2 ^ amount o l⟩
  | .vsra _ o => some ⟨shiftSources o, true, 2, fun l =>
      wrapped o ((if half o ≤ l.getD 0 0 then (l.getD 0 0 : Int) - 2 ^ tyBits o.type.toNat else l.getD 0 0)
        / 2 ^ amount o l)⟩
  | .vmov _ o => some ⟨if o.fn = 1 then 0 else 1, true, 2, fun l =>
      if o.fn = 1 then wrapped o ((o.imm.extractLsb' 0 9).toInt) else l.getD 0 0⟩
  | _ => none

/-- The operands of a vector instruction; those of any other are of no account. -/
def vecOf (i : Instr) : OpV :=
  match i with
  | .vadd _ o | .vsub _ o | .vmul _ o | .vfma _ o | .vfms _ o | .vmin _ o | .vmax _ o | .vabs _ o | .vneg _ o | .vrcp _ o
  | .vrsqrt _ o | .vsqrt _ o | .vexp2 _ o | .vlog2 _ o | .vsel _ o | .vand _ o | .vor _ o | .vxor _ o | .vshl _ o
  | .vshr _ o | .vsra _ o | .vmov _ o => o
  | _ => { vd := 0, va := 0, vb := 0, vc := 0, type := 0, rnd := 0, ovf := 0, fn := 0, imm := 0 }

/-- A lane of a lane-wise result: its elements, or the canonical poisoned value of a typed form (R100, R142). -/
def laneValue (t : Nat) (typed : Bool) (srcs : List (PV 32)) (g : List Nat → Nat) : PV 32 :=
  let poison := srcs.any fun v => v.poison
  let per := 32 / tyBits t
  { bits := packLane t ((List.range per).map fun j =>
      if poison && typed then poisonBits t
      else g (srcs.map fun v => v.bits.toNat / 2 ^ (tyBits t * j) % 2 ^ tyBits t)),
    poison := poison }

/-! ### Commands of the engines and channels (R201, R203) -/

/-- The meaning is called for the `n`-th active command of agent `a`, in the given phase. -/
def AtCommand (s : State) (a n : Nat) (x : Active) (stage : Nat) : Prop :=
  s.role = .agent a n ∧ (actsOf (cc s) a)[n]? = some x ∧ x.stage = stage

/-- Every read of the command has returned. -/
def Returned (x : Active) : Prop := x.reads = [] ∧ x.farOut = 0

/-- The command's operation completes: the command is then as `y` says, the engine's registers change as `eng` says, the
control registers become `cr`, and no other register, no byte of memory, no other core and nothing of the package
changes. -/
def Performs (i : Instr) (s : State) (a n : Nat) (cr : Cr) (eng : EngRegs → EngRegs → Prop) (y : Active → Prop) : Prop :=
  ∃ t z, exec i s = .next t ∧ (actsOf (cc t) a)[n]? = some z ∧ z.stage = 2 ∧ z.ran = true ∧ y z
    ∧ eng (cc s).eng (cc t).eng ∧ (cc t).regs = { (cc s).regs with cr := cr }
    ∧ SameMemory s t ∧ OthersSame s.cur s t ∧ PackageSame s t

/-- The command is planned: it is then as `y` says, with its reads and writes; the control registers become `cr`, and no
other register, no byte of memory and no other core changes. -/
def Plans (i : Instr) (s : State) (a n : Nat) (cr : Cr) (reads writes : List Item) (y : Active → Prop) : Prop :=
  ∃ t z, exec i s = .next t ∧ (actsOf (cc t) a)[n]? = some z ∧ z.reads = reads ∧ z.writes = writes ∧ y z
    ∧ (cc t).eng = (cc s).eng ∧ (cc t).regs = { (cc s).regs with cr := cr } ∧ SameMemory s t ∧ OthersSame s.cur s t

/-- Elements (i, j) of tile `t` with i < m and j < n have new values; no other element and no other register of the
engines changes. -/
def TileGiven (t m n : Nat) (val : Nat → Nat → PV 32) (g h : EngRegs) : Prop :=
  (∀ i j, i < m → j < n → getAcc h t i j = val i j)
    ∧ (∀ u i j, i < 128 → j < 64 → ¬ (u = t ∧ i < m ∧ j < n) → getAcc h u i j = getAcc g u i j)
    ∧ { h with acc := g.acc } = g

/-- Only the bank changes, and it becomes `b`. -/
def BankGiven (b : Sorus) (g h : EngRegs) : Prop := h = { g with sorus := b }

/-! ### Arithmetic as the spec writes it (R106) -/

/-- The width in bits that a format A or I slot computes on: 32 under `.w`. -/
def opWidth (w : BitVec 2) : Nat := if w = 1 then 32 else 64

/-- x reduced to w bits, read as a natural number. -/
def asNatural (w : Nat) (x : W64) : Int := (x.toNat % 2 ^ w : Nat)

/-- `as_signed` of R106. -/
def asSigned (w : Nat) (x : W64) : Int := if asNatural w x < 2 ^ (w - 1) then asNatural w x else asNatural w x - 2 ^ w

/-- x′ of R107 and R109: natural under `.n`, signed under `.i`. -/
def reading (o : OpA) (x : W64) : Int :=
  if o.fn.extractLsb' 0 2 = 1#2 then asNatural (opWidth o.width) x else asSigned (opWidth o.width) x

/-- What `write_scalar` of R106 writes for the integer r at width w. -/
def writeScalar (w : Nat) (r : Int) : W64 :=
  if w = 32 then BitVec.ofInt 64 (asSigned 32 (BitVec.ofInt 64 r)) else BitVec.ofInt 64 r

/-! ### Traps (R355) -/

/-- A trap has been taken by core `c`: the saved registers, the status and mode, and the fetch at cr.tvec; no scalar,
predicate or descriptor and no byte of memory changes. -/
def TrapTakenBy (c : Nat) (s t : State) (cause : BitVec 8) (epc slot : Nat) (einfo : W64) : Prop :=
  let k := getCore s c
  let l := getCore t c
  l.regs.cr.cause = cause.setWidth 64 ∧ l.regs.cr.epc = BitVec.ofNat 64 epc
    ∧ l.regs.cr.eslot = (BitVec.ofNat 2 slot).setWidth 64 ∧ l.regs.cr.einfo = einfo
    ∧ field l.regs.cr.status 0 2 = 1 ∧ field l.regs.cr.status 2 2 = field k.regs.cr.status 0 2
    ∧ bit l.regs.cr.status 4 = false ∧ bit l.regs.cr.status 5 = bit k.regs.cr.status 4
    ∧ l.pc = field k.regs.cr.tvec 5 50 * 32
    ∧ (∀ m, rdS l.regs m = rdS k.regs m) ∧ (∀ m, rdP l.regs m = rdP k.regs m) ∧ (∀ m, rdD l.regs m = rdD k.regs m)
    ∧ SameMemory s t ∧ OthersSame c s t ∧ PackageSame s t

/-- A trap has been taken by the current core. -/
def TrapTaken (s t : State) (cause : BitVec 8) (epc slot : Nat) (einfo : W64) : Prop :=
  TrapTakenBy s.cur s t cause epc slot einfo

/-! ### Bytes of memory -/

/-- Address `b` lies in no granule that `n` bytes from `a` touch. -/
def Apart (a n b : Nat) : Prop := b / 64 < a / 64 ∨ (a + n - 1) / 64 < b / 64

/-- Address `b` lies in no granule of the table entries that a translation used, whose bits A and D an access sets
(R329). -/
def OffLeaves (x : Trans) (b : Nat) : Prop := Apart x.e2 8 b ∧ ∀ a, x.e1 = some a → Apart a 8 b

/-- No frame has a registered mirror. -/
def NoMirrors (s : State) : Prop := ∀ fr, mirrorReg s fr = none

/-- Core `c` has nothing under way to a package that is marked down: an event of the core finds nothing lost (R344). -/
def NothingLost (s : State) (c : Nat) : Prop :=
  ∀ q, q < 4096 → (getPod s q).up = false → SMap.get (fun _ => ([] : List FarItem)) (getCore s c).far q = []

end Claim

end Sys2Proof
end

