-- ==== Sys2Proof/Certificates/Slice0/Obligations.lean ====
section
/-! DEFINITION. The statements for the provers. -/

open Sys2Proof Sys2Proof.Machine Sys2Proof.Claim

/-! ### The scalar instructions -/

/-- R106, R107, R109: ADD, SUB, MUL, MULH, DIV, REM, MIN and MAX write `write_scalar` of the exact integer result, on the
width and reading that the slot selects, and nothing else; DIV and REM where the divisor is not 0 on those bits. -/
def Obligations.ScalarArithmetic : Prop :=
  ∀ (f : Frame) (o : OpA) (s : State), predOk s f = true →
    let w := opWidth o.width
    let x := reading o (srcS s o.a)
    let y := reading o (srcS s o.b)
    GivesScalar (.add f o) s o.dst (writeScalar w (asNatural w (srcS s o.a) + asNatural w (srcS s o.b)))
    ∧ GivesScalar (.sub f o) s o.dst (writeScalar w (asNatural w (srcS s o.a) - asNatural w (srcS s o.b)))
    ∧ GivesScalar (.mul f o) s o.dst (writeScalar w (asNatural w (srcS s o.a) * asNatural w (srcS s o.b)))
    ∧ GivesScalar (.mulh f o) s o.dst (writeScalar w (x * y / 2 ^ w))
    ∧ (asNatural w (srcS s o.b) ≠ 0 → GivesScalar (.div f o) s o.dst (writeScalar w (x.tdiv y)))
    ∧ (asNatural w (srcS s o.b) ≠ 0 → GivesScalar (.rem f o) s o.dst (writeScalar w (x - x.tdiv y * y)))
    ∧ GivesScalar (.min f o) s o.dst (writeScalar w (min x y))
    ∧ GivesScalar (.max f o) s o.dst (writeScalar w (max x y))

/-- R107: AND, OR, XOR and ANDN on 64 bits, whatever the width field; SHL, SHR, SRA and ROR by y<5:0>, or y<4:0> under
`.w`. -/
def Obligations.ScalarLogicAndShifts : Prop :=
  ∀ (f : Frame) (o : OpA) (s : State), predOk s f = true →
    let w := opWidth o.width
    let x := asNatural w (srcS s o.a)
    let n := (srcS s o.b).toNat % w
    GivesScalar (.and f o) s o.dst (srcS s o.a &&& srcS s o.b)
    ∧ GivesScalar (.or f o) s o.dst (srcS s o.a ||| srcS s o.b)
    ∧ GivesScalar (.xor f o) s o.dst (srcS s o.a ^^^ srcS s o.b)
    ∧ GivesScalar (.andn f o) s o.dst (srcS s o.a &&& ~~~srcS s o.b)
    ∧ GivesScalar (.shl f o) s o.dst (writeScalar w (x * 2 ^ n))
    ∧ GivesScalar (.shr f o) s o.dst (writeScalar w (x / 2 ^ n))
    ∧ GivesScalar (.sra f o) s o.dst (writeScalar w (asSigned w (srcS s o.a) / 2 ^ n))
    ∧ GivesScalar (.ror f o) s o.dst (writeScalar w (x / 2 ^ n + x % 2 ^ n * 2 ^ (w - n)))

/-- R108: the counts of CLZ, CTZ and POPC, and the bits of BREV and BSWAP, on the width that the slot selects. -/
def Obligations.BitGroup : Prop :=
  ∀ (f : Frame) (o : OpA) (s : State), predOk s f = true →
    let w := opWidth o.width
    let x := srcS s o.a
    (∃ n : Nat, GivesScalar (.clz f o) s o.dst (writeScalar w n) ∧ n ≤ w ∧ (∀ i, w - n ≤ i → i < w → x.getLsbD i = false)
      ∧ (n < w → x.getLsbD (w - 1 - n) = true))
    ∧ (∃ n : Nat, GivesScalar (.ctz f o) s o.dst (writeScalar w n) ∧ n ≤ w ∧ (∀ i, i < n → x.getLsbD i = false)
      ∧ (n < w → x.getLsbD n = true))
    ∧ GivesScalar (.popc f o) s o.dst (writeScalar w (((List.range w).countP fun i => x.getLsbD i : Nat)))
    ∧ (∃ r : Int, GivesScalar (.brev f o) s o.dst (writeScalar w r)
      ∧ ∀ i, i < w → (BitVec.ofInt 64 r).getLsbD i = x.getLsbD (w - 1 - i))
    ∧ (∃ r : Int, GivesScalar (.bswap f o) s o.dst (writeScalar w r)
      ∧ ∀ i, i < w → (BitVec.ofInt 64 r).getLsbD i = x.getLsbD (8 * (w / 8 - 1 - i / 8) + i % 8))

/-- R110, R111, R50: SEL, SETC and CMP on the full 64-bit values, and the predicate group. -/
def Obligations.SelectCompareAndPredicates : Prop :=
  ∀ (f : Frame) (o : OpA) (k : OpC) (s : State), predOk s f = true →
    GivesScalar (.sel f o) s o.dst (if srcP s (o.fn.toNat % 8) then srcS s o.a else srcS s o.b)
    ∧ GivesScalar (.setc f o) s o.dst (if condHolds (o.fn.toNat % 8) (srcS s o.a) (srcS s o.b) then 1 else 0)
    ∧ GivesPredicate (.cmp f k) s (k.disp.toNat / 2 ^ 29) (condHolds k.cond.toNat (srcS s k.a) (srcS s k.b))
    ∧ GivesPredicate (.pand f o) s (o.dst.toNat % 8) (srcP s (o.a.toNat % 8) && srcP s (o.b.toNat % 8))
    ∧ GivesPredicate (.por f o) s (o.dst.toNat % 8) (srcP s (o.a.toNat % 8) || srcP s (o.b.toNat % 8))
    ∧ GivesPredicate (.pxor f o) s (o.dst.toNat % 8) (srcP s (o.a.toNat % 8) != srcP s (o.b.toNat % 8))
    ∧ GivesPredicate (.pnot f o) s (o.dst.toNat % 8) (!srcP s (o.a.toNat % 8))

/-- R112, R113, R49, R51: the immediate forms, with imm32 or the bundle's lit32, and LEA. -/
def Obligations.ImmediatesAndAddresses : Prop :=
  ∀ (f : Frame) (o : OpI) (m : OpM) (s : State), predOk s f = true →
    let w := opWidth o.sel
    let x := asNatural w (srcS s o.a)
    let imm := if o.lit then s.ctx.lit else o.imm
    let n := o.imm.toNat % w
    GivesScalar (.addi f o) s o.dst (writeScalar w (x + imm.toInt))
    ∧ GivesScalar (.andi f o) s o.dst (srcS s o.a &&& imm.signExtend 64)
    ∧ GivesScalar (.ori f o) s o.dst (srcS s o.a ||| imm.signExtend 64)
    ∧ GivesScalar (.xori f o) s o.dst (srcS s o.a ^^^ imm.signExtend 64)
    ∧ GivesScalar (.shli f o) s o.dst (writeScalar w (x * 2 ^ n))
    ∧ GivesScalar (.shri f o) s o.dst (writeScalar w (x / 2 ^ n))
    ∧ GivesScalar (.srai f o) s o.dst (writeScalar w (asSigned w (srcS s o.a) / 2 ^ n))
    ∧ GivesScalar (.li f o) s o.dst (imm.signExtend 64)
    ∧ GivesScalar (.lih f o) s o.dst (BitVec.ofNat 64 (imm.toNat * 2 ^ 32 + (srcS s o.dst).toNat % 2 ^ 32))
    ∧ GivesScalar (.lea f m) s m.data (BitVec.ofNat 64
        ((srcS s m.base).toNat + (srcS s m.index).toNat * 2 ^ m.scale.toNat + (m.disp.signExtend 64).toNat))

/-- R109, R218, R352: a DIV or REM whose divisor is 0 on the bits that it reads takes INT_DIVIDE_ZERO, cause 0x17, with the
dividend as its detail; an atomic whose address is not a multiple of its size takes ALIGNMENT, cause 0x18, with bits 54:0 of the
address (of R334 and R352 the model reads the first for the bits above: its choice, log entry 81). A load or store of one page
that does not translate, or may not be accessed, takes the cause that its translation gives, with the port, the level and the
address. -/
def Obligations.IssueTraps : Prop :=
  ∀ (f : Frame) (a : OpA) (o : OpM) (s : State), predOk s f = true → HasVector s →
    let n := 2 ^ o.size.toNat
    let ea : W64 := effective (srcS s o.base) (srcS s o.index) o.scale.toNat (o.disp.signExtend 64)
    let eb := srcS s o.base + o.disp.signExtend 64
    let traps := fun (i : Instr) (cause : BitVec 8) (einfo : W64) =>
      LeadsTo i s fun t => TrapTaken s t cause s.ctx.pc s.ctx.slot einfo
    let va := fun x : W64 => BitVec.ofNat 64 (x.toNat % 2 ^ 55)
    let fails := fun (i : Instr) (kind : AccKind) (wr : Bool) => ∀ c l,
      translate s (vmid (cc s)) (asidOf s (oldCore s)) ea.toNat (!wr) wr false [0] = .fault c l →
      (∀ t, translate s (vmid (cc s)) (asidOf s (oldCore s)) ea.toNat (!wr) wr false [] = .ok t →
        targetBlock s kind ea.toNat n t = none) →
      traps i c (xlInfo 0 l wr ea.toNat)
    (asNatural (opWidth a.width) (srcS s a.b) = 0 → ∀ i ∈ [Instr.div f a, .rem f a], traps i 0x17 (srcS s a.a))
    ∧ (ea.toNat % n ≠ 0 → traps (.amo f o) 0x18 (va ea))
    ∧ (eb.toNat % n ≠ 0 → ∀ i ∈ [Instr.cas f o, .amobnd f o], traps i 0x18 (va eb))
    ∧ (ea.toNat % 65536 + n ≤ 65536 →
        fails (.ld f o) (.ld (decide (o.amo = 1) && decide (n ≤ 4))) false ∧ fails (.st f o) .st true)

/-- R28, R43, R59, R62, R225: a control-core slot whose predicate is false has no effect at all, a supervisor-only one at
supervisor level; neither have NOP and PREF,
nor a control transfer outside slot 3. -/
def Obligations.NothingDone : Prop :=
  ∀ (raw : BitVec 56) (f : Frame) (a : OpA) (i : OpI) (k : OpC) (m : OpM) (y : OpY) (s : State),
    NoEffect (.nop raw) s ∧ NoEffect (.pref f m) s
    ∧ (s.ctx.slot ≠ 3 → ∀ j ∈ [Instr.br f k, .bp f k, .jmp f k, .jmpr f y, .call f k, .callr f y, .ret f y, .loop f k],
      NoEffect j s)
    ∧ (predOk s f = false → (∀ j ∈ [Instr.add f a, .sub f a, .mul f a, .mulh f a, .div f a, .rem f a, .and f a, .or f a, .xor f a, .andn f a,
            .shl f a, .shr f a, .sra f a, .ror f a, .min f a, .max f a, .clz f a, .ctz f a, .popc f a, .brev f a,
            .bswap f a, .sel f a, .setc f a, .cmp f k, .pand f a, .por f a, .pxor f a, .pnot f a],
      NoEffect j s)
    ∧ (∀ j ∈ [Instr.addi f i, .andi f i, .ori f i, .xori f i, .shli f i, .shri f i, .srai f i, .li f i, .lih f i,
              .lea f m, .ld f m, .st f m, .amo f m, .cas f m, .amobnd f m, .pref f m],
      NoEffect j s)
    ∧ (∀ j ∈ [Instr.ffence f y, .drain f y, .drainAll f y, .ifence f y, .br f k, .bp f k, .jmp f k, .jmpr f y, .call f k,
              .callr f y, .ret f y, .loop f k, .fset f y, .fadd f y, .frd f y, .fbind f y, .fbindNone f y, .barTeam f y,
              .barDie f y, .barPkg f y, .barPod f y, .rpop f y, .squash f y, .waitf f y],
      NoEffect j s)
    ∧ (∀ j ∈ [Instr.spawn f y, .spawnNb f y, .finish f y, .finishFail f y, .yield f y, .joinadd f y, .tagnew f y,
              .cancel f y, .cancelWait f y, .self f y, .slopen f y, .slopenFeed f y, .slpub f y, .sltent f y,
              .slcommit f y, .slreject f y, .slfork f y, .sldrop f y, .slquery f y, .revoke f y, .resume f y, .rskip f y,
              .rpause f y, .rquery f y],
      NoEffect j s)
    ∧ (∀ j ∈ [Instr.dld f y, .dst f y, .dset f y, .dget f y, .dadv f y, .sflush f y, .sflushUnmap f y, .sdrop f y,
              .stepmark f y, .stepend f y, .edgerd f y, .trap f y, .crd f y, .cwr f y, .wfi f y, .brk f y],
      NoEffect j s)
    ∧ (Supervisor s → ∀ j ∈ [Instr.eret f y, .tagnewRoot f y, .biasflipHost f y, .biasflipDev f y, .ctxsave f y,
              .ctxload f y, .perfrd f y],
      NoEffect j s))

/-- R291: the control transfers in slot 3. A register target that is not a bundle's address falls back with a
warning. -/
def Obligations.ControlTransfers : Prop :=
  ∀ (f : Frame) (k : OpC) (y : OpY) (s : State), predOk s f = true → s.ctx.slot = 3 →
    let there := ((s.ctx.pc + 32 * k.disp.toInt) % 2 ^ 55).toNat
    let link : W64 := BitVec.ofNat 64 ((s.ctx.pc + 32) % 2 ^ 55)
    let bundle := fun v : W64 => v.toNat / 32 % 2 ^ 50 * 32
    let odd := fun v : W64 => if v.toNat = bundle v then 0 else 1
    (if condHolds k.cond.toNat (srcS s k.a) (srcS s k.b) then Jumps 0 (.br f k) s there else NoEffect (.br f k) s)
    ∧ (if srcP s (k.a.toNat % 8) = decide (k.cond = 0) then Jumps 0 (.bp f k) s there else NoEffect (.bp f k) s)
    ∧ Jumps 0 (.jmp f k) s there
    ∧ Jumps (odd (srcS s y.y)) (.jmpr f y) s (bundle (srcS s y.y))
    ∧ JumpsLinking 0 (.call f k) s (some there) 63 link
    ∧ JumpsLinking (odd (srcS s y.y)) (.callr f y) s (some (bundle (srcS s y.y))) 63 link
    ∧ Jumps (odd (srcS s 63)) (.ret f y) s (bundle (srcS s 63))
    ∧ JumpsLinking 0 (.loop f k) s (if srcS s k.a = 1 then s.ctx.target else some there) k.a (srcS s k.a - 1)

/-- R217, R218, R221 to R224, R116: an access whose address is aligned where it must be, and reachable, enters the
program buffer with its address, size and operands; a pair named by an odd register falls back with a warning. -/
def Obligations.MemoryAccessesIssue : Prop :=
  ∀ (f : Frame) (o : OpM) (y : OpY) (s : State), predOk s f = true →
    let n := 2 ^ o.size.toNat
    let ea := (effective (srcS s o.base) (srcS s o.index) o.scale.toNat (o.disp.signExtend 64)).toNat
    let eb := (srcS s o.base + o.disp.signExtend 64).toNat
    let ed := (srcS s y.y + y.imm.signExtend 64).toNat
    let value := fun r : BitVec 6 =>
      if n = 16 then (rdS s.ctx.old (r.toNat / 2 * 2 + 1) ++ rdS s.ctx.old (r.toNat / 2 * 2) : BitVec 128)
      else (srcS s r).setWidth 128
    let odd := fun r : BitVec 6 => if n = 16 ∧ r.toNat % 2 = 1 then 1 else 0
    let signed := decide (o.amo = 1) && decide (n ≤ 4)
    (Accessible s (.ld signed) ea n true false → EntersWith (odd o.data) (.ld f o) s false
      (.access { kind := .ld signed, ea := ea, size := n, dst := o.data.toNat }))
    ∧ (Accessible s .st ea n false true → EntersWith (odd o.data) (.st f o) s false
      (.access { kind := .st, ea := ea, size := n, x := (value o.data).setWidth 512 }))
    ∧ (ea % n = 0 → Accessible s (.amo o.amo) ea n true true → Enters (.amo f o) s false
      (.access { kind := .amo o.amo, ea := ea, size := n, dst := o.data.toNat, x := (value o.data).setWidth 512 }))
    ∧ (eb % n = 0 → Accessible s .cas eb n true true → EntersWith (odd o.data + odd o.index) (.cas f o) s false
      (.access { kind := .cas, ea := eb, size := n, dst := o.data.toNat, x := (value o.data).setWidth 512,
                 y := value o.index }))
    ∧ (eb % n = 0 → Accessible s .bnd eb n true true → Enters (.amobnd f o) s false
      (.access { kind := .bnd, ea := eb, size := n, dst := o.data.toNat, x := (value o.data).setWidth 512,
                 y := value o.index }))
    ∧ (ed % 64 = 0 → Accessible s .dld ed 64 true false → Enters (.dld f y) s true
      (.access { kind := .dld, ea := ed, size := 64, dst := y.x.toNat % 32 }))
    ∧ (ed % 64 = 0 → Accessible s .dst ed 64 false true → Enters (.dst f y) s false
      (.access { kind := .dst, ea := ed, size := 64, x := srcD s (y.x.toNat % 32) }))

/-- R226 to R228, R292 to R294, R297, R300, R302, R303, R318, R320, R377: the forms that have no check at issue enter the
program buffer with their operands; those that hold issue are so marked, a CANCEL where the run's own tag lies in the subtree. -/
def Obligations.WaitsFencesAndFlagsIssue : Prop :=
  ∀ (f : Frame) (o : OpY) (s : State), predOk s f = true →
    Enters (.fset f o) s false (.fset o.x.toNat (if o.fn = 0 then (srcS s o.y).setWidth 32 else o.imm.setWidth 32))
    ∧ Enters (.fadd f o) s false (.fadd o.x.toNat (if o.fn = 0 then (srcS s o.y).setWidth 32 else o.imm.signExtend 32))
    ∧ Enters (.frd f o) s false (.frd o.y.toNat o.x.toNat)
    ∧ Enters (.fbindNone f o) s false (.fbind o.x.toNat 0 0)
    ∧ Enters (.waitf f o) s true (.waitf (o.imm.toNat % 64) o.fn.toNat ((srcS s o.y).setWidth 32)
        (if o.z = 0 then none else some (srcS s o.z).toNat) o.x.toNat 0)
    ∧ Enters (.drain f o) s true (.drain (some (o.imm.toNat % 8)))
    ∧ Enters (.drainAll f o) s true (.drain none)
    ∧ Enters (.ffence f o) s true (.ffence o.x.toNat none)
    ∧ Enters (.ifence f o) s true .ifence
    ∧ Enters (.squash f o) s true (.squash (o.imm.toNat % 4))
    ∧ Enters (.wfi f o) s true .wfi
    ∧ Enters (.yield f o) s true .yield
    ∧ Enters (.tagnew f o) s false (.tagnew false ((srcS s o.y).toNat % 2 ^ 16) ((srcS s o.z).setWidth 32) o.x.toNat)
    ∧ (let t := (srcS s o.y).toNat % 2 ^ 16
       Enters (.cancel f o) s (inSubtree s t 33 (field (cc s).run.record 192 16)) (.cancel false t none)
        ∧ Enters (.cancelWait f o) s true (.cancel true t none))
    ∧ Enters (.stepmark f o) s true (.stepmark (srcS s o.y))
    ∧ Enters (.edgerd f o) s false (.edgerd o.fn.toNat (srcS s o.y) o.x.toNat o.z.toNat [])

/-- R293, R295, R298, R301, R319, R119: the forms that name a block, a record, a report or a window enter the program
buffer when what they name is aligned and reachable; JOINADD of 0 only warns. -/
def Obligations.ChecksThenIssue : Prop :=
  ∀ (f : Frame) (o : OpY) (t : Trans) (s : State), predOk s f = true →
    let ea := srcS s o.y + o.imm.signExtend 64
    let va := srcS s o.y
    let cached := fun m : Nat => decide (m ≠ 2)
    let d := srcD s (o.x.toNat % 32)
    (NamesRecord s va (fun _ => true) → Enters (.fbind f o) s false (.fbind o.x.toNat (o.fn.toNat + 1) va.toNat))
    ∧ (Names s ea 64 cached true false t → Enters (.barTeam f o) s true (.bar 0 ea.toNat o.x.toNat none [])
        ∧ Enters (.barDie f o) s true (.bar 1 ea.toNat o.x.toNat none [])
        ∧ Enters (.barPkg f o) s true (.bar 2 ea.toNat o.x.toNat none [])
        ∧ Enters (.barPod f o) s true (.bar 3 ea.toNat o.x.toNat none []))
    ∧ (ea.toNat % 64 = 0 → Accessible s .dld ea.toNat 64 true false →
        Enters (.spawn f o) s true (.spawn false ea.toNat (srcS s o.z).toNat o.x.toNat [] false none)
        ∧ Enters (.spawnNb f o) s false (.spawn true ea.toNat (srcS s o.z).toNat o.x.toNat [] false none))
    ∧ (Names s va 128 cached true true t → if o.imm.toNat % 2 ^ 16 = 0 then OnlyWarns 1 (.joinadd f o) s
        else Enters (.joinadd f o) s false (.joinadd va.toNat (o.imm.toNat % 2 ^ 16)))
    ∧ (ea.toNat % 32 = 0 → Accessible s .dst ea.toNat 32 false true →
        Enters (.stepend f o) s true (.stepend ea.toNat o.x.toNat none))
    ∧ (dKind d = 1 ∨ dKind d = 2 ∨ dKind d = 3 → Enters (.sflush f o) s true (.sflush false d)
        ∧ Enters (.sflushUnmap f o) s true (.sflush true d) ∧ Enters (.sdrop f o) s true (.sdrop d none))

/-- R305 to R307: the slice instructions enter the program buffer when s[y] names a record in cacheable memory, which for
all but SLOPEN is FREE or the function's own; bits 63:40 of a slice number are ignored with a warning. -/
def Obligations.SliceInstructionsIssue : Prop :=
  ∀ (f : Frame) (o : OpY) (t : Trans) (s : State), predOk s f = true →
    let va := srcS s o.y
    let z := srcS s o.z
    let wide := if z.toNat < 2 ^ 40 then 0 else 1
    let ev := fun op : SlOp => Ev.slice op va.toNat z.toNat o.x.toNat
    (Names s va 256 cacheable false false t → Enters (.slopen f o) s false (ev .open)
        ∧ Enters (.slopenFeed f o) s false (ev (.openFeed (o.imm.toNat % 32))))
    ∧ (NamesRecord s va cacheable →
        EntersWith wide (.slpub f o) s false (ev .pub) ∧ EntersWith wide (.sltent f o) s false (ev .tent)
        ∧ EntersWith wide (.slcommit f o) s false (ev .commit) ∧ EntersWith wide (.slreject f o) s false (ev .reject)
        ∧ Enters (.sldrop f o) s false (ev .drop) ∧ Enters (.slquery f o) s false (ev (.query o.fn.toNat)))
    ∧ (NamesRecord s va cacheable → NamesRecord s z cacheable → Enters (.slfork f o) s false (ev .fork))

/-- R40, R299: FINISH and FINISH.fail enter the program buffer and hold issue, and the core is Finishing from then on. -/
def Obligations.FinishIssues : Prop :=
  ∀ (f : Frame) (o : OpY) (s : State), predOk s f = true →
    let ends := fun (i : Instr) (fail : Bool) => ∃ b : BufItem, b.ev = .finish fail ∧ b.holds = true ∧
      ChangesCore i s fun k => { k with buf := k.buf ++ [b], phase := .finishing 1 fail s.ctx.pc }
    ends (.finish f o) false ∧ ends (.finishFail f o) true

/-- R296, R33, R317: a pop takes the oldest entry of the reply queue into s[x]; a poisoned entry makes POISON_CONSUMED
pending in its place, and with no entry, or one that AXQ has pushed in this very cycle, the pop waits behind those that
wait. The core receives the entry's signal, which is that of a wait for it. -/
def Obligations.ReplyPop : Prop :=
  ∀ (f : Frame) (o : OpY) (s : State), predOk s f = true →
    let n := o.x.toNat
    let stamp := fun e : RqEntry => maxW (maxW (cc s).hlc e.sig.stamp) (phys s) + 1
    let awaited := match (cc s).stall with
      | .rq l => l.contains n
      | _ => false
    let took := fun (e : RqEntry) (es : List RqEntry) (k : Core) =>
      { k with rq := es, hlc := stamp e, popSig := if awaited then e.sig else k.popSig,
               popStamp := if awaited then stamp e else k.popStamp }
    let waits := ChangesCore (.rpop f o) s fun k =>
      { k with pops := k.pops ++ [{ dst := n, depth := if isSup k then k.depth else 0, slot := s.ctx.slot }] }
    (∀ e es, (cc s).pops = [] → (cc s).rq = e :: es → e.axq ≠ some s.now → e.val.poison = false →
      ChangesCore (.rpop f o) s fun k => { took e es k with regs := wrS k.regs n e.val.bits })
    ∧ (∀ e es, (cc s).pops = [] → (cc s).rq = e :: es → e.axq ≠ some s.now → e.val.poison = true →
      ChangesCore (.rpop f o) s fun k => { took e es k with wake := true, ptraps := k.ptraps ++ [{ cause := 0x10 }] })
    ∧ (∀ e es, (cc s).pops = [] → (cc s).rq = e :: es → e.axq = some s.now → waits)
    ∧ ((cc s).rq = [] → waits)

/-- R117, R118: DSET writes one field of a descriptor register and no other bit, falling back with a warning where the
value is not representable in it; DGET reads it, sign-extended where the field is signed; DADV adds n strides to the
base. -/
def Obligations.DescriptorFields : Prop :=
  ∀ (f : Frame) (o : OpY) (s : State), predOk s f = true →
    let (lo, w, signed) := descField o.fn.toNat
    let v := srcS s o.y
    let x := o.x.toNat % 32
    let d := srcD s (o.y.toNat % 32)
    let n := if signed then (if (-(2 ^ (w - 1)) : Int) ≤ v.toInt ∧ v.toInt < (2 ^ (w - 1) : Int) then 0 else 1)
      else if v.toNat < 2 ^ w then 0 else 1
    (∃ e, FieldWritten (srcD s x) e lo w v.toNat ∧
      ChangesCore (.dset f o) s fun k => { k with regs := { wrD k.regs x e with cr := fallbacks n k.regs.cr } })
    ∧ GivesScalar (.dget f o) s o.x
        (if signed then BitVec.ofInt 64 (sfield d lo w) else BitVec.ofNat 64 (field d lo w))
    ∧ (∃ e, FieldWritten (srcD s x) e 0 55 ((dBase (srcD s x) + o.imm.toInt * dAdv (srcD s x)) % 2 ^ 55).toNat ∧
      ChangesCore (.dadv f o) s fun k => { k with regs := wrD k.regs x e })

/-- R304, R309: SELF's facts of the run, and RQUERY's word of a rule slot. -/
def Obligations.SelfAndRuleQuery : Prop :=
  ∀ (f : Frame) (o : OpY) (s : State), predOk s f = true →
    let run := (cc s).run
    let r := getRule (cc s) (o.imm.toNat % 32)
    let code := match r.st with
      | .free => 0
      | .armed => 1
      | .firing => 2
      | .faulted => 3
      | .paused => 4
      | .revoked => 5
    (o.fn = 0 → GivesScalar (.self f o) s o.x (BitVec.ofNat 64 ((getFctx s run.vf).jrec + 64 * s.cur)))
    ∧ (o.fn = 1 → GivesScalar (.self f o) s o.x ((run.record.extractLsb' 192 16).setWidth 64))
    ∧ (o.fn = 2 → GivesScalar (.self f o) s o.x (BitVec.ofNat 64 run.queue))
    ∧ (o.fn = 3 → GivesScalar (.self f o) s o.x (BitVec.ofNat 64 run.vf))
    ∧ (o.fn = 4 → GivesScalar (.self f o) s o.x (run.record.extractLsb' 128 64))
    ∧ GivesScalar (.rquery f o) s o.x
        (if r.st = .free then 0
         else BitVec.ofNat 64 (code * 2 ^ 61 + (if r.st = .faulted then r.cause.toNat * 2 ^ 40 else 0)
           + r.cursor % 2 ^ 40))

/-- R281, R288, R308, R423: what the rule group does to the slot that it names, by the slot's state; on a slot that it does
not accept it only warns. -/
def Obligations.RuleControl : Prop :=
  ∀ (f : Frame) (o : OpY) (s : State), predOk s f = true →
    let n := o.imm.toNat % 32
    let r := getRule (cc s) n
    let m := (srcS s o.z).toNat % 2 ^ 40
    let becomes := fun (i : Instr) (x : Rule) => ChangesCore i s fun k => setRule k n x
    let later := o.imm.getLsbD 5 = true ∧ r.cursor < m
    let resumed := if r.cursor < ruleLimit s r then some (sigOf s s.cur 0) else none
    (r.st = .free ∨ r.st = .revoked → OnlyWarns 1 (.revoke f o) s)
    ∧ (r.st ≠ .free → r.st ≠ .revoked → later → becomes (.revoke f o) { r with revokeAt := some m })
    ∧ (r.st = .firing → ¬ later → becomes (.revoke f o) { r with pend := .revoke })
    ∧ (r.st = .armed ∨ r.st = .faulted ∨ r.st = .paused → ¬ later →
        ∃ t, exec (.revoke f o) s = .next t ∧ (getRule (cc t) n).st = .free ∧ SameRegs s t)
    ∧ (r.st = .faulted ∨ r.st = .paused → becomes (.resume f o) { r with st := .armed, cause := 0, rearm := resumed })
    ∧ (r.st ≠ .faulted → r.st ≠ .paused → OnlyWarns 1 (.resume f o) s)
    ∧ (r.st = .faulted →
        becomes (.rskip f o) { r with st := .firing, cause := 0, skip := true, skipAt := r.cursor, skipVoid := false, rearm := some (sigOf s s.cur 0) })
    ∧ (r.st ≠ .faulted → OnlyWarns 1 (.rskip f o) s)
    ∧ (r.st = .armed → becomes (.rpause f o) { r with st := .paused })
    ∧ (r.st = .firing → r.pend ≠ .revoke → becomes (.rpause f o) { r with pend := .pause })
    ∧ (r.st ≠ .armed → r.st ≠ .firing → OnlyWarns 1 (.rpause f o) s)

/-- R21, R375: CRD reads the control register of its index as it stood before the bundle; an unlisted index reads 0 with
W_RESERVED, and a read of cr.hlc is a local event. -/
def Obligations.ControlRegisterRead : Prop :=
  ∀ (f : Frame) (o : OpY) (s : State), predOk s f = true →
    let cr := s.ctx.old.cr
    let n := o.imm.toNat % 4096
    let open_ : List (Nat × W64) :=
      [(0x00, cr.status), (0x08, cr.warn), (0x09, cr.warncount),
       (0x10, BitVec.ofNat 64 (cr.asid.toNat % 2 ^ 12 + (cc s).run.vf * 2 ^ 16)), (0x11, crSelf s.cur (cc s)),
       (0x18, cr.shortmass), (0x19, cr.spawnwait), (0x1A, s.limits.agelimit.setWidth 64), (0x21, cr.step),
       (0x22, cr.edgebase), (0x28, cr.farlost)]
    let closed : List (Nat × W64) :=
      [(0x01, cr.cause), (0x02, cr.epc), (0x03, cr.eslot), (0x04, cr.einfo), (0x05, cr.tvec), (0x06, cr.save)]
    let now := maxW ((cc s).hlc + 1) (phys s)
    (∀ e ∈ open_, e.1 = n → GivesScalar (.crd f o) s o.x e.2)
    ∧ (Supervisor s → ∀ e ∈ closed, e.1 = n → GivesScalar (.crd f o) s o.x e.2)
    ∧ (n = 0x20 → ChangesCore (.crd f o) s fun k => { k with hlc := now, regs := wrS k.regs o.x.toNat now })
    ∧ ((∀ e ∈ open_, e.1 ≠ n) → (∀ e ∈ closed, e.1 ≠ n) → n ≠ 0x20 → GivesReserved 1 (.crd f o) s o.x 0)

/-- R21 to R23, R26, R330, R375: CWR writes the used bits of the control register of its index; a reserved level leaves its
field, an ASID out of range leaves the register, and a reserved ring size counts as 0, each with W_RESERVED; a read-only or
unlisted register only warns. That a reserved PPL leaves its field as a reserved PL does, and that W_RESERVED marks a VMID
field that differs, are the model's choice, log entry 30. -/
def Obligations.ControlRegisterWrite : Prop :=
  ∀ (f : Frame) (o : OpY) (s : State), predOk s f = true →
    let v := srcS s o.y
    let n := o.imm.toNat % 4096
    let low := fun w : Nat => BitVec.ofNat 64 (v.toNat % 2 ^ w)
    let x := getFctx s (cc s).run.vf
    let asid := v.toNat % 2 ^ 12
    let ranged := x.asidbase ≤ asid ∧ asid < x.asidbase + x.asidcount
    let level := fun (lo : Nat) (old : W64) => if field v lo 2 ≤ 1 then field v lo 2 else field old lo 2
    let size := if field v 60 4 ≤ 8 then field v 60 4 else 0
    let task : List (Nat × Bool × (Cr → Cr)) :=
      [(0x08, false, fun cr => { cr with warn := low 6 }), (0x09, false, fun cr => { cr with warncount := low 32 }),
       (0x18, false, fun cr => { cr with shortmass := low 32 }), (0x19, false, fun cr => { cr with spawnwait := low 32 }),
       (0x11, true, id), (0x1A, true, id), (0x20, true, id), (0x21, true, id)]
    let sup : List (Nat × Bool × (Cr → Cr)) :=
      [(0x00, decide (1 < field v 0 2) || decide (1 < field v 2 2), fun cr =>
          { cr with status := mkStatus (level 0 cr.status) (level 2 cr.status) (bit v 4) (bit v 5) }),
       (0x01, false, fun cr => { cr with cause := low 8 }), (0x02, false, fun cr => { cr with epc := low 55 }),
       (0x03, false, fun cr => { cr with eslot := low 2 }), (0x04, false, fun cr => { cr with einfo := v }),
       (0x05, false, fun cr => { cr with tvec := BitVec.ofNat 64 (v.toNat % 2 ^ 55 / 32 * 32) }),
       (0x06, false, fun cr => { cr with save := v }),
       (0x10, !decide ranged || decide (field v 16 6 ≠ (cc s).run.vf), fun cr =>
          if ranged then { cr with asid := low 12 } else cr),
       (0x22, decide (8 < field v 60 4), fun cr =>
          { cr with edgebase := BitVec.ofNat 64 (size * 2 ^ 60 + v.toNat % 2 ^ 55 / 2 ^ 16 * 2 ^ 16) }),
       (0x28, false, fun cr => { cr with farlost := low 32 })]
    let writes := fun e : Nat × Bool × (Cr → Cr) => ChangesCore (.cwr f o) s fun k =>
      { k with regs := { k.regs with cr := e.2.2 (if e.2.1 then crWarn k.regs.cr wReserved else k.regs.cr) } }
    (∀ e ∈ task, e.1 = n → writes e) ∧ (Supervisor s → ∀ e ∈ sup, e.1 = n → writes e)
    ∧ ((∀ e ∈ task ++ sup, e.1 ≠ n) → writes (n, true, id))

/-- R321, R376: PERFRD reads a counter, those from 64 on at supervisor level; an unlisted number reads 0 with
W_RESERVED. -/
def Obligations.CounterRead : Prop :=
  ∀ (f : Frame) (o : OpY) (s : State), predOk s f = true →
    let n := o.imm.toNat % 256
    let listed := n < 20 ∨ (64 ≤ n ∧ n ≤ 70)
    (64 ≤ n → Supervisor s) →
    (listed → GivesScalar (.perfrd f o) s o.x (SMap.get (fun _ => 0) (cc s).counters n))
    ∧ (¬ listed → GivesReserved 1 (.perfrd f o) s o.x 0)

/-- R229, R302, R374, R379, R380: the supervisor-only instructions at supervisor level. -/
def Obligations.SupervisorForms : Prop :=
  ∀ (f : Frame) (o : OpY) (x : Trans) (s : State), predOk s f = true → Supervisor s →
    let ea := srcS s o.y + o.imm.signExtend 64
    let link : HostLink := SMap.get (fun _ => {}) s.hostLinks (x.pa / 2 ^ 48 % 2)
    let pages := (List.range 13).filterMap fun i =>
      if i = 0 then some ea.toNat
      else if (ea.toNat / 65536 + i) * 65536 < ea.toNat + 761856 then some ((ea.toNat / 65536 + i) * 65536) else none
    let area := fun load : Bool => ea.toNat % 4096 = 0 ∧ ∀ a ∈ pages, ∃ t,
      translate s (vmid (cc s)) (asidOf s (oldCore s)) a load (!load) false [0] = .ok t ∧ isFlagPage t.pa = false
        ∧ targetDown s t.pa = false
    let host := translate s (vmid (cc s)) (asidOf s (oldCore s)) ea.toNat false false false [] = .ok x
      ∧ isHostMem x.pa = true
    Enters (.tagnewRoot f o) s false (.tagnew true 0 ((srcS s o.z).setWidth 32) o.x.toNat)
    ∧ (host → Enters (.biasflipHost f o) s true (.biasflip true ea.toNat))
    ∧ (host → link.cxl = true → Enters (.biasflipDev f o) s true (.biasflip false ea.toNat))
    ∧ (area false → Enters (.ctxsave f o) s true (.ctxsave ea.toNat none 0))
    ∧ (area true → (cc s).held = false → Enters (.ctxload f o) s true (.ctxload ea.toNat [] 0))
    ∧ (s.ctx.slot = 3 → exec (.eret f o) s =
        .next { s with ctx := { s.ctx with eret := true, wr := s.ctx.wr ++ [(3, 0, s.ctx.slot)] } })

/-- R61, R22, R321: a supervisor-only instruction at task level takes PRIVILEGED, cause 3, with its word, whatever its
predicate; so does CRD or CWR of a register that its level may not read or write, where its predicate is true. -/
def Obligations.PrivilegeTraps : Prop :=
  ∀ (f : Frame) (o : OpY) (s : State), ¬ Supervisor s → HasVector s →
    let traps := fun i : Instr => ∃ t, exec i s = .next t ∧ TrapTaken s t 0x03 s.ctx.pc s.ctx.slot s.ctx.word
    traps (.eret f o) ∧ traps (.tagnewRoot f o) ∧ traps (.biasflipHost f o) ∧ traps (.biasflipDev f o)
    ∧ traps (.ctxsave f o) ∧ traps (.ctxload f o)
    ∧ (64 ≤ o.imm.toNat % 256 → traps (.perfrd f o))
    ∧ (predOk s f = true → o.imm.toNat % 4096 ∈ [1, 2, 3, 4, 5, 6] → traps (.crd f o) ∧ traps (.cwr f o))
    ∧ (predOk s f = true → o.imm.toNat % 4096 ∈ [0x00, 0x10, 0x22, 0x28] → traps (.cwr f o))

/-- R360, R362, R373: BRK takes BREAKPOINT as its bundle issues; on a core without a trap vector it marks the run as
cancelled and does nothing else. TRAP leaves TRAP_INSN to be taken after its bundle, the lowest slot's of several. -/
def Obligations.BreakAndTrap : Prop :=
  ∀ (f : Frame) (o : OpY) (s : State), predOk s f = true →
    (HasVector s → ∃ t, exec (.brk f o) s = .next t ∧ TrapTaken s t 0x15 s.ctx.pc s.ctx.slot (o.imm.setWidth 64))
    ∧ (¬ HasVector s → ChangesCore (.brk f o) s fun k => { k with cancelled := true, stall := .none, waited := 0 })
    ∧ exec (.trap f o) s = .next { s with ctx := { s.ctx with after := match s.ctx.after with
        | some x => some x
        | none => some { cause := 0x04, eslot := BitVec.ofNat 2 s.ctx.slot, einfo := o.imm.setWidth 64 } } }

/-- R28, R72, R120, R128, R205, R279, R332: a queue-routed slot that nothing stops pushes its command with the descriptors
that it captures; one whose predicate is false pushes its takes and gives alone. Where a push traps: the first descriptor that
fails takes DESCRIPTOR_INVALID, cause 0x14, with the first of its reasons (before it, descriptors without a stash side that
pass), a copy without a stash side reason 11; MMA and CPY that break the bank rule take BANK_CONFLICT, cause 8, with the rule;
and a slot that would install if a rule slot were free takes RULE_FAULT, cause 0x0A. -/
def Obligations.QueuePush : Prop :=
  ∀ (f : Frame) (v : OpV) (e : OpE) (s : State), s.role = .slot → ∀ i ∈ queueForms f v e,
    (predOk s f = false → Pushes i s 0 (pushed s true []))
    ∧ (predOk s f = true → queueBlock i f s = none → instBit s.ctx.word = false → Pushes i s 0 (pushed s false
        (if opcodeOf s.ctx.word < 0xA0 then [] else capture (namedBy i s) (srcD s))))
    ∧ (predOk s f = true → HasVector s →
        let traps := fun (cause : BitVec 8) (einfo : Nat) =>
          LeadsTo i s fun t => TrapTaken s t cause s.ctx.pc s.ctx.slot (BitVec.ofNat 64 einfo)
        let word := s.ctx.word
        let asid := asidOf s (oldCore s)
        let used := namedBy i s
        let d := fun u : Use => srcD s u.reg
        let passes := fun u : Use => firstReason (d u) u.types = none
        let plain := fun u : Use => passes u ∧ onStash (d u) = false
        let held := fun w : W512 => (∃ x ∈ (cc s).wins, overlaps x.desc w = true ∧ sameMapping x.desc w = false)
          ∨ ∃ r ∈ liveRanges (cc s), overlaps r w = true ∧ sameMapping r w = false
        (instBit word = false →
          (∀ before u after, used = before ++ u :: after → (∀ v ∈ before, plain v) →
            (∀ r, firstReason (d u) u.types = some r → traps 0x14 (r + 256 * u.reg))
            ∧ (passes u → onStash (d u) = true → held (d u) → traps 0x14 (9 + 256 * u.reg))
            ∧ (passes u → hasWindow (d u) = true → ¬ held (d u) → 64 ≤ (cc s).wins.length →
                (∀ x ∈ (cc s).wins, sameMapping x.desc (d u) = false) → traps 0x14 (10 + 256 * u.reg)))
          ∧ ((∀ u ∈ used, plain u) →
              ∀ g, i ∈ [.cpy g e, .cpyg g e, .cpys g e, .cpyidx g e] → opcodeOf word ∈ [0xB0, 0xB1, 0xB2, 0xB3] →
                traps 0x14 (11 + 256 * e.dA.toNat))
          ∧ ∀ k, checkUses asid (srcD s) (cc s) used = .ok k →
            let a := srcD s e.dA.toNat
            let b := srcD s e.dB.toNat
            let inA := onStash a = true ∧ dGroup a = 0
            let inB := onStash b = true ∧ dGroup b = 1
            ∀ g, (i = .mma g e → opcodeOf word = 0xA0 →
                (¬ inA → traps 8 (1 + 256 * e.dA.toNat)) ∧ (inA → ¬ inB → traps 8 (2 + 256 * e.dB.toNat))
                ∧ (inA → inB → rowUnits a % 8 = 0 → traps 8 (3 + 256 * e.dA.toNat))
                ∧ (inA → inB → rowUnits a % 8 ≠ 0 → rowUnits b % 16 = 0 → traps 8 (4 + 256 * e.dB.toNat)))
              ∧ (i = .cpy g e → opcodeOf word = 0xB0 → onStash a = true → onStash b = true → isOpen a = false →
                  dGroup a = dGroup b → traps 8 (5 + 256 * e.dA.toNat)))
        ∧ (∀ pos, instKind word used (srcD s) = .install pos → (∀ n, n < 32 → (getRule (cc s) n).st ≠ .free) →
            queueBlock i f (onCur s fun k => { k with rules := [] }) = none → traps 0x0A 0))

/-- R62, R279, R280: with the install bit set, a slot with one open descriptor that it reads installs a standing rule in the
lowest free slot, at the record's holdlow; with none, or one that it only writes, it executes once; with two or more it only
takes and gives. Both of these set W_INSTALL. A register that two fields name counts twice: the model's choice, log entry 74. -/
def Obligations.InstallBit : Prop :=
  ∀ (f : Frame) (v : OpV) (e : OpE) (s : State), s.role = .slot → predOk s f = true → instBit s.ctx.word = true →
    ∀ i ∈ queueForms f v e, queueBlock i f s = none →
    let us := namedBy i s
    let opens := us.filter fun u => isOpen (srcD s u.reg)
    let once := Pushes i s 1 (pushed s false (if opcodeOf s.ctx.word < 0xA0 then [] else capture us (srcD s)))
    (opens = [] → once)
    ∧ (∀ u, opens = [u] → u.write = true ∨ opcodeOf s.ctx.word = 0xB5 → once)
    ∧ (2 ≤ opens.length → Pushes i s 1 (pushed s true []))
    ∧ (∀ u n t, opens = [u] → u.write = false → opcodeOf s.ctx.word ≠ 0xB5 → us.find? (fun x => decide (x.pos = u.pos)) = some u →
        freeRuleSlot (cc s) = some n →
        translate s (vmid (cc s)) (asidOf s (oldCore s)) (dOtr (srcD s u.reg)) false false false [] = .ok t →
        ∃ x, exec i s = .next x ∧
          let r := getRule (cc x) n
          r.st = .armed ∧ r.cmd = pushed s false (capture us (srcD s)) ∧ r.srcPa = t.pa
            ∧ r.cursor = (getOT s t.pa).holdlow ∧ r.seq = (cc s).installSeq + 1 ∧ (cc x).buf = (cc s).buf
            ∧ (getOT x t.pa).nrules = (getOT s t.pa).nrules + 1)

/-- R142, R146, R149, R150, R152, R153, R156, R102 to R104: the lane-wise instructions in register form (VADD, VSUB, VMUL,
VFMA, VFMS, VMIN, VMAX, VABS, VNEG, VRCP, VRSQRT, VSQRT, VEXP2, VLOG2, VSEL, VAND, VOR, VXOR, VSHL, VSHR, VSRA, VMOV)
give every active lane of vd its elements after their latency, and no other lane. -/
def Obligations.LanewiseRegisterForms : Prop :=
  ∀ (i : Instr) (e : Element) (s : State) (n : Nat) (x : Active), elementOf i = some e → AtVector s n x → x.rule = none →
    actV x = vecOf i →
    let o := vecOf i
    let t := if e.typed then o.type.toNat else 0
    GivesLanes i s n 0 o.vd.toNat e.latency (laneOn s o) fun l =>
      laneValue t e.typed ([lane s o.va l, lane s o.vb l, lane s o.vc l].take e.sources) e.value

/-- R91, R154, R168: the same instructions, and VCVT, in stream form, once a firing's elements have been read, plan one write
for every element that all its descriptors hold: the element's bits, with poison where a source is poisoned, in ascending
address order. VCVT converts each element from the type of fn<3:0>, and does not read its part. -/
def Obligations.LanewiseStreamForms : Prop :=
  ∀ (s : State) (n r : Nat) (x : Active), s.role = .agent 4 n → (actsOf (cc s) 4)[n]? = some x → x.rule = some r →
    x.stage = 1 → x.reads = [] → x.farOut = 0 →
    let streams := fun (i : Instr) (o : OpV) (sources : Nat) (typed : Bool) (value : List Nat → Nat) =>
      let out := operand s s.cur x 0 true
      let ins := (List.range sources).map fun j => operand s s.cur x (j + 1) false
      let ext := fun k : Nat => (out :: ins).foldl (fun m d => min m (d.dim k)) 65536
      let elem := fun p : Nat × Nat × Nat =>
        let vs := (List.range sources).map fun j => gotElem x (j + 1) (keyOf p.1 p.2.1 p.2.2)
        let poison := vs.any fun v => v.poison
        (p, BitVec.ofNat 64 (if poison && typed then poisonBits o.type.toNat else value (vs.map fun v => v.bits.toNat)), poison)
      ∃ t y, exec i s = .next t ∧ (actsOf (cc t) 4)[n]? = some y ∧ y.stage = 2 ∧ y.ran = true
        ∧ y.writes = planWrites out 0 5 true ((indices (ext 0) (ext 1) (ext 2)).map elem)
        ∧ SameMemory s t ∧ OthersSame s.cur s t ∧ PackageSame s t ∧ (cc t).regs = (cc s).regs ∧ (cc t).eng = (cc s).eng
    (∀ i e, elementOf i = some e → actV x = vecOf i → streams i (vecOf i) e.sources e.typed e.value)
    ∧ ∀ f o, actV x = o → streams (.vcvt f o) o 1 true fun l =>
        (roundTo (valOf (o.fn.toNat % 16) (l.getD 0 0)) o.type.toNat o.rnd.toNat o.ovf.toNat).bits

/-- R154, R155, R157, R160: VCVT's conversions in register form, VCMP's and KOP's mask results, and KPOPC's count, which
is due in the reply queue. -/
def Obligations.ConversionsAndMasks : Prop :=
  ∀ (f : Frame) (o : OpV) (s : State) (n : Nat) (x : Active), AtVector s n x → x.rule = none → actV x = o →
    let t := o.type.toNat
    let per := 32 / tyBits t
    let src := o.fn.toNat % 16
    let part := o.fn.toNat / 16
    let perS := 32 / tyBits src
    let count := 64 * min perS per
    let from_ := fun q : Nat =>
      if perS ≤ per then (if part * count ≤ q ∧ q < (part + 1) * count then some (q - part * count) else none)
      else if q < count then some (part * count + q) else none
    let el := fun (ty : Nat) (v : PV 32) (j : Nat) => v.bits.toNat / 2 ^ (tyBits ty * j) % 2 ^ tyBits ty
    let srcLane := fun e : Nat => lane s o.va (e / perS)
    let hurt := fun l : Nat => (List.range per).any fun j => (from_ (l * per + j)).any fun e => (srcLane e).poison
    let kept := fun l : Nat => (List.range per).any fun j => (from_ (l * per + j)).isNone
    let sub := o.fn.toNat / 8 % 4
    let a := fun l : Nat => valOf t (el t (lane s o.va l) sub)
    let b := fun l : Nat => valOf t (el t (lane s o.vb l) sub)
    let cond := fun l : Nat => match o.fn.toNat % 8 with
      | 0 => eqF (a l) (b l)
      | 1 => !eqF (a l) (b l)
      | 2 => ltF (a l) (b l)
      | 3 => leF (a l) (b l)
      | 4 => ltF (b l) (a l)
      | _ => leF (b l) (a l)
    let p := maskReg s (o.va.toNat % 8)
    let q := maskReg s (o.vb.toNat % 8)
    GivesLanes (.vcvt f o) s n 0 o.vd.toNat 4
      (fun l => laneOn s o l && (List.range per).any fun j => (from_ (l * per + j)).isSome)
      (fun l => { bits := packLane t ((List.range per).map fun j => match from_ (l * per + j) with
                    | none => el t (lane s o.vd l) j
                    | some e => if hurt l then poisonBits t
                      else (roundTo (valOf src (el src (srcLane e) (e % perS))) t o.rnd.toNat o.ovf.toNat).bits),
                  poison := hurt l || (kept l && (lane s o.vd l).poison) })
    ∧ (sub < per → GivesMask (.vcmp f o) s n (o.vd.toNat % 8) 2 (laneOn s o)
        (fun l => !(lane s o.va l).poison && !(lane s o.vb l).poison && cond l))
    ∧ GivesMask (.kop f o) s n (o.vd.toNat % 8) 2 (fun l => decide (l < 64))
        (fun l => match o.fn.toNat with
          | 0 => p.getLsbD l && q.getLsbD l
          | 1 => p.getLsbD l || q.getLsbD l
          | 2 => p.getLsbD l != q.getLsbD l
          | 3 => p.getLsbD l && !q.getLsbD l
          | _ => !p.getLsbD l)
    ∧ (∃ t y, exec (.kpopc f o) s = .next t ∧ VectorStep s t n 0 1 ∧ (cc t).flight = []
        ∧ (actsOf (cc t) 4)[n]? = some y
        ∧ y.rq = [{ bits := BitVec.ofNat 64 ((List.range 64).countP fun i => p.getLsbD i) }])

/-- R156, R160, R166, R167: the moves between lanes, VIOTA, VRAND, VEXT's reply and VNOP's positions. An element index
beyond the count is taken modulo it with a warning. -/
def Obligations.LaneMoves : Prop :=
  ∀ (f : Frame) (o : OpV) (s : State) (n : Nat) (x : Active), AtVector s n x → actV x = o →
    let t := o.type.toNat
    let per := 32 / tyBits t
    let count := 64 * per
    let k := o.imm.toNat % 256 % count
    let w := if count ≤ o.imm.toNat % 256 then 1 else 0
    let el := fun (v : PV 32) (j : Nat) => v.bits.toNat / 2 ^ (tyBits t * j) % 2 ^ tyBits t
    let named := lane s o.va (k / per)
    let first := lane s o.va 0
    let old := lane s o.vd (k / per)
    let key : W64 := (lane s o.va 1).bits ++ (lane s o.va 0).bits
    let ctr : W64 := (lane s o.vb 1).bits ++ (lane s o.vb 0).bits
    let hurt := (lane s o.va 0).poison || (lane s o.va 1).poison || (lane s o.vb 0).poison || (lane s o.vb 1).poison
    let value := el named (k % per)
    let read := if named.poison then poisonBits t else value
    GivesLanes (.vperm f o) s n 0 o.vd.toNat 6 (laneOn s o) (fun l =>
        let v := lane s o.va ((lane s o.vb l).bits.toNat % 64)
        { bits := v.bits, poison := v.poison || (lane s o.vb l).poison })
    ∧ GivesLanes (.vbcast f o) s n w o.vd.toNat 6 (laneOn s o) (fun _ =>
        { bits := packLane t (List.replicate per (if named.poison then poisonBits t else value)),
          poison := named.poison })
    ∧ GivesLanes (.viota f o) s n 0 o.vd.toNat 2 (laneOn s o) (fun l =>
        { bits := packLane t ((List.range per).map fun j => l * per + j) })
    ∧ GivesLanes (.vins f o) s n w o.vd.toNat 6 (fun l => decide (l = k / per)) (fun _ =>
        { bits := packLane t ((List.range per).map fun j =>
            if j = k % per then (if first.poison then poisonBits t else el first 0) else el old j),
          poison := first.poison || (decide (1 < per) && old.poison) })
    ∧ GivesLanes (.vrand f o) s n 0 o.vd.toNat 8 (laneOn s o) (fun l =>
        let y := vrandLane key ctr l
        { bits := BitVec.ofNat 32 (if hurt then poisonBits t
            else if t = 0 then rneBits (.fin false (y.toNat / 2 ^ 40) (-24)) else y.toNat / 2 ^ 32),
          poison := hurt })
    ∧ (∃ u y, exec (.vext f o) s = .next u ∧ VectorStep s u n w 1 ∧ (cc u).flight = []
        ∧ (actsOf (cc u) 4)[n]? = some y
        ∧ y.rq = [{ bits := if isSigned t then BitVec.ofInt 64 (intOf t read) else BitVec.ofNat 64 read,
                    poison := named.poison }])
    ∧ (x.ran = false → o.imm.toNat ≤ 1 → ∃ u, exec (.vnop f o) s = .next u ∧ VectorStep s u n 0 1)
    ∧ (x.ran = false → 1 < o.imm.toNat → ∃ u y, exec (.vnop f o) s = .next u ∧ (cc u).vpos = (cc s).vpos + 1
        ∧ (actsOf (cc u) 4)[n]? = some y ∧ y.ran = false ∧ y.pend = o.imm.toNat - 1)

/-- R158, R159, R163: VRED writes every lane of vd with one value, whatever the mask; VSCAN every element with the value of
the active elements up to it; VTOPK the ranking of the active lanes, its indices into vd and its values into vb. A poisoned
active lane poisons what it reaches. -/
def Obligations.ReductionsAndRanking : Prop :=
  ∀ (f : Frame) (o : OpV) (s : State) (n : Nat) (x : Active), AtVector s n x → actV x = o →
    let t := o.type.toNat
    let per := 32 / tyBits t
    let all := List.range (64 * per)
    let el := fun e : Nat => (lane s o.va (e / per)).bits.toNat / 2 ^ (tyBits t * (e % per)) % 2 ^ tyBits t
    let on := fun e : Nat => laneOn s o (e / per)
    let acts := (all.filter on).map el
    let hurt := (List.range 64).any fun l => laneOn s o l && (lane s o.va l).poison
    let rounded := fun v : FV => (roundTo v t o.rnd.toNat o.ovf.toNat).bits
    let sum := tree (!isFloat t) (Nat.log2 (64 * per)) (all.map fun e => if on e then some (valOf t (el e)) else none)
    let every := fun (v : Nat) (p : Bool) => ({ bits := packLane t (List.replicate per v), poison := p } : PV 32)
    let extreme := fun (isMax : Bool) => match acts.map (valOf t) with
      | [] => identityOf t (if isMax then 1 else 2)
      | h :: l => (roundTo (l.foldl (extF isMax) h) t 0 0).bits
    let upTo := fun e : Nat => (List.range (e + 1)).filter on
    let scanned := fun e : Nat =>
      if (upTo e).any fun q => (lane s o.va (q / per)).poison then poisonBits t
      else if o.fn = 0 then
        rounded ((upTo e).foldl (fun acc q => if isFloat t then add32 acc (valOf t (el q)) else addF false acc (valOf t (el q)))
          (.fin false 0 0))
      else match (upTo e).map fun q => valOf t (el q) with
        | [] => identityOf t o.fn.toNat
        | h :: l => (roundTo (l.foldl (extF (decide (o.fn = 1))) h) t 0 0).bits
    let scanHurt := fun l : Nat => (upTo (l * per + per - 1)).any fun q => (lane s o.va (q / per)).poison
    let k := if o.imm.toNat % 128 = 0 ∨ 64 < o.imm.toNat % 128 then 64 else o.imm.toNat % 128
    let ranks := rankAll k (((List.range 64).filter (laneOn s o)).map fun l => (l, valOf t (lane s o.va l).bits.toNat))
    let whole := fun _ : Nat => true
    GivesLanes (.vred f o) s n 0 o.vd.toNat 12 whole (fun _ =>
        if hurt then every (poisonBits t) true
        else every (match o.fn.toNat with
          | 0 => rounded (sum.getD (.fin false 0 0))
          | 1 => extreme true
          | 2 => extreme false
          | 3 => acts.foldl (fun u v => u &&& v) (2 ^ tyBits t - 1)
          | 4 => acts.foldl (fun u v => u ||| v) 0
          | _ => acts.foldl (fun u v => u ^^^ v) 0) false)
    ∧ GivesLanes (.vscan f o) s n 0 o.vd.toNat 12 whole (fun l =>
        { bits := packLane t ((List.range per).map fun j => if scanHurt l then poisonBits t else scanned (l * per + j)),
          poison := scanHurt l })
    ∧ ∃ u, exec (.vtopk f o) s = .next u
        ∧ VectorStep s u n ((if 64 < o.imm.toNat % 128 then 1 else 0) + if o.vd = o.vb then 1 else 0) 1
        ∧ (∀ l, l < 64 → o.vd ≠ o.vb → Lands u o.vd.toNat l ((cc s).vpos + 24)
            { bits := if hurt then BitVec.allOnes 32 else match ranks[l]? with
                | some e => BitVec.ofNat 32 e.1
                | none => BitVec.allOnes 32
              poison := hurt })
        ∧ ∀ l, l < 64 → Lands u o.vb.toNat l ((cc s).vpos + 24)
            { bits := if hurt then BitVec.ofNat 32 (poisonBits t) else match ranks[l]? with
                | some e => BitVec.ofNat 32 (roundTo e.2 t 0 0).bits
                | none => 0
              poison := hurt }

/-- R161, R162, R164, R169, R238: what the stash forms of the vector engine do as they begin, with an offset that is
aligned and not poisoned: VLD and VLDG plan their reads, VST and VSTS their writes, VSHORT the reads of its row. -/
def Obligations.VectorStashForms : Prop :=
  ∀ (f : Frame) (o : OpV) (s : State) (n : Nat) (x : Active), AtVector s n x → actV x = o →
    let t := o.type.toNat
    let off := ((lane s o.va 0).bits.toNat + 64 * o.imm.toNat) % 2 ^ 22
    let row := (lane s o.va 0).poison = false ∧ off % 4 = 0
    let each := ∀ l, l < 64 → laneOn s o l = true → (lane s o.va l).poison = false ∧ (lane s o.va l).bits.toNat % 2 ^ 22 % 4 = 0
    let regs := (List.range 64).map
    let begins := fun (i : Instr) (stage p : Nat) (reads writes : List Item) => ∃ u y, exec i s = .next u
      ∧ SameMemory s u ∧ OthersSame s.cur s u ∧ PackageSame s u ∧ (cc u).regs = (cc s).regs ∧ (cc u).eng = (cc s).eng
      ∧ (cc u).vpos = (cc s).vpos + p ∧ (cc u).flight = [] ∧ (actsOf (cc u) 4)[n]? = some y ∧ y.stage = stage
      ∧ y.reads = (if stage = 1 then reads else x.reads) ∧ y.writes = (if stage = 2 then writes else x.writes)
    let v := (lane s o.va 1).bits.toNat
    let len := if v = 0 then 1 else min v 1048576
    let start := (lane s o.va 0).bits.toNat % 2 ^ 22
    (row → begins (.vld f o) 1 1 (rowItems off [] false) [])
    ∧ (row → begins (.vst f o) 2 1 [] (rowItems off (regs (lane s o.vb)) true))
    ∧ (each → begins (.vldg f o) 1 1 (laneItems (maskReg s (field o.imm 9 3)) (regs (lane s o.va)) [] false) [])
    ∧ (each → begins (.vsts f o) 2 1 []
        (laneItems (maskReg s (field o.imm 9 3)) (regs (lane s o.va)) (regs (lane s o.vb)) true))
    ∧ ((lane s o.va 0).poison = false → (lane s o.va 1).poison = false → start % tySize t = 0 →
        start + len * tySize t ≤ 2 ^ 22 → len = v →
        begins (.vshort f o) 1 (ceilDiv (len * tySize t) 256 + 8) (shortItems t start len) [])

/-- R161, R162, R164, R165: what they do once their reads have returned: VLD and VLDG give the lanes that they read to vd
after 16 positions; VSHORT ranks its row into vd and vb after 24 and owes the reply queue the mass of its shortlist, with
W_SLOWROW where it falls short; a poisoned row's mass is the canonical NaN, which falls short. The mass of a poisoned row, and
that vd = vb gives vb's values with no warning, are the model's choice, log entry 68. -/
def Obligations.VectorStashResults : Prop :=
  ∀ (f : Frame) (o : OpV) (s : State) (n : Nat) (x : Active), s.role = .agent 4 n → (actsOf (cc s) 4)[n]? = some x →
    x.stage = 1 → x.reads = [] → x.farOut = 0 → (cc s).flight = [] → actV x = o →
    let loaded := fun l : Nat => ({ bits := (gotElem x 0 l).bits.setWidth 32, poison := (gotElem x 0 l).poison } : PV 32)
    let row := (List.range x.lo).map fun e => decodeF o.type.toNat (gotElem x 0 e).bits.toNat
    let hurt := (List.range x.lo).any fun e => (gotElem x 0 e).poison
    let ranks := rankAll 64 ((List.range row.length).zip row)
    let mass := if hurt then (0x7FC00000, true) else shortMass row ranks x.cmd.shortmass
    (∃ u, exec (.vld f o) s = .next u ∧ VectorStep s u n 0 0
        ∧ LanesGiven u o.vd.toNat (x.pos + 16) (fun _ => true) loaded)
    ∧ (∃ u, exec (.vldg f o) s = .next u ∧ VectorStep s u n 0 0
        ∧ LanesGiven u o.vd.toNat (x.pos + 16) (fun l => x.lo.testBit l) loaded)
    ∧ ∃ u y, exec (.vshort f o) s = .next u ∧ SameMemory s u ∧ OthersSame s.cur s u ∧ PackageSame s u
        ∧ (cc u).regs = { (cc s).regs with
            cr := if mass.2 = true then crWarn (cc s).regs.cr wSlowrow else (cc s).regs.cr }
        ∧ (actsOf (cc u) 4)[n]? = some y ∧ y.ran = true
        ∧ y.rq = [{ bits := BitVec.ofNat 64 (mass.1 + if mass.2 then 2 ^ 32 else 0), poison := hurt }]
        ∧ ∀ l, l < 64 →
          (o.vd ≠ o.vb → Lands u o.vd.toNat l (x.pos + 24)
            { bits := if hurt then BitVec.allOnes 32 else match ranks[l]? with
                | some e => BitVec.ofNat 32 e.1
                | none => BitVec.allOnes 32
              poison := hurt })
          ∧ Lands u o.vb.toNat l (x.pos + 24)
            { bits := if hurt then 0x7FC00000 else match ranks[l]? with
                | some e => BitVec.ofNat 32 (roundTo e.2 0 0 0).bits
                | none => 0
              poison := hurt }

/-! ### Matrix, epilogue, copies, attention and the Sorus bank -/

/-- R98, R124, R131, R133 to R135: once its reads have returned, MMA gives every element of its M × N corner of the tile
the two-chain sum, with one W_FALLBACK for each length that it lowers; MZERO clears a tile; MTBL gives a table 16 entries,
+0 where the stream has none; MTBL.prod gives the exact products of two tables. Nothing else changes. -/
def Obligations.MatrixCommands : Prop :=
  ∀ (f : Frame) (e : OpE) (s : State) (a n : Nat) (x : Active), AtCommand s a n x 1 → Returned x → actE x = e →
    let A := operand s s.cur x 0 false
    let B := operand s s.cur x 1 false
    let g := (cc s).eng
    let cr := (cc s).regs.cr
    let k := min (rawDim A 0) (rawDim B 0)
    let kr := min (min k 4096) (min (ownDim A 0) (ownDim B 0))
    let falls := (if 128 < rawDim A 1 then 1 else 0) + (if 64 < rawDim B 1 then 1 else 0)
      + (if rawDim A 0 ≠ rawDim B 0 then 1 else 0) + if 4096 < k then 1 else 0
    let prior := fun i j : Nat =>
      if e.mods.getLsbD 0 then (FV.fin false 0 0, false)
      else (f32 (getAcc g e.acc.toNat i j).bits.toNat, (getAcc g e.acc.toNat i j).poison)
    let read := fun i j q : Nat =>
      if i < ownDim A 1 ∧ j < ownDim B 1 ∧ q < kr then some (product g x A B i j q) else none
    let entry := fun q : Nat =>
      let v := gotElem x 0 (keyOf q 0 0)
      if q < ownDim A 0 then ({ bits := v.bits.setWidth 16, poison := v.poison } : PV 16) else {}
    let ty := e.mods.toNat % 8
    Performs (.mma f e) s a n (fallbacks falls cr)
      (TileGiven e.acc.toNat (min (rawDim A 1) 128) (min (rawDim B 1) 64) fun i j =>
        mmaElement (prior i j) (decide (dType A.d = 5) && decide (dType B.d = 5)) (min k 4096) (read i j))
      (fun y => y.writes = x.writes)
    ∧ Performs (.mzero f e) s a n cr (TileGiven e.acc.toNat 128 64 fun _ _ => {}) (fun y => y.writes = x.writes)
    ∧ Performs (.mtbl f e) s a n cr
        (fun g h => (∀ q, q < 16 → getTb h e.acc.toNat q = entry q)
          ∧ (∀ t q, q < 16 → t ≠ e.acc.toNat → getTb h t q = getTb g t q) ∧ { h with tb := g.tb } = g)
        (fun y => y.writes = x.writes)
    ∧ Performs (.mtblProd f e) s a n cr
        (fun g h => (∀ p q, p < 16 → q < 16 → getProd h p q =
            { bits := productWord (mulF (decodeF 1 (getTb g e.acc.toNat p).bits.toNat) (decodeF 1 (getTb g ty q).bits.toNat)),
              poison := (getTb g e.acc.toNat p).poison || (getTb g ty q).poison }) ∧ { h with prod := g.prod } = g)
        (fun y => y.writes = x.writes)

/-- R136 to R140: once its parameters have returned, EPI plans one write for every element of its output: the tile's element,
scaled by row and column, biased and activated as the modifiers say, converted; EPIRED plans one for each row, reduced; both
then clear the tile under clr. EPIFN loads the activation table, or the identity with W_FALLBACK. That EPIFN judges a poisoned
lo or sc by its bits is the model's choice, log entry 66. -/
def Obligations.EpilogueCommands : Prop :=
  ∀ (f : Frame) (e : OpE) (s : State) (a n : Nat) (x : Active), AtCommand s a n x 1 → Returned x → actE x = e →
    let o := operand s s.cur x 0 true
    let pr := operand s s.cur x 1 false
    let pc := operand s s.cur x 2 false
    let A := operand s s.cur x 0 false
    let g := (cc s).eng
    let cr := (cc s).regs.cr
    let scaled := fun (on : Bool) (v p : FV × Bool) => if on then (mul32 v.1 p.1, v.2 || p.2) else v
    let value := fun i j : Nat =>
      let acc := getAcc g e.acc.toNat i j
      let v := scaled (e.mods.getLsbD 14) (f32 acc.bits.toNat, acc.poison) (param x pr 1 i 0 1)
      let v := scaled (e.mods.getLsbD 13) v (param x pc 2 j 0 1)
      let b := param x pc 2 j 1 0
      let v := if e.mods.getLsbD 12 then (add32 v.1 b.1, v.2 || b.2) else v
      let w := actEval g v.1
      if e.mods.getLsbD 11 then (w.1, v.2 || w.2) else v
    let conv := fun v : FV × Bool => convertTo v.1 v.2 (dType o.d) (field e.mods 15 3) (field e.mods 18 2)
    let out := fun (ix : Nat × Nat × Nat) (v : FV × Bool) => (ix, BitVec.ofNat 64 (conv v).bits, (conv v).poison)
    let rows := List.range (min (ownDim o 1) 128)
    let cols := List.range (min (ownDim o 0) 64)
    let ncol := if field e.mods 4 6 = 0 then 64 else field e.mods 4 6
    let reduced := fun i : Nat => reduceRow e.fn.toNat ((List.range ncol).map (value i))
    let cleared := fun g h : EngRegs =>
      if e.mods.getLsbD 10 then TileGiven e.acc.toNat 128 64 (fun _ _ => {}) g h else h = g
    let word := fun q : Nat =>
      let v := gotElem x 0 (keyOf q 0 0)
      if q < ownDim A 0 then ({ bits := v.bits.setWidth 32, poison := v.poison } : PV 32) else actDefault q
    let usable_ := actUsable (f32 (word 0).bits.toNat) (f32 (word 1).bits.toNat)
    Performs (.epi f e) s a n cr cleared (fun y =>
        y.writes = (rows.flatMap fun i => planWrites o 0 6 true (cols.map fun j => out (j, i, 0) (value i j)))
        ∧ y.fpN = x.fpN + ((rows.flatMap fun i => cols.map fun j => conv (value i j)).filter fun v => v.trap).length)
    ∧ Performs (.epired f e) s a n cr cleared (fun y =>
        y.writes = planWrites o 0 6 true ((List.range (min (ownDim o 0) 128)).map fun i => out (i, 0, 0) (reduced i)))
    ∧ Performs (.epifn f e) s a n (fallbacks (if usable_ then 0 else 1) cr)
        (fun g h => (∀ q, q < 264 → getActWord h q = if usable_ then word q else actDefault q) ∧ { h with act := g.act } = g)
        (fun y => y.writes = x.writes)

/-- R203, R230, R233 to R236: what a copy that does not append plans, once it is first on its channel; one behind another has
no access to make yet. CPY moves every element of the common region
to the same place; CPYFILL writes the pad value over its destination; CPYIDX moves the row that the reply queue names, and
CPYG and CPYS, once their indices have returned, the rows that the index stream names: a row out of range is filled or left
out, with one W_FALLBACK; CPYMIR copies the slices from the mirror cursor to C, both as they stand at its issue (a record without a mirror has
nothing to be written, and the words of the header are the model's reading: its choices, log entry 18). pub without an append
warns, once. CPYIDX takes the head of the reply queue first; its firing that has waited on an empty one leaves an edge. -/
def Obligations.CopyCommands : Prop :=
  ∀ (f : Frame) (e : OpE) (s : State) (a n : Nat) (x : Active), s.role = .agent a n → (actsOf (cc s) a)[n]? = some x →
    x.skip = false → x.halted = none → x.appending = false → appends x = false →
    let A := operand s s.cur x 0 true
    let B := operand s s.cur x 1 false
    let port := copyPort x
    let d := fun k : Nat => min (A.dim k) (B.dim k)
    let cr := (cc s).regs.cr
    let w := if x.begun = false ∧ x.cmd.word.getLsbD 0 = true then 1 else 0
    let turn := a < 8 ∨ n = 0
    let all := sameMoves (indices (d 0) (d 1) (d 2))
    let row := rowMoves (d 0)
    let moved := fun (sorted : Bool) (l : List Move) => moveWrites A 0 port sorted 0 l
    let filled := moveWrites A 4 port true (padValue B.d)
    let done := fun y : Active => y.stage = 2 ∧ y.ran = true
    let rows := fun m : Nat => (List.range (min (bounded (x.cmd.descs.getD 2 0) 0) m)).map fun r =>
      (r, (gotElem x 2 (keyOf r 0 0)).bits.toNat)
    let sound := ∀ r, r < bounded (x.cmd.descs.getD 2 0) 0 → (gotElem x 2 (keyOf r 0 0)).poison = false
    let falls := fun (k : Nat) (l : List (Nat × Nat)) => if l.any fun p => decide (k ≤ p.2) then 1 else 0
    let gath := rows (rawDim A 1)
    let scat := rows (rawDim B 1)
    (x.stage = 0 → turn → Plans (.cpy f e) s a n (fallbacks w cr) (moveReads s B 1 port all).1 (moved true all) done)
    ∧ (x.stage = 0 → ¬ turn → ∀ i ∈ [Instr.cpy f e, .cpyfill f e, .cpyg f e, .cpys f e],
        Plans i s a n (fallbacks w cr) x.reads x.writes (fun y => y.stage = 0 ∧ y.begun = true))
    ∧ (x.stage = 0 → turn → Plans (.cpyfill f e) s a n (fallbacks w cr) x.reads
        (moveWrites A 4 port true (padValue A.d) (sameMoves (indices (A.dim 0) (A.dim 1) (A.dim 2)))) done)
    ∧ (x.stage = 0 → x.rq = [] → ∀ v vs, (cc s).rq = v :: vs → v.axq ≠ some s.now → v.val.poison = false →
        ∃ t, exec (.cpyidx f e) s = .next t ∧ (cc t).rq = vs ∧ (actsOf (cc t) a)[n]? = some { x with rq := [v.val] }
          ∧ (cc t).regs = (cc s).regs ∧ (cc t).eng = (cc s).eng ∧ OthersSame s.cur s t
          ∧ (x.rule ≠ none → x.waited ≠ 0 → (cc t).edgeSeq = nextSeq (cc s).edgeSeq)
          ∧ (x.rule = none ∨ x.waited = 0 → (cc t).edgeSeq = (cc s).edgeSeq ∧ SameMemory s t))
    ∧ (x.stage = 0 → turn → ∀ v, x.rq = [v] →
        (v.bits.toNat < B.dim 1 → Plans (.cpyidx f e) s a n (fallbacks w cr)
          (moveReads s B 1 port (row 0 0 v.bits.toNat)).1 (moved true (row 0 0 v.bits.toNat)) done)
        ∧ (B.dim 1 ≤ v.bits.toNat →
          Plans (.cpyidx f e) s a n (fallbacks (w + 1) cr) [] (filled (row 0 0 0)) done))
    ∧ (x.stage = 0 → x.rq = [] → ((cc s).rq = [] ∨ ∀ v ∈ (cc s).rq, v.axq = some s.now) → NoEffect (.cpyidx f e) s)
    ∧ (x.stage = 0 → x.rq = [] → x.rule = none → ∀ v vs, (cc s).rq = v :: vs → v.axq ≠ some s.now → v.val.poison = true →
        ∃ t y, exec (.cpyidx f e) s = .next t ∧ (cc t).rq = vs ∧ (cc t).ptraps = (cc s).ptraps ++ [{ cause := 0x10 }]
          ∧ (actsOf (cc t) a)[n]? = some y ∧ done y ∧ y.writes = x.writes ∧ SameMemory s t)
    ∧ (x.stage = 0 → turn → Plans (.cpyg f e) s a n (fallbacks w cr) (indexReads s s.cur x).1 x.writes (fun y => y.stage = 1)
        ∧ Plans (.cpys f e) s a n (fallbacks w cr) (indexReads s s.cur x).1 x.writes (fun y => y.stage = 1))
    ∧ (x.stage = 1 → Returned x → sound →
        Plans (.cpyg f e) s a n (fallbacks (falls (B.dim 1) gath) cr)
          (moveReads s B 1 port ((gath.filter fun p => decide (p.2 < B.dim 1)).flatMap fun p => row p.1 p.1 p.2)).1
          (moved true ((gath.filter fun p => decide (p.2 < B.dim 1)).flatMap fun p => row p.1 p.1 p.2)
            ++ filled ((gath.filter fun p => decide (B.dim 1 ≤ p.2)).flatMap fun p => row p.1 p.1 0)) done
        ∧ Plans (.cpys f e) s a n (fallbacks (falls (A.dim 1) scat) cr)
          (moveReads s B 1 port ((scat.filter fun p => decide (p.2 < A.dim 1)).flatMap fun p => row p.1 p.2 p.1)).1
          (moved false ((scat.filter fun p => decide (p.2 < A.dim 1)).flatMap fun p => row p.1 p.2 p.1)) done)
    ∧ (x.stage = 0 → ∀ pa, B.ot = some pa → B.bad = false →
        let o := getOT s pa
        let lo := if x.begun then x.lo else o.mcursor
        let hi := if x.begun then x.hi else if o.mirrored then o.c else o.mcursor
        let fixed := fun y : Active => y.begun = true ∧ y.lo = lo ∧ y.hi = hi
        (n ≠ 0 → Plans (.cpymir f e) s a n cr x.reads x.writes fun y => y.stage = 0 ∧ fixed y)
        ∧ (n = 0 → hi ≤ lo → Plans (.cpymir f e) s a n cr x.reads x.writes fun y => done y ∧ fixed y)
        ∧ (n = 0 → lo < hi → ∃ t y, exec (.cpymir f e) s = .next t ∧ (actsOf (cc t) a)[n]? = some y
          ∧ done y ∧ fixed y ∧ y.writes = mirrorWrites s s.cur o lo hi ∧ SameMemory s t))

/-- R232, R237, R269, R276: a copy with pub and an open destination claims the next slice of its tensor as it issues, and
stands on it; where storage is missing it halts with QUOTA pending, and has claimed nothing; behind an earlier copy that has
its own claim on the tensor still to make it waits. -/
def Obligations.CopyClaims : Prop :=
  ∀ (f : Frame) (e : OpE) (s : State) (a n pa : Nat) (x : Active), AtCommand s a n x 0 → x.skip = false →
    x.halted = none → x.begun = false → appends x = true →
    recordPa s s.cur x.cmd.asid (dOtr (x.cmd.descs.getD 0 0)) = some pa → (getOT s pa).st = 1 →
    (getOT s pa).vf = vmid (cc s) →
    let o := getOT s pa
    ∀ i ∈ [Instr.cpy f e, .cpyfill f e, .cpyg f e, .cpys f e],
      (claimWaits s s.cur x pa = true → ∃ t, exec i s = .next t ∧ (actsOf (cc t) a)[n]? = some x ∧ SameMemory s t
        ∧ getOT t pa = o)
      ∧ (∀ u, claimWaits s s.cur x pa = false → claim s pa o.q = .ok u → ∃ t y, exec i s = .next t ∧ (actsOf (cc t) a)[n]? = some y
        ∧ y.begun = true ∧ y.appending = true ∧ y.slice = o.q ∧ y.pubs = [(pa, o.q)] ∧ o.q ∈ (getOT t pa).claims ∧ (getOT t pa).q = o.q + 1)
      ∧ (∀ k node, claimWaits s s.cur x pa = false → claim s pa o.q = .error (k, node) → ∃ t y, exec i s = .next t ∧ (actsOf (cc t) a)[n]? = some y
        ∧ y.halted = some { quotaTrap k node with port := some (copyPort x) } ∧ y.stage = 0
        ∧ y.halted.any (fun p => (cc t).ptraps.contains p) = true ∧ SameMemory s t)

/-- R172, R174, R175, R178, R181: SAQ fixes its range as it issues, from the counter that hsel selects down by the window,
with the pages of it held, and the layout of K and V and the record of an open output kept; once its reads have returned, every
row has a leaf for each page of the range. What of the records is taken at issue, the layout of K and V and which elements are
not read are the model's choices, log entry 17. SAMASK gives the 64 rows of the mask tile, or leaves it and owes POISON_CONSUMED
at its retirement. -/
def Obligations.SliceAttentionCommands : Prop :=
  ∀ (f : Frame) (e : OpE) (s : State) (n : Nat) (x : Active), s.role = .agent 5 n → (actsOf (cc s) 5)[n]? = some x →
    actE x = e → x.halted = none → x.s2 = false →
    let da := x.cmd.descs.getD 0 0
    let dk := x.cmd.descs.getD 2 0
    let dv := x.cmd.descs.getD 3 0
    let pa := fun d : W512 => (recordPa s s.cur x.cmd.asid (dOtr d)).getD 0
    let K := getOT s (pa dk)
    let hi := match field e.mods 18 2 with
      | 0 => K.p
      | 1 => K.t
      | _ => K.c
    let lo := if K.window = 0 then 0 else hi - K.window
    let rows := bounded (x.cmd.descs.getD 1 0) 1
    let spp := (x.geo.getD 0 (0, 0, 0)).2.1
    let count := if x.hi ≤ x.lo ∨ spp = 0 then 1 else (x.hi - 1) / spp - x.lo / spp + 1
    let levels := if count ≤ 1 then 0 else Nat.log2 (count - 1) + 1
    let bitsAt := fun d r : Nat => (gotElem x 0 (keyOf d r 0)).bits.toNat % 2 ^ 32
    (x.stage = 0 → recordFault s s.cur x.cmd.asid dk = none → recordFault s s.cur x.cmd.asid dv = none →
        ∃ t y, exec (.saq f e) s = .next t ∧ (actsOf (cc t) 5)[n]? = some y ∧ y.stage = 2 ∧ y.lo = lo ∧ y.hi = hi
          ∧ y.geo = [(pa dk, K.spp, K.slicebytes), (pa dv, (getOT s (pa dv)).spp, (getOT s (pa dv)).slicebytes)]
            ++ (match (if isOpen da then recordPa s s.cur x.cmd.asid (dOtr da) else none) with
              | some p => [(p, 0, 0)]
              | none => [])
          ∧ y.pages = rangePages s false (pa dk) lo hi ++ rangePages s true (pa dv) lo hi
          ∧ SameMemory s t ∧ OthersSame s.cur s t ∧ (cc t).regs = (cc s).regs ∧ (cc t).eng = (cc s).eng)
    ∧ (x.stage = 2 → Returned x → ∃ t y, exec (.saq f e) s = .next t ∧ (actsOf (cc t) 5)[n]? = some y ∧ y.stage = 3
        ∧ (∀ v ∈ y.tree, v.row < rows ∧ v.level = 0 ∧ v.pos < 2 ^ levels)
        ∧ (∀ r j, r < rows → j < 2 ^ levels → spp ≠ 0 → ∃ v ∈ y.tree, v.row = r ∧ v.level = 0 ∧ v.pos = j
          ∧ v.tri = leafTriple x r (((List.range spp).map fun i => (x.lo / spp + j) * spp + i).filter fun k =>
            decide (x.lo ≤ k) && decide (k < x.hi) && (!e.mods.getLsbD 3 || decide (x.hi ≤ k + 64 → (maskRow (cc s).eng r).getLsbD (k + 64 - x.hi) = true))))
        ∧ CoreOnly s.cur s t fun k => setActs k 5 ((actsOf k 5).set n y))
    ∧ (x.stage = 1 → Returned x → (∀ d r, d < 2 → r < 64 → (gotElem x 0 (keyOf d r 0)).poison = false) →
        Performs (.samask f e) s 5 n (cc s).regs.cr
          (fun g h => (∀ r, r < 64 → maskRow h r = BitVec.ofNat 64 (bitsAt 1 r * 2 ^ 32 + bitsAt 0 r)) ∧ { h with mask := g.mask } = g)
          (fun y => y.writes = x.writes))
    ∧ (x.stage = 1 → Returned x → (∃ d r, d < 2 ∧ r < 64 ∧ (gotElem x 0 (keyOf d r 0)).poison = true) →
        Performs (.samask f e) s 5 n (cc s).regs.cr (fun g h => h = g)
          (fun y => ∃ p : PTrap, y.traps = [p] ∧ p.cause = 0x10))

/-- R175, R176, R177: LAUTER_MERGE takes two sibling nodes, of the oldest SAQ that holds both, to one that holds
`lauter_merge` of them; SAQ_COMPLETE begins the writes of the oldest SAQ with every root, and, once the oldest has written its
rows, publishes through slice hi − 1 where pub asks (with no slice it only warns, and without storage it halts at QUOTA),
raises its flag where fen asks, and lets it retire; of an output record that may not be written it halts first. Each changes
nothing where no SAQ is so far, or the core stands still. -/
def Obligations.AttentionEvents : Prop :=
  ∀ (c row level e j : Nat) (s : State),
    let l := actsOf (getCore s c) 5
    let f := fun v : PV 32 => f32 v.bits.toNat
    let node := fun (t : State) (lv p : Nat) => findNodeAt (getAct (getCore t c) 5 j) row lv p
    let joins := fun y : Active => isSaq y = true ∧ 0 < level ∧ (findNodeAt y row (level - 1) (2 * e)).isSome = true
      ∧ (findNodeAt y row (level - 1) (2 * e + 1)).isSome = true
    let finished := fun y : Active => isSaq y = true ∧ y.stage = 3 ∧ y.ran = true ∧ y.writes = [] ∧ y.farOut = 0 ∧ y.halted = none
      ∧ y.s2 = false
    let stands := (getCore s c).frozen = true ∨ (getCore s c).fenced = true
    let first := fun P : Active → Prop => ∀ i y, i < j → l[i]? = some y → ¬ P y
    (stands → NoEffect (.lauterMerge c row level e) s ∧ NoEffect (.saqComplete c) s)
    ∧ ((∀ y ∈ l, ¬ joins y) → NoEffect (.lauterMerge c row level e) s)
    ∧ ((∀ y ∈ l, rootsReady y = false) → (∀ y, l.head? = some y → ¬ finished y) → NoEffect (.saqComplete c) s)
    ∧ (¬ stands → ∀ x u v, l[j]? = some x → isSaq x = true → 0 < level → findNodeAt x row (level - 1) (2 * e) = some u →
        findNodeAt x row (level - 1) (2 * e + 1) = some v → findNodeAt x row level e = none → first joins →
        ∃ t w, Sys2Proof.Machine.exec (.lauterMerge c row level e) s = .next t ∧ node t level e = some w
          ∧ node t (level - 1) (2 * e) = none ∧ node t (level - 1) (2 * e + 1) = none
          ∧ (u.tri.absent = true → w.tri = v.tri) ∧ (u.tri.absent = false → v.tri.absent = true → w.tri = u.tri)
          ∧ (u.tri.absent = false → v.tri.absent = false → u.tri.m.poison = false → v.tri.m.poison = false →
            let m := extF true (f u.tri.m) (f v.tri.m)
            let mix := fun p q : PV 32 =>
              rne (addF false (mul32 (f p) (weightF (f u.tri.m) m)) (mul32 (f q) (weightF (f v.tri.m) m)))
            w.tri.m = pv32 m false ∧ w.tri.l = pv32 (mix u.tri.l v.tri.l) false
              ∧ w.tri.o = (u.tri.o.zip v.tri.o).map fun p => pv32 (mix p.1 p.2) false)
          ∧ SameMemory s t ∧ OthersSame c s t ∧ PackageSame s t)
    ∧ (¬ stands → ∀ x b t₁, l[j]? = some x → rootsReady x = true → (∀ y, l.head? = some y → ¬ finished y) →
        (first fun y => rootsReady y = true) → saqOutBlock s c x = some b → b = .trap t₁ →
        ∃ t y, Sys2Proof.Machine.exec (.saqComplete c) s = .next t ∧ (actsOf (getCore t c) 5)[j]? = some y ∧ y.ran = false
          ∧ y.halted = some { t₁ with eslot := 0, port := some 7 } ∧ SameMemory s t ∧ OthersSame c s t)
    ∧ (¬ stands → ∀ x, l[j]? = some x → rootsReady x = true → (∀ y, l.head? = some y → ¬ finished y) →
        (first fun y => rootsReady y = true) → saqOutBlock s c x = none →
        ∃ t y, Sys2Proof.Machine.exec (.saqComplete c) s = .next t ∧ (actsOf (getCore t c) 5)[j]? = some y ∧ y.ran = true
          ∧ y.writes = saqWrites s c x ∧ SameMemory s t ∧ OthersSame c s t ∧ PackageSame s t)
    ∧ (¬ stands → ∀ x, l.head? = some x → finished x → saqRecord s c x ≠ none ∨ saqOutBlock s c x = none →
        let n := field (actE x).mods 4 6
        let pub := (actE x).mods.getLsbD 11
        let flag := getFlag (getCore s c) n
        let raised := flag.bits + if (actE x).mods.getLsbD 10 = true ∧ flag.poison = false then 1 else 0
        let ends := fun t : State => (∃ y, (actsOf (getCore t c) 5)[0]? = some y ∧ y.stage = 4)
          ∧ (getFlag (getCore t c) n).bits = raised ∧ ∀ i, i ≠ n → getFlag (getCore t c) i = getFlag (getCore s c) i
        (pub = false → ∃ t, Sys2Proof.Machine.exec (.saqComplete c) s = .next t ∧ ends t ∧ SameMemory s t ∧ OthersSame c s t)
        ∧ (pub = true → x.hi = 0 → ∃ t, Sys2Proof.Machine.exec (.saqComplete c) s = .next t ∧ ends t ∧ SameMemory s t
            ∧ OthersSame c s t ∧ (getCore t c).regs.cr = fallbacks 1 (getCore s c).regs.cr)
        ∧ (pub = true → x.hi ≠ 0 → ∀ pa, saqRecord s c x = some pa →
            (∀ u, publish s pa (x.hi - 1) (sigOf s c 5) = .ok u → ∃ t y, Sys2Proof.Machine.exec (.saqComplete c) s = .next t
              ∧ (actsOf (getCore t c) 5)[0]? = some y ∧ y.stage = 4 ∧ t.ots = u.ots ∧ SameMemory u t)
            ∧ (∀ k lost, publish s pa (x.hi - 1) (sigOf s c 5) = .error (k, lost) → ∃ t y,
              Sys2Proof.Machine.exec (.saqComplete c) s = .next t ∧ (actsOf (getCore t c) 5)[0]? = some y
              ∧ y.halted = some { quotaTrap k lost with port := some 7 } ∧ SameMemory s t)))

/-- R185, R186, R188, R189, R192 to R196: SRCFG sets the configuration, or for a poisoned radius leaves it and owes
POISON_CONSUMED; SRABS absorbs a vector into the bank, by its
register and by its descriptor form; SRMERGE merges the closest pair or the named one; SRREAD plans its outputs; SRSET
seeds or frees an entry; SRCLR clears the bank, or all but its configuration. -/
def Obligations.SorusCommands : Prop :=
  ∀ (f : Frame) (e : OpE) (s : State) (a n : Nat) (x : Active), s.role = .agent a n → (actsOf (cc s) a)[n]? = some x →
    actE x = e → x.skip = false →
    let b := (cc s).eng.sorus
    let A := operand s s.cur x 0 false
    let cr := (cc s).regs.cr
    let quiet := e.mods.getLsbD 0
    let room := (cc s).rq.length < 32
    let vec := vecGot x A b.dim
    let lanes := (List.range b.dim).map fun j => (f32 ((gotElem x 0 j).bits.toNat % 2 ^ 32), (gotElem x 0 j).poison)
    let absorbed := fun (i : Instr) (v : SVec) =>
      let r := srAbsorb b v
      (∀ d, r.full = some d → Performs i s a n cr (BankGiven b) (fun y => y.traps = [{ cause := 0x13, einfo := d }]))
      ∧ (r.full = none → room ∨ quiet = true → Performs i s a n (fallbacks r.warns cr) (BankGiven r.bank)
          (fun y => y.rq = if quiet then [] else r.reply.toList))
    let merges := fun (i : Instr) (p q : Nat) (d : FV × Bool) (poison : Bool) => Performs i s a n cr
      (BankGiven (srMerge b p q)) (fun y => y.rq = if e.mods.getLsbD 16 then []
        else [{ bits := srReply p q 6 p (pv32 d.1 d.2).bits, poison := poison }])
    let none_ := fun y : Active => y.rq = if e.mods.getLsbD 16 then [] else [{ bits := srReply 0 0 7 0 0 }]
    let p := field e.mods 8 8
    let q := field e.mods 0 8
    let m := field e.mods 0 8
    let count := field e.mods 8 12
    let entries := List.range 256
    let out := fun (pos : Nat) (rows : List (List ((Nat × Nat × Nat) × PV 32))) =>
      let o := operand s s.cur x pos true
      rows.flatMap fun row => planWrites o pos 7 true
        ((row.filter fun v => decide (v.1.1 < ownDim o 0) && decide (v.1.2.1 < ownDim o 1)).map fun v =>
          (v.1, v.2.bits.setWidth 64, v.2.poison))
    (x.stage = 1 → Returned x → (gotElem x 0 (keyOf 0 0 0)).poison = false → Performs (.srcfg f e) s a n cr
        (BankGiven { b with radius := (gotElem x 0 (keyOf 0 0 0)).bits.setWidth 32, cap := field e.mods 12 8 + 1,
                            dim := field e.mods 4 8 + 1, ndot := e.mods.getLsbD 3, policy := field e.mods 1 2 })
        (fun y => y.writes = x.writes))
    ∧ (x.stage = 1 → Returned x → (gotElem x 0 (keyOf 0 0 0)).poison = true → Performs (.srcfg f e) s a n cr (BankGiven b)
        (fun y => ∃ p : PTrap, y.traps = [p] ∧ p.cause = 0x10))
    ∧ (x.stage = 1 → absorbed (.srabsReg f e) lanes)
    ∧ (x.stage = 1 → Returned x → absorbed (.srabsDesc f e) vec)
    ∧ (x.stage = 0 → room ∨ e.mods.getLsbD 16 = true →
        (∀ p q d, (closestPair b).1 = some ((p, q), d) → merges (.srmerge f e) p q d (closestPair b).2)
        ∧ ((closestPair b).1 = none → (closestPair b).2 = false → Performs (.srmerge f e) s a n cr (BankGiven b) none_)
        ∧ (p ≠ q → srValid b p = true → srValid b q = true →
            let d := srDist b (centroid b (min p q)) (max p q)
            merges (.srmergePair f e) (min p q) (max p q) d d.2)
        ∧ (p = q ∨ srValid b p = false ∨ srValid b q = false →
            Performs (.srmergePair f e) s a n (fallbacks 1 cr) (BankGiven b) none_))
    ∧ (x.stage = 0 → Performs (.srread f e) s a n
        (fallbacks (if e.mods.getLsbD 0 || e.mods.getLsbD 1 || e.mods.getLsbD 2 then 0 else 1) cr) (fun g h => h = g)
        (fun y => y.writes =
          (if e.mods.getLsbD 0 then out 0 (entries.map fun k => (List.range b.dim).map fun i => ((i, k, 0), srSum b k i)) else [])
          ++ (if e.mods.getLsbD 1 then out 1 (entries.map fun k => ((centroid b k).zip (List.range b.dim)).map fun v =>
              ((v.2, k, 0), if srValid b k then pv32 v.1.1 v.1.2 else {})) else [])
          ++ (if e.mods.getLsbD 2 then out 2 (entries.map fun k =>
              [((0, k, 0), { bits := srCount b k }), ((1, k, 0), { bits := if srValid b k then 1 else 0 })]
                ++ if k = 0 then [((2, 0, 0), { bits := b.drops })] else []) else [])))
    ∧ (x.stage = 1 → Returned x → Performs (.srset f e) s a n cr
        (fun g h => { h with sorus := g.sorus } = g ∧ srValid h.sorus m = decide (count ≠ 0)
          ∧ srCount h.sorus m = BitVec.ofNat 32 count ∧ srRcp h.sorus m = rcpOf (BitVec.ofNat 32 count)
          ∧ (∀ i, i < b.dim → i < 256 → srSum h.sorus m i = if count = 0 then {} else
              match vec[i]? with
              | some v => pv32 v.1 v.2
              | none => {})
          ∧ (∀ k, k ≠ m → srValid h.sorus k = srValid b k ∧ srCount h.sorus k = srCount b k))
        (fun y => y.writes = x.writes))
    ∧ (x.stage = 0 → Performs (.srclr f e) s a n cr
        (BankGiven (if e.mods.getLsbD 0 then { b with valid := [], count := [], rcp := [], sum := [], drops := 0 } else {}))
        (fun y => y.writes = x.writes))

/-! ### Errors, links and resets -/

/-- R383 to R385, R388, R389, R391, R404: a corrected error changes no value and is counted, and at a threshold of firmware's its
core is fenced, its stack disabled or its page retired; an uncorrectable error poisons, refetches or discards what its
structure's row says, beneath a window's dirty copy the memory's own alone, and in a pool page without a mirror the whole page;
a scrub and a mirror repair restore lost granules from their mirror, with the poison that it carries; a quarantined page that
nothing holds returns clean; a mirror holds the contents of its frame; the PF is told of log entries of the classes that
firmware has set, and of fault ring entries, at most once every 10 µs. The model's choices: that the destroyed bytes are free and
that a drop meets what lies beneath, log entry 42; what a registration copies, 25; which site is logged under which unit and
what firmware does at a threshold, 41; the vector of the fault ring, 52. -/
def Obligations.ErrorEvents : Prop :=
  ∀ (site : ErrSite) (l1 : Option Nat) (c n m i j : Nat) (d : MirrorData) (s : State),
    let cnt := fun (m : SMap Nat) (u : Nat) => SMap.get (fun _ => 0) m u
    let bad : Pz := { poison := true, media := true }
    let quiet := fun t : State => SameMemory s t ∧ SameCores s t
    let lane := fun (t : State) => SMap.get (fun _ => ({} : PV 32)) (getCore t c).eng.v (64 * n + m)
    let same := fun t : State => SameMemory s t ∧ OthersSame c s t
    let recalled := fun (t : State) (k : Nat) =>
      { getCore t k with wins := (getCore s k).wins, l1x := (getCore s k).l1x } = getCore s k
    let logged := fun (t : State) (x : LogEntry) => ∃ e ∈ t.errLog, logSource e = logSource x
    let free := s.limits.coreThr = 0 ∧ s.limits.stackThr = 0 ∧ s.limits.pageThr = 0
    (free → LeadsTo (.correctedError site) s fun t =>
        (∀ u, cnt t.corrected u = cnt s.corrected u + (if u = siteUnit site then 1 else 0)
          + (match site with
            | .mem pa => if u = 2 ^ 20 + pa / 65536 then 1 else 0
            | _ => 0))
        ∧ SameMemory s t ∧ SamePoison s t
        ∧ ∀ k, getCore t k = if siteCore site = some k then bump (getCore s k) 69 1 else getCore s k)
    ∧ (s.limits.coreThr ≠ 0 → cnt s.corrected (256 + c) + 1 = s.limits.coreThr →
        LeadsTo (.correctedError (.lane c n m)) s fun t => (getCore t c).fenced = true)
    ∧ (s.limits.stackThr ≠ 0 → memUnit n < 12 → cnt s.corrected (memUnit n) + 1 = s.limits.stackThr →
        LeadsTo (.correctedError (.mem n)) s fun t => partOff t (5 + memUnit n) = true ∧ SameMemory s t)
    ∧ (s.limits.pageThr ≠ 0 → cnt s.corrected (2 ^ 20 + n / 65536) + 1 = s.limits.pageThr → memUnit n < 12 →
        LeadsTo (.correctedError (.mem n)) s fun t => SMap.get (fun _ => false) t.quarantine (n / 65536) = true ∧ SameMemory s t)
    ∧ (isPackageMem s n = true → heldDirty s (n / 64) = false →
        poolOwner s (n / 65536) = none ∨ mirrorOf (loseGranule s (n / 64)) (n / 65536) ≠ none →
        LeadsTo (.uncorrectableError (.mem n)) s fun t =>
        (∀ g, getPz t g = if g = n / 64 then bad else getPz s g) ∧ SameMemoryBut (n / 64 * 64) 64 s t ∧ ∀ k, recalled t k)
    ∧ (isPackageMem s n = true → heldDirty s (n / 64) = true → poolOwner s (n / 65536) = none →
        LeadsTo (.uncorrectableError (.mem n)) s fun t => SameMemory s t ∧ SamePoison s t
        ∧ ∀ k, recalled t k ∧ ∀ w ∈ (getCore t k).wins, ∀ x ∈ w.dirty, x.pa / 64 = n / 64 → x.oldPz = bad)
    ∧ (isPackageMem s n = true → (∀ g, g / 1024 = n / 65536 → heldDirty s g = false) →
        mirrorOf (loseGranule s (n / 64)) (n / 65536) = none → ∀ v, poolOwner s (n / 65536) = some v →
        LeadsTo (.uncorrectableError (.mem n)) s fun t =>
        isLost t (n / 65536) = true ∧ (∀ g, getPz t g = if g / 1024 = n / 65536 then bad else getPz s g)
          ∧ SameMemoryBut (n / 64 * 64) 64 s t ∧ ∀ k, recalled t k)
    ∧ LeadsTo (.uncorrectableError (.cache n false l1)) s (fun t => quiet t ∧ SamePoison s t
        ∧ logged t (match l1 with
          | some k => { cls := 2, die := k / 40, unit := k }
          | none => memEntry 2 n))
    ∧ LeadsTo (.uncorrectableError (.icache c n)) s (fun t =>
        same t ∧ ∀ a, a / 2 = n / 64 → SMap.get (fun _ => none) (getCore t c).icache a = none)
    ∧ LeadsTo (.uncorrectableError (.lane c n m)) s (fun t => same t ∧ lane t = { lane s with poison := true })
    ∧ LeadsTo (.uncorrectableError (.acc c n i j)) s (fun t => same t
        ∧ getAcc (getCore t c).eng n i j = { getAcc (getCore s c).eng n i j with poison := true })
    ∧ LeadsTo (.uncorrectableError (.sorus c n m)) s (fun t => same t
        ∧ srSum (getCore t c).eng.sorus n m = { srSum (getCore s c).eng.sorus n m with poison := true })
    ∧ (∀ e, (getCore s c).rq[n]? = some e → LeadsTo (.uncorrectableError (.rq c n)) s fun t => same t
        ∧ (getCore t c).rq = (getCore s c).rq.set n { e with val := { e.val with poison := true } })
    ∧ LeadsTo (.uncorrectableError (.flag c n)) s (fun t => same t
        ∧ ∀ k, getFlag (getCore t c) k = if k = n then { getFlag (getCore s c) n with poison := true } else getFlag (getCore s c) k)
    ∧ LeadsTo (.uncorrectableError (.stash c n)) s (fun t =>
        SMap.get (fun _ => false) (getCore t c).stashPoison (n / 64) = true ∧ ∀ k, k ≠ c → recalled t k)
    ∧ (c < 160 → LeadsTo (.uncorrectableError (.coreState c)) s fun t => (getCore t c).fenced = true)
    ∧ LeadsTo (.uncorrectableError .flash) s (fun t => t.boot.imageB = true ∧ quiet t ∧ SamePoison s t)
    ∧ ((∀ e ∈ s.poison, memUnit (e.1 * 64) = n → e.2.media = false) → NoEffect (.scrub n) s)
    ∧ (∀ g f, s.poison.filter (fun e => e.2.media && decide (memUnit (e.1 * 64) = n)) = [(g, bad)] → getPz s g = bad →
        mirrorOf s (g / 1024) = some f → (getPz s (f * 1024 + g % 1024)).media = false →
        LeadsTo (.scrub n) s fun t => getPz t g = { poison := (getPz s (f * 1024 + g % 1024)).poison } ∧ SameCores s t)
    ∧ (getPz s n ≠ bad → NoEffect (.mirrorRepair n (some d)) s)
    ∧ (∀ f, getPz s n = bad → mirrorOf s (n / 1024) = some f → (getPz s (f * 1024 + n % 1024)).media = false →
        LeadsTo (.mirrorRepair n none) s fun t =>
        (∀ g, getPz t g = if g = n then { poison := (getPz s (f * 1024 + n % 1024)).poison } else getPz s g)
          ∧ SameMemoryBut (n * 64) 64 s t ∧ SameCores s t
          ∧ ∀ k, k < 64 → memByte t (n * 64 + k) = memByte s ((f * 1024 + n % 1024) * 64 + k))
    ∧ (∀ f, getPz s n = bad → mirrorOf s (n / 1024) = some f → (getPz s (f * 1024 + n % 1024)).media = true →
        NoEffect (.mirrorRepair n none) s)
    ∧ (∀ l, getPz s n = bad → mirrorOf s (n / 1024) = none → isLost s (n / 1024) = true → linkOf s (n / 1024) = some l →
        (getPod s (farTarget l.pa)).up = true → (getPod s (farTarget l.pa)).inc = l.inc →
        LeadsTo (.mirrorRepair n (some d)) s fun t =>
          (∀ g, getPz t g = if g = n then { poison := d.poison } else getPz s g) ∧ SameMemoryBut (n * 64) 64 s t ∧ SameCores s t
          ∧ ∀ k, k < 64 → memByte t (n * 64 + k) = d.data.extractLsb' (8 * k) 8)
    ∧ (SMap.get (fun _ => false) s.quarantine n = true → getRef s (n * 65536) = 0 →
        SMap.get (fun _ => false) s.savePages n = false → LeadsTo (.quarantineRelease n) s fun t =>
        SMap.get (fun _ => false) t.quarantine n = false ∧ isLost t n = false
          ∧ (∀ g, getPz t g = if g / 1024 = n then {} else getPz s g) ∧ quiet t)
    ∧ (SMap.get (fun _ => false) s.quarantine n = false → NoEffect (.quarantineRelease n) s)
    ∧ (Memory.wf s.mem = true → isPackageMem s (n * 65536) = true → isPackageMem s (m * 65536) = true →
        memUnit (n * 65536) ≠ memUnit (m * 65536) → LeadsTo (.mirrorRegistration n m) s fun t =>
          mirrorReg t n = some m ∧ SameMemoryBut (m * 65536) 65536 s t ∧ SameCores s t
          ∧ ∀ k, k < 65536 → memByte t (m * 65536 + k) = memByte s (n * 65536 + k))
    ∧ (memUnit (n * 65536) = memUnit (m * 65536) → NoEffect (.mirrorRegistration n m) s)
    ∧ (irqRecent s n = true → NoEffect (.errorLogInterrupt n) s)
    ∧ (n ≠ 2 ^ 32 → (∀ e ∈ s.errLog, logSource e = n → e.told = true ∨ bit s.limits.irqs e.cls = false) →
        NoEffect (.errorLogInterrupt n) s)
    ∧ (n ≠ 2 ^ 32 → irqRecent s n = false → (∃ e ∈ s.errLog, logSource e = n ∧ e.told = false ∧ bit s.limits.irqs e.cls = true) →
        LeadsTo (.errorLogInterrupt n) s fun t =>
        cnt t.msix (64 * 256 + 1) = cnt s.msix (64 * 256 + 1) + 1 ∧ SMap.get (fun _ => none) t.lastIrq n = some s.now
          ∧ (∀ e ∈ t.errLog, logSource e = n → e.told = true) ∧ quiet t)
    ∧ (irqRecent s (2 ^ 32) = false → s.faultDue = true → LeadsTo (.errorLogInterrupt (2 ^ 32)) s fun t =>
        cnt t.msix (64 * 256) = cnt s.msix (64 * 256) + 1 ∧ t.faultDue = false
          ∧ SMap.get (fun _ => none) t.lastIrq (2 ^ 32) = some s.now ∧ quiet t)

/-- R14, R342, R344, R348, R394, R402, R404: a flit's replay changes nothing; a port that loses lanes goes on with 4, or
fails; a die boundary error asks for a warm reset; a failed expander has no capacity; a target that is marked down, with which every
access under way to it is lost, or up, and the pod table; firmware's limits, each within the hardware's; the power clamp; a part that is to be
attempted again at the next boot. -/
def Obligations.LinkAndLimitEvents : Prop :=
  ∀ (n p : Nat) (b : Bool) (inc : W32) (s : State),
    let port := fun (t : State) (q : Nat) => SMap.get (fun _ => ({} : Port)) t.ports q
    let quiet := fun t : State => SameMemory s t ∧ SameCores s t
    let podSame := fun t : State => ∀ q, q ≠ n → getPod t q = getPod s q
    let gone := fun t : State => SameMemory s t ∧ ∀ c, c < 160 → SMap.get (fun _ => ([] : List FarItem)) (getCore t c).far n = []
    let sets := fun (l : LimitArg) (m : Limits) => exec (.limitsWrite l) s = .next { s with limits := m }
    NoEffect (.flitReplay n) s
    ∧ LeadsTo (.portLaneLoss n b) s (fun t => (port t n).failed = (b || (port s n).failed)
        ∧ (port t n).lanes = (if b then (port s n).lanes else 4) ∧ (∀ q, q ≠ n → port t q = port s q) ∧ quiet t)
    ∧ LeadsTo (.dieBoundaryError n) s (fun t => t.warmReq = true ∧ quiet t)
    ∧ (n < 4 → LeadsTo (.expanderFailure n) s fun t =>
        (∀ q, expanderCap t q = if q = n then 0 else expanderCap s q) ∧ quiet t)
    ∧ (∀ i ∈ [Instr.routeLossTimeout n, .targetDown n],
        ((getPod s n).up = false → NoEffect i s)
        ∧ ((getPod s n).up = true → LeadsTo i s fun t =>
          getPod t n = { up := false, inc := (getPod s n).inc } ∧ podSame t ∧ gone t))
    ∧ (n < 4096 → LeadsTo (.targetUp n inc) s fun t => getPod t n = { up := true, inc := inc } ∧ podSame t ∧ quiet t)
    ∧ (n < 4096 → LeadsTo (.podTableWrite n b inc p) s fun t => getPod t n = { up := b, inc := inc } ∧ podSame t
        ∧ (if (getPod s n).up = true ∧ b = false then gone t else quiet t)
        ∧ SMap.get (fun _ => 0) t.routes n = p ∧ t.ownInc = if n = Config.pkg.toNat then inc else s.ownInc)
    ∧ sets (.power n) (if n ≤ 2800 then { s.limits with power := n } else s.limits)
    ∧ sets (.throttle n) (if n ≤ 110 then { s.limits with throttle := n } else s.limits)
    ∧ sets (.ageLimit inc) { s.limits with agelimit := inc }
    ∧ sets (.coreThreshold n) { s.limits with coreThr := n }
    ∧ sets (.stackThreshold n) { s.limits with stackThr := n }
    ∧ sets (.pageThreshold n) { s.limits with pageThr := n }
    ∧ (∀ k, sets (.interrupts k) { s.limits with irqs := k })
    ∧ LeadsTo (.powerClamp n p) s (fun t => CoreOnly n s t fun k => { bump k 18 p with clamp := k.clamp + p })
    ∧ LeadsTo (.reenabling n) s (fun t => (∀ q, partOff t q = partOff s q) ∧ t.boot.imageB = (s.boot.imageB && decide (n ≠ 0))
        ∧ (∀ q, SMap.get (fun _ => false) t.boot.retry q = if q = n then true else SMap.get (fun _ => false) s.boot.retry q)
        ∧ quiet t)

/-- R349, R382, R399, R401 to R404, R407: what is kept and what is lost at a cold reset, at power on and off, at a thermal
trip and at a warm reset; and each step of the boot: its journal entries, a disabled part, a part that is attempted again, the
alternative after two attempts, and the mode. The model's choices: which register measures which image and which stamp is kept,
log entry 39; what empty memory reads as, 12; that a package without power, or tripped, takes no other request, 44. -/
def Obligations.ResetsAndBoot : Prop :=
  ∀ (late : List Nat) (ok : Bool) (s : State),
    let n := s.boot.step
    let stamp := if s.boot.kept then keptStamp s else BitVec.ofNat 64 (tickOf s.now)
    let entry := fun kind : Nat => ({ step := n, kind := kind, boot := s.boot.number, stamp := stamp } : BootEntry)
    let finished := fun (t : State) (k : Nat) => ∃ e : BootEntry, t.boot.journal = s.boot.journal ++ [entry k, e]
      ∧ e.step = n ∧ e.kind = 2 ∧ e.boot = s.boot.number
    let boots := fun t : State => t.boot.mode = .notReady ∧ t.boot.step = 0 ∧ t.boot.number = s.boot.number + 1
    let empty := fun t : State => (∀ a, memByte t a = memDefault a) ∧ (∀ c, (getCore t c).phase = .idle) ∧ t.tripped = false
      ∧ (∀ v, (getFctx t v).enabled = false) ∧ (∀ p, (getTag t p).live = false)
    let stepping := s.power = true ∧ s.tripped = false ∧ s.boot.mode = .notReady ∧ n ≤ 70
    let retried := SMap.get (fun _ => false) s.boot.retry n = true
    let off := partOff s n = true ∧ ¬ retried
    let again := partOff s n = false ∧ ¬ retried
      ∧ 2 ≤ startsOf n (s.boot.journal.drop (SMap.get (fun _ => 0) s.boot.since n)).reverse
    (s.power = true → LeadsTo .coldReset s fun t => empty t ∧ boots t ∧ t.meas = s.meas ∧ t.power = true)
    ∧ (s.power = false → NoEffect .coldReset s)
    ∧ (s.power = false → LeadsTo .powerOn s fun t => empty t ∧ boots t ∧ t.meas = [] ∧ t.power = true)
    ∧ (s.power = true → NoEffect .powerOn s)
    ∧ LeadsTo .powerLoss s (fun t => empty t ∧ t.power = false)
    ∧ LeadsTo .thermalTrip s (fun t => t.tripped = true ∧ SameMemory s t ∧ SameCores s t)
    ∧ (s.power = true → s.tripped = false → LeadsTo (.warmReset late) s fun t => boots t ∧ t.boot.kept = true
        ∧ t.ownInc = s.ownInc + 1 ∧ (∀ v, (getFctx t v).enabled = false) ∧ (∀ b ∈ t.barriers, b.arrived = []) ∧ t.warmReq = false)
    ∧ (s.power = false ∨ s.tripped = true → NoEffect (.warmReset late) s)
    ∧ (¬ stepping → NoEffect (.bootStep ok) s)
    ∧ (stepping → off → LeadsTo (.bootStep ok) s fun t =>
        t.boot.journal = s.boot.journal ++ [entry 4] ∧ t.boot.step = n + 1 ∧ SameMemory s t)
    ∧ (stepping → ¬ off → ¬ again → LeadsTo (.bootStep true) s fun t =>
        finished t 1 ∧ t.boot.step = n + 1 ∧ partOff t n = false
        ∧ t.boot.mode = (if n = 70 then .ready else .notReady) ∧ SameMemory s t ∧ SameCores s t)
    ∧ (stepping → ¬ off → ¬ again → LeadsTo (.bootStep false) s fun t =>
        t.boot.journal = s.boot.journal ++ [entry 1] ∧ t.boot.step = n ∧ partOff t n = false ∧ t.boot.mode = .notReady
        ∧ SameMemory s t ∧ SameCores s t)
    ∧ (stepping → again → n ≠ 69 → hasAlternative n = true → LeadsTo (.bootStep ok) s fun t =>
        t.boot.journal = s.boot.journal ++ [entry 3] ∧ t.boot.step = n + 1 ∧ partOff t n = true ∧ SameMemory s t)
    ∧ (stepping → again → n = 69 → LeadsTo (.bootStep ok) s fun t =>
        t.boot.journal = s.boot.journal ++ [entry 3] ∧ t.boot.step = 70 ∧ t.boot.kept = false
        ∧ ∀ a, memByte t a = memDefault a)
    ∧ (stepping → again → n = 0 → s.boot.imageB = false → LeadsTo (.bootStep true) s fun t =>
        finished t 3 ∧ t.boot.step = 1 ∧ t.boot.imageB = true ∧ SameMemory s t ∧ SameCores s t)
    ∧ (stepping → again → n ∈ [1, 17, 67, 70] ∨ (n = 0 ∧ (ok = false ∨ s.boot.imageB = true)) →
        LeadsTo (.bootStep ok) s fun t =>
        t.boot.journal = s.boot.journal ++ [entry 3] ∧ t.boot.mode = .recovery ∧ SameMemory s t ∧ SameCores s t)

/-- R214, R215, R322, R398, R407: fencing a core, by management or because it failed, and its release, which is no reset and
so leaves the stage; precise stops; the rebase of every logical time by one amount. The model's choices: agents that are behind by
less are first taken forward, which R214 leaves to the implementation (log entries 8 and 53); what a fence discards and poisons,
and what its release leaves, log entry 40. -/
def Obligations.CoreEvents : Prop :=
  ∀ (c n : Nat) (s : State),
    let k := getCore s c
    let now := (getCounter k 0).toNat
    let becomes := fun (i : Instr) (g : Core → Core) => LeadsTo i s fun t => CoreOnly c s t g
    let gone := fun t : State => (getCore t c).fenced = true ∧ (getCore t c).wins = [] ∧ (getCore t c).l1x = []
    let barred := partOff s (47 + c / 8) = true ∨ (40 ≤ c ∧ partOff s (1 + c / 40) = true)
    (c < 160 → k.fenced = false → LeadsTo (.coreFence c) s gone)
    ∧ (c < 160 → k.fenced = false → LeadsTo (.coreFailure c) s fun t => gone t
        ∧ ∃ e ∈ t.errLog, logSource e = (5 * 256 + c / 40) * 65536 + c)
    ∧ (k.fenced = true → NoEffect (.coreFence c) s ∧ NoEffect (.coreFailure c) s)
    ∧ (c < 160 → k.fenced = true → ¬ barred → becomes (.coreRelease c) fun k =>
        { hlc := maxW k.hlc (phys s), ltime := k.ltime, fenced := false, journal := k.journal, far := k.far,
          farSeq := k.farSeq, stage := k.stage, rr := k.rr })
    ∧ (k.fenced = false ∨ barred → NoEffect (.coreRelease c) s)
    ∧ (now ≤ n → becomes (.preciseStopArm c n) fun k => { k with stop := some n })
    ∧ (n < now → NoEffect (.preciseStopArm c n) s)
    ∧ (k.phase = .idle → NoEffect (.preciseStop c) s)
    ∧ (k.phase ≠ .idle → becomes (.preciseStop c) fun k => if k.stop = some now then { k with frozen := true } else k)
    ∧ (k.frozen = true → becomes (.preciseStopRelease c) fun k => { k with frozen := false, stop := none })
    ∧ (k.frozen = false → NoEffect (.preciseStopRelease c) s)
    ∧ (n ≤ s.ltime → LeadsTo (.logicalTimeRebase n) s fun t => t.ltime = s.ltime - n ∧ SameMemory s t
        ∧ (∀ j, getCore t j = if j < 160 then { getCore s j with ltime := (getCore s j).ltime - n } else getCore s j)
        ∧ (∀ j, j < 172 → SMap.get (fun _ => 0) t.unitTimes j = SMap.get (fun _ => 0) s.unitTimes j - n)
        ∧ ∀ j, j < 2 → getLink t j = { getLink s j with ltime := (getLink s j).ltime - n })
    ∧ (s.ltime < n → NoEffect (.logicalTimeRebase n) s)

/-! ### Functions, the outside and the host -/

/-- R240, R248, R338, R339, R341, R347: a function context is written whole or refused with the status of the condition it
breaks; a function that is disabled has its runs saved, and one that is enabled holds none back; the PF assigns queues
and the CXL.mem range; owners write their fields of a queue; a function reset leaves no held run, cancels its tags, stops
its submission queues and asks every core to clear cr.farlost. The model's choices: that an assigned queue is empty, and one that
is the function's already is kept, that a size out of range leaves its field and that RUN is written while the queue is stopped,
log entries 37 and 49. -/
def Obligations.FunctionEvents : Prop :=
  ∀ (v q n base size : Nat) (x : FuncCtx) (e : QueueArg) (a : SqArg) (s : State),
    let quiet := fun t : State => SameMemory s t ∧ SameCores s t
    let owner := if v < 64 then some v else none
    let sq := getSQ s q
    let fields := { sq with ring := a.ring / 64 * 64, vector := a.vector,
                            lgsize := if 4 ≤ a.lgsize ∧ a.lgsize ≤ 16 then a.lgsize else sq.lgsize }
    (v < 64 → contextStatus s v x = n → n ≠ 0 → exec (.functionContextWrite v x) s = .next { s with fctxStatus := n })
    ∧ (v < 64 → contextStatus s v x = 0 → LeadsTo (.functionContextWrite v x) s fun t =>
        t.fctxStatus = 0 ∧ getFctx t v = x ∧ ∀ w, w ≠ v → getFctx t w = getFctx s w)
    ∧ ((getFctx s v).enabled = true → LeadsTo (.functionDisable v) s fun t =>
        getFctx t v = { getFctx s v with enabled := false } ∧ SameMemory s t
        ∧ ∀ c, c < 160 → (getCore s c).phase ≠ .idle → vmid (getCore s c) = v → (getCore s c).s2fault = none →
          (getCore t c).save = some .disable)
    ∧ ((getFctx s v).enabled = false → NoEffect (.functionDisable v) s)
    ∧ (v < 64 → (getFctx s v).enabled = false → LeadsTo (.functionEnable v) s fun t =>
        getFctx t v = { getFctx s v with enabled := true } ∧ ∀ h ∈ t.held, ¬ (h.why = .disabled ∧ h.vf = v))
    ∧ ((getFctx s v).enabled = true → NoEffect (.functionEnable v) s)
    ∧ (q < 256 → (getTQ s q).vf ≠ owner → LeadsTo (.queueAssignment (.taskQueue q) v) s fun t => quiet t
        ∧ ∀ k, getTQ t k = if k = q then { vf := owner } else getTQ s k)
    ∧ ((getTQ s q).vf = owner → NoEffect (.queueAssignment (.taskQueue q) v) s)
    ∧ (q < 1024 → sq.vf ≠ owner → LeadsTo (.queueAssignment (.subQueue q) v) s fun t => quiet t
        ∧ ∀ k, getSQ t k = if k = q then { vf := owner } else getSQ s k)
    ∧ (sq.vf = owner → NoEffect (.queueAssignment (.subQueue q) v) s)
    ∧ exec (.queueAssignment (.cxlMem base size) v) s = .next { s with cxlMem := owner.map fun v => (v, base, size) }
    ∧ (ownsQueue s v q = true → LeadsTo (.taskQueueEntryWrite v q e) s fun t => quiet t ∧ ∀ k, getTQ t k = if k = q then
          { getTQ s q with ring := e.ring / 64 * 64, lgsize := if e.lgsize ≤ 20 then e.lgsize else (getTQ s q).lgsize,
                           prio := e.prio % 8, enabled := e.enabled, preempt := e.preempt, stagemask := e.stagemask,
                           coremask := e.coremask } else getTQ s k)
    ∧ (ownsQueue s v q = false → NoEffect (.taskQueueEntryWrite v q e) s)
    ∧ (sq.vf = none → NoEffect (.sqStateWrite q a) s)
    ∧ (sq.vf ≠ none → LeadsTo (.sqStateWrite q a) s fun t => quiet t ∧ ∀ k, getSQ t k = if k = q then
          (if a.run = true ∧ (sq.st = .stopped ∨ sq.st = .error)
           then { fields with st := .run, err := 0, pkt := none, nextI := 0, copied := 0, good := 0, conds := none } else fields)
          else getSQ s k)
    ∧ LeadsTo (.functionReset v) s (fun t => (∀ c, c < 160 → (getCore t c).farClear = true) ∧ (∀ h ∈ t.held, h.vf ≠ v)
        ∧ (∀ k, (getTag s k).live = true → (getTag s k).vf = v → (getTag t k).cancelling = true)
        ∧ ∀ k, (getSQ s k).vf = some v → (getSQ t k).st = .stopped)

/-- R342, R343, R346, R347, R350, R393, R405: a far request whose source is down, or whose incarnation, key, rights or range its
export entry does not allow, is refused with nothing done; one that meets a lost page waits for its repair; one that is allowed reads or writes through the exporting function's stage 2, and so does a
host access, which outside its window completes as an unsupported request that the PF is told of; a read of a BAR0 returns its registers;
an export entry is
its owner's; a snooped host line goes out; a report holds the package's measurements under its signature. The
signature and hash are opaque (assumptions 5 and 24), and the far outcomes are inputs (assumption 4). The model's choices: which
entries a function may take, and what an access from outside splits into, log entries 38 and 60; the layout of the registers and
that their writes are events, 72. -/
def Obligations.OutsideAccesses : Prop :=
  ∀ (r : FarReq) (a : HostAcc) (v e n : Nat) (w : ExportEntry) (nonce : W512) (d : BitVec 128) (x : Trans) (s : State),
    let entry := getExport s (r.offset / 2 ^ 29)
    let rd := (extNeeds r.kind).1
    let wr := (extNeeds r.kind).2
    let refused := r.inc ≠ s.ownInc ∨ (getPod s r.source).up = false ∨ 512 ≤ r.offset / 2 ^ 29 ∨ entry.tkey ≠ r.tkey
      ∨ entry.limit * 65536 < r.offset % 2 ^ 29 + r.size ∨ (rd = true ∧ entry.r = false) ∨ (wr = true ∧ entry.w = false)
    let link : HostLink := SMap.get (fun _ => {}) s.hostLinks a.link
    let ready := a.bar0 = false ∧ a.link < 2 ∧ s.power = true ∧ s.tripped = false ∧ s.boot.mode = .ready ∧ link.up = true
      ∧ (a.cxl = true → link.cxl = true)
    let reached := a.link < 2 ∧ link.up = true ∧ s.power = true ∧ s.tripped = false ∧ (a.vf = 64 ∨ s.boot.mode = .ready)
    let unsupported := fun (i : Instr) => LeadsTo i s fun t =>
      t.replies = s.replies ++ [(4096 + a.link, 2, 0, false)] ∧ SameMemory s t ∧ SameCores s t
      ∧ ∃ f, t.faultRing = s.faultRing ++ [f] ∧ f.vf = a.vf ∧ f.port = 8 ∧ f.cause = 6 ∧ f.ipa = a.offset
    let one := fun (size : Nat) => 0 < size ∧ size ≤ 16 ∧ x.pa % 32 + size ≤ 32
    let place := fun (size : Nat) => isPackageMem s x.pa = true ∧ NoMirrors s ∧ needsRepair s x.pa = false ∧ one size
    let reads := fun (i : Instr) (who size : Nat) => LeadsTo i s fun t =>
      t.replies = s.replies ++ [(who, 0, ofBytes 128 (memBytes t x.pa size), poisonedAt t x.pa size)]
      ∧ ∀ b, Apart x.e2 8 b → memByte t b = memByte s b
    let writes := fun (i : Instr) (who size : Nat) => LeadsTo i s fun t =>
      t.replies = s.replies ++ [(who, 0, 0, false)] ∧ memBytes t x.pa size = toBytes size d
      ∧ ∀ b, ¬ (x.pa ≤ b ∧ b < x.pa + size) → Apart x.e2 8 b → memByte t b = memByte s b
    let far := entry.base + r.offset % 2 ^ 29
    let writable := e < 512 ∧ ((getExport s e).func = v ∨ ((getExport s e).r = false ∧ (getExport s e).w = false))
      ∧ 1 ≤ w.limit ∧ w.limit ≤ 8192
    (refused → exec (.farRequest r) s = .next { s with replies := s.replies ++ [(r.source, 1, 0, false)] })
    ∧ (¬ refused → r.kind = .read → xlatIpa s entry.func far true false false [] = .ok x → place r.size →
        reads (.farRequest r) r.source r.size)
    ∧ (¬ refused → r.kind = .write d → xlatIpa s entry.func far false true false [] = .ok x → place r.size →
        writes (.farRequest r) r.source r.size)
    ∧ (¬ refused → xlatIpa s entry.func far rd wr false [] = .ok x → needsRepair s x.pa = true → one r.size →
        NoEffect (.farRequest r) s)
    ∧ (writable → LeadsTo (.exportTableWrite v e w) s fun t => SameMemory s t ∧ SameCores s t
        ∧ ∀ k, getExport t k = if k = e then { w with func := v } else getExport s k)
    ∧ (¬ writable → NoEffect (.exportTableWrite v e w) s)
    ∧ (a.bar0 = true → ¬ reached → NoEffect (.hostAccess a) s)
    ∧ (a.bar0 = true → reached → barFits a.vf a.offset a.size a.kind = true → exec (.hostAccess a) s = .next { s with
        replies := s.replies ++ [(4096 + a.link, 0, if a.kind = .read then barRead s a.vf a.offset a.size else 0, false)] })
    ∧ (a.bar0 = true → reached → barFits a.vf a.offset a.size a.kind = false → unsupported (.hostAccess a))
    ∧ (a.bar0 = false → ¬ ready → NoEffect (.hostAccess a) s)
    ∧ (ready → hostPlace s a = none → unsupported (.hostAccess a))
    ∧ (∀ ipa, ready → hostPlace s a = some (v, ipa) → a.kind = .read → xlatIpa s v ipa true false false [] = .ok x →
        place a.size → reads (.hostAccess a) (4096 + a.link) a.size)
    ∧ (∀ ipa, ready → hostPlace s a = some (v, ipa) → a.kind = .write d → xlatIpa s v ipa false true false [] = .ok x →
        place a.size → writes (.hostAccess a) (4096 + a.link) a.size)
    ∧ (∀ ipa, ready → hostPlace s a = some (v, ipa) → xlatIpa s v ipa (extNeeds a.kind).1 (extNeeds a.kind).2 false [] = .ok x →
        needsRepair s x.pa = true → one a.size → NoEffect (.hostAccess a) s)
    ∧ (SMap.get (fun _ => false) s.devHost n = false → NoEffect (.hostSnoop n) s)
    ∧ (SMap.get (fun _ => false) s.devHost n = true → LeadsTo (.hostSnoop n) s fun t => SameMemory s t
        ∧ SMap.get (fun _ => false) t.devHost n = false
        ∧ t.hostOut = s.hostOut ++ (List.range 4).map fun i =>
            (64, n * 64 + 16 * i, 16, ofBytes 128 (memBytes s (n * 64 + 16 * i) 16), (getPz s n).poison))
    ∧ (s.power = true → ∀ f : Option Nat, LeadsTo (.attestationReport f nonce) s fun t => ∃ digest : W512,
        let body := toBytes 4 (1 : W32) ++ toBytes 2 (BitVec.ofNat 16 (f.getD 0xFFFF)) ++ toBytes 2 (0 : W32) ++ toBytes 64 nonce
          ++ ((List.range 8).flatMap fun i => toBytes 64 (SMap.get (fun _ => 0) s.meas i)) ++ toBytes 64 digest
          ++ toBytes 8 (phys s)
        (f = none → digest = 0) ∧ t.reports = s.reports ++ [{ vf := f.getD 0xFFFF, body := ofBytes 5248 body, signature := Config.sign body }]
          ∧ SameMemory s t ∧ SameCores s t)

/-- R240, R242 to R245: a doorbell gives the ring's tail; a queue that does not run performs nothing. Of a packet that has
been parsed: LAUNCH enqueues its next root record; FENCE reads its table, and goes on once its conditions hold, else
waits and is evaluated again; SIGNAL writes or adds, and stops its queue with err 4 where its write faults; COPY copies the next
bytes; MARK writes its value and the link's
stamp, that of link 0 (assumption 23). A packet that completes moves consumed on by one; one that meets a lost page waits for its
repair (R389). -/
def Obligations.PacketEvents : Prop :=
  ∀ (q n v : Nat) (p : W512) (s u : State),
    let x := getSQ s q
    let events := [Instr.launch q, .fence q, .signal q, .copy q, .mark q]
    let parsed := fun ty : Nat => parsePacket s q = (u, some p) ∧ (getSQ u q).vf = some v ∧ field p 0 8 = ty
    let y := getSQ u q
    let done := fun t : State => (getSQ t q).consumed = (y.consumed + 1) % 2 ^ 64 ∧ (getSQ t q).st = .run
      ∧ (getSQ t q).pkt = none
    let tq := field p 320 16
    let width := if field p 200 8 = 0 then 4 else 8
    let judged := fun (y : SubQ) (l : List (BitVec 128)) (r : Bool) (t : State) =>
      if r then (getSQ t q).consumed = (y.consumed + 1) % 2 ^ 64 ∧ (getSQ t q).st = .run ∧ (getSQ t q).conds = none
      else (getSQ t q).consumed = y.consumed ∧ (getSQ t q).st = .wait ∧ (getSQ t q).conds = some l
    let calm := fun t : State => ∀ a m wr, linkWaits t v a m wr = false
    (q < 1024 → x.vf ≠ none → LeadsTo (.doorbell q n) s fun t => SameMemory s t ∧ SameCores s t
        ∧ ∀ k, getSQ t k = if k = q then { x with tail := n % 2 ^ 64 } else getSQ s k)
    ∧ (x.vf = none → NoEffect (.doorbell q n) s)
    ∧ (x.st ≠ .run → ∀ i ∈ events, NoEffect i s)
    ∧ (x.st ≠ .wait → NoEffect (.fenceEvaluate q) s)
    ∧ (parsed 1 → tqFull (getTQ u tq) = true → exec (.launch q) s = .next u)
    ∧ (∀ x, parsed 1 → tqFull (getTQ u tq) = false → tqSlot u (getTQ u tq) (getTQ u tq).tail true = some x →
        LeadsTo (.launch q) s fun t => (getTQ t tq).tail = (getTQ u tq).tail + 1
          ∧ (∃ r : W512, memBytes t x.pa 64 = toBytes 64 r ∧ field r 0 64 = field p 64 64
            ∧ field r 64 64 = (field p 128 64 + y.nextI * field p 192 32) % 2 ^ 64 ∧ field r 128 64 = field p 256 64
            ∧ field r 192 16 = field p 336 16 ∧ field r 208 8 = field p 352 4 ∧ field r 216 8 = field p 360 8
            ∧ field r 256 64 = 0 ∧ field r 320 64 = field p 384 64 ∧ field r 384 64 = field p 448 64
            ∧ field r 448 64 = y.nextI % 2 ^ 64)
          ∧ if y.nextI + 1 = field p 224 32 then done t
            else (getSQ t q).nextI = y.nextI + 1 ∧ (getSQ t q).consumed = y.consumed)
    ∧ (parsed 2 → linkWaits u v (field p 128 64) (16 * field p 64 8) false = true → exec (.fence q) s = .next u)
    ∧ (parsed 3 → linkWaits u v (field p 64 64) width true = true → exec (.signal q) s = .next u)
    ∧ (∀ u1 b u2 r, parsed 2 → calm u → calm u1 → linkReadAll (field p 64 8) u v (field p 128 64) = .ok (u1, b) →
        (condTable (field p 64 8) b).any condBad = false → condsHold (condTable (field p 64 8) b) u1 v = .ok (u2, r) →
        LeadsTo (.fence q) s fun t => judged y (condTable (field p 64 8) b) r t ∧ SameMemory u2 t)
    ∧ (∀ u1 b, parsed 2 → calm u → linkReadAll (field p 64 8) u v (field p 128 64) = .ok (u1, b) →
        (condTable (field p 64 8) b).any condBad = true → LeadsTo (.fence q) s fun t =>
          (getSQ t q).st = .error ∧ (getSQ t q).err = 3)
    ∧ (∀ l u2 r, x.st = .wait → x.vf = some v → x.pkt = some p → x.conds = some l → serving s = true → sqEnabled s x = true →
        calm s → condsHold l s v = .ok (u2, r) → LeadsTo (.fenceEvaluate q) s fun t => judged x l r t ∧ SameMemory u2 t)
    ∧ (∀ f, parsed 3 → field p 192 8 = 0 → calm u → linkWrite u v (field p 64 64)
          (toBytes width (BitVec.ofNat 64 (field p 128 64 % 2 ^ (8 * width)))) false = .error f →
        LeadsTo (.signal q) s fun t => (getSQ t q).st = .error ∧ (getSQ t q).err = 4 ∧ SameMemory u t)
    ∧ (∀ u1, parsed 3 → field p 192 8 = 0 → calm u → linkWrite u v (field p 64 64)
          (toBytes width (BitVec.ofNat 64 (field p 128 64 % 2 ^ (8 * width)))) false = .ok u1 →
        LeadsTo (.signal q) s fun t => done t ∧ SameMemory u1 t ∧ SameCores u1 t)
    ∧ (∀ u1 b bad u2, parsed 3 → field p 192 8 = 1 → calm u → linkRead u v (field p 64 64) width = .ok (u1, b, bad) →
        linkWrite u1 v (field p 64 64)
          (toBytes width (BitVec.ofNat 64 ((natOfBytes b + field p 128 64) % 2 ^ (8 * width)))) bad = .ok u2 →
        LeadsTo (.signal q) s fun t => done t ∧ SameMemory u2 t ∧ SameCores u2 t)
    ∧ (∀ u1 b bad u2, parsed 4 → calm u → y.copied < field p 192 64 →
        let dst := (field p 64 64 + y.copied) % 2 ^ 64
        let src := (field p 128 64 + y.copied) % 2 ^ 64
        let m := min (field p 192 64 - y.copied) (min (16 - dst % 16) (16 - src % 16))
        linkRead u v src m = .ok (u1, b, bad) → linkWrite u1 v dst b bad = .ok u2 →
        LeadsTo (.copy q) s fun t => SameMemory u2 t ∧ SameCores u2 t
          ∧ if field p 192 64 ≤ y.copied + m then done t ∧ (getSQ t q).copied = 0
            else (getSQ t q).copied = y.copied + m ∧ (getSQ t q).consumed = y.consumed)
    ∧ (∀ u1, parsed 5 → calm u →
        let stamp := maxW ((SMap.get (fun _ => ({} : HostLink)) u.hostLinks 0).hlc + 1) (phys u)
        linkWrite (linkLocal u).2 v (field p 128 64) (toBytes 8 (bits p 64 64) ++ toBytes 8 stamp) false = .ok u1 →
        LeadsTo (.mark q) s fun t => done t ∧ SameMemory u1 t ∧ SameCores u1 t)

/-! ### Tasks, tags, barriers and runs -/

/-- R253, R254, R256, R257, R260 to R263, R275: a waiting SPAWN pushes once there is room, and ends in SPAWN_FULL after
cr.spawnwait cycles; a waiting continuation is enqueued; a sweep discards cancelled records; a pod's cancellation reaches
its group; a cancelled run stops and its core is idle with its journal slot DONE; a tag whose effects have ended is free;
a barrier that is complete, or broken, lets every waiting participant go, with status 0 or 1; another package's arrival
counts, or waits for a slot; a released tensor without rules becomes FREE. The model's choices: how an arrival of another package
opens a barrier or waits for a slot, and what stands of a barrier that is broken, log entries 35 and 36. -/
def Obligations.TagsAndBarriers : Prop :=
  ∀ (c n v p q dst ea : Nat) (g : W32) (sg : Sig) (nb : Bool) (img : List Byte) (poison : Bool) (b : BufItem) (l : List BufItem)
    (s : State),
    let k := getCore s c
    let value := fun (w : W512) => ({ dest := .s dst, val := w, dead := b.dead } : Ret)
    let x := getTQ s q
    let spawning := k.buf = b :: l ∧ b.ev = .spawn nb ea q dst img poison (some n) ∧ performStops k = false
    let freed := fun (i : Instr) (w : W512) (y : Barrier) => LeadsTo i s fun t => ∀ j ∈ y.arrived,
      ∀ (b : BufItem) (r : List BufItem) (e lv : Nat) (d : Nat) (o : List Byte), (getCore s j).parked = [] →
        (getCore s j).frozen = false → (getCore s j).fenced = false → (getCore s j).buf = b :: r → b.ev = .bar lv e d (some n) o →
        (getCore t j).buf = r ∧ (getCore t j).rets = (getCore s j).rets ++ [{ dest := .s d, val := w, dead := b.dead }]
    (spawning → tqFull x = true → NoEffect (.spawnRetry c) s)
    ∧ (∀ tr, spawning → tqFull x = false → spawnFault s (vmid k) ea q img poison = none → tqSlot s x x.tail true = some tr →
        LeadsTo (.spawnRetry c) s fun t => (getTQ t q).tail = x.tail + 1 ∧ memBytes t tr.pa 64 = toBytes 64 (spawnRecord img)
          ∧ (getCore t c).buf = l ∧ (getCore t c).rets = k.rets ++ [value 0])
    ∧ (∀ f, spawning → tqFull x = false → spawnFault s (vmid k) ea q img poison = none → tqReach s x x.tail true = .error f →
        LeadsTo (.spawnRetry c) s fun t => CoreOnly c s t fun k => { k with s2fault := some f })
    ∧ (spawning → k.regs.cr.spawnwait.toNat ≤ b.waited → tqFull x = true → LeadsTo (.spawnFull c) s fun t =>
        (getCore t c).buf = l ∧ SameMemory s t ∧ OthersSame c s t
        ∧ ∃ z, (getCore t c).ptraps = k.ptraps ++ [z] ∧ z.cause = 0x0C ∧ z.einfo = BitVec.ofNat 64 (q % 256))
    ∧ (spawning → b.waited < k.regs.cr.spawnwait.toNat → NoEffect (.spawnFull c) s)
    ∧ (s.conts[n]? = none → NoEffect (.continuationEnqueue n) s)
    ∧ (∀ y, s.conts[n]? = some y → tqFull (getTQ s y.queue) = true → NoEffect (.continuationEnqueue n) s)
    ∧ (∀ y tr, s.conts[n]? = some y → tqFull (getTQ s y.queue) = false →
        tqSlot s (getTQ s y.queue) (getTQ s y.queue).tail true = some tr → LeadsTo (.continuationEnqueue n) s fun t =>
          t.conts = s.conts.eraseIdx n ∧ (getTQ t y.queue).tail = (getTQ s y.queue).tail + 1
          ∧ memBytes t tr.pa 64 = toBytes 64 y.record)
    ∧ LeadsTo (.cancelSweep q) s (fun t => ∀ h ∈ t.held, h.queue = q → (getTag s (recTag h.record)).cancelling = false)
    ∧ (∀ r tr, s.held = [] → x.vf = some v → x.heldFor = [] → x.tail = x.head + 1 → readTask s x x.head = some r →
        tqSlot s x x.head false = some tr → (tqSlot s x x.head true).isSome = true → NoMirrors s →
        (getTag s (recTag r)).cancelling = true → recJoin r = 0 → recCtx r = 0 → LeadsTo (.cancelSweep q) s fun t =>
          (getTQ t q).tail = x.head ∧ (∀ a, OffLeaves tr a → memByte t a = memByte s a)
          ∧ ∀ j, (getCore t j).regs = (getCore s j).regs)
    ∧ NoEffect (.podCancel v 0) s
    ∧ (g ≠ 0 → LeadsTo (.podCancel v g) s fun t => SameMemory s t ∧ ∀ m, tagLive (getTag s m) = true →
        (getTag s m).vf = v → (getTag s m).group = g → (getTag t m).cancelling = true)
    ∧ (runCancelled s k = false ∨ k.frozen = true → NoEffect (.cancelRunStop c) s)
    ∧ (runCancelled s k = true → k.frozen = false → canStop k = true → pastDecrement k = false → LeadsTo (.cancelRunStop c) s fun t =>
        (getCore t c).phase = .idle ∧ (getCore t c).journal.phase = .done ∧ (getCore t c).buf = []
        ∧ (getCore t c).held = false)
    ∧ ((getTag s n).cancelling = false → NoEffect (.tagRelease n) s)
    ∧ ((getTag s n).cancelling = true → cancelDone s n = true → (∀ e ∈ s.tags, e.2.live = true → e.2.parent ≠ some n) →
        LeadsTo (.tagRelease n) s fun t => SameMemory s t ∧ SameCores s t
          ∧ ∀ m, getTag t m = if m = n then {} else getTag s m)
    ∧ (∀ y, s.barriers.find? (fun z => decide (z.slot = n)) = some y →
        (barrierDone s y = false → NoEffect (.barrierRelease n) s)
        ∧ (barrierDone s y = true → y.arrived.Nodup → freed (.barrierRelease n) 0 y
            ∧ (s.podWaits = [] → LeadsTo (.barrierRelease n) s fun t => ∀ z ∈ t.barriers, z.slot ≠ n))
        ∧ (y.broken = false → NoEffect (.barrierBroken n) s)
        ∧ (y.broken = true → y.arrived.Nodup → freed (.barrierBroken n) 1 y))
    ∧ ((∃ y ∈ s.barriers, y.level = 3 ∧ y.group = g) ∨ (freeBarrierSlot s).isSome = true →
        LeadsTo (.podBarrierArrival g { pkg := p, sig := sg }) s fun t => SameMemory s t ∧ SameCores s t
          ∧ ∃ y ∈ t.barriers, y.level = 3 ∧ y.group = g ∧ p ∈ y.pods)
    ∧ ((∀ y ∈ s.barriers, ¬ (y.level = 3 ∧ y.group = g)) → freeBarrierSlot s = none →
        exec (.podBarrierArrival g { pkg := p, sig := sg }) s = .next { s with podWaits := s.podWaits ++ [(g, p, sg)] })
    ∧ (ownerCancelled s (getOT s n) = false → (getOT s n).st ≠ 2 → NoEffect (.frondRelease n) s)
    ∧ ((getOT s n).st = 2 → rulesOn s n = [] → restRules s n = [] → LeadsTo (.frondRelease n) s fun t => (getOT t n).st = 0)
    ∧ (ownerCancelled s (getOT s n) = true → LeadsTo (.frondRelease n) s fun t => (getOT t n).st ≠ 1)

/-- R40, R246, R249, R251, R371, R395, R396: a pop starts the run of the record that it takes, with what R15 and R22 give a
run, and its journal slot; a dead record is discarded, a pop all the same. A saved run goes on with its context; a queue that pre-empts,
and a time slice that has passed, decide a save; a save leaves the core idle, or with PREEMPT pending when the pool has
too few pages, and a pre-emption that has failed waits for the next pop. Which free pages a save takes is open (assumption 26), and when it
takes them, and that a core already being saved counts as idle, is assumption 51. That a context which cannot be restored ends its
run as FAILED, reported at port 8, is the model's choice, log entries 45 and 71. -/
def Obligations.RunEvents : Prop :=
  ∀ (c q v n : Nat) (x : TaskQ) (r : W512) (g : Sig) (why : SaveReason) (s : State),
    let k := getCore s c
    let f := getFctx s (vmid k)
    let takes := mayPop s c = true ∧ chooseQueue s c = some q ∧ takeRecord s c q = some (x, r, n, g) ∧ (getTQ s q).vf = some v
    let e := SMap.get (fun _ => (([], 0) : List Nat × Nat)) s.ctxPages (recCtx k.run.record / 65536)
    let restores := k.phase = .starting ∧ k.fenced = false ∧ k.save = none ∧ runCancelled s k = false
    let pre := getTQ s q
    let free := (List.range 160).any fun d => admits d (getCore s d) pre
      && (decide ((getCore s d).phase = .idle) || [some .preempt, some .slice, some .yield].contains (getCore s d).save)
    let preempts := serving s = true ∧ pre.preempt = true ∧ pre.enabled = true ∧ pre.head < pre.tail
      ∧ (getFctx s (pre.vf.getD 0)).enabled = true ∧ free = false ∧ SMap.get (fun _ => false) s.preemptWait q = false
    let u := repairArea s e.1
    let sound := areaPoisoned u e.1 = false ∧ areaOk u c (readArea u e.1) = true
    let fails := fun (t : State) (p : Nat) (g : Core → Core) => getCore t c = g k ∧ SameMemory s t ∧ OthersSame c s t
      ∧ (why = .preempt → SMap.get (fun _ => false) t.preemptWait p = true) ∧ (why ≠ .preempt → PackageSame s t)
    let saves := k.save = some why ∧ k.fenced = false ∧ k.frozen = false ∧ runCancelled s k = false
      ∧ pastDecrement k = false ∧ k.phase ≠ .starting ∧ atSave k = true
    let queued := why ≠ .stage2 ∧ why ≠ .disable ∧ k.s2fault = none
    let room := pinned k = true ∨ tqFull (getTQ s k.run.queue) = false
    (mayPop s c = false ∨ chooseQueue s c = none → NoEffect (.pop c) s)
    ∧ (takes → recordDead s v r = false → recCtx r = 0 → LeadsTo (.pop c) s fun t =>
        let l := getCore t c
        l.phase = .running ∧ l.pc = recCode r / 32 * 32 % 2 ^ 55 ∧ l.run = { record := r, queue := q, index := n, vf := v }
        ∧ l.stage = recStage r ∧ rdS l.regs 62 = recFrame r
        ∧ rdS l.regs 1 = BitVec.ofNat 64 ((getFctx s v).jrec + 64 * c)
        ∧ (∀ m, m ∉ [1, 62] → rdS l.regs m = 0) ∧ (∀ m, rdP l.regs m = decide (m = 0)) ∧ (∀ m, rdD l.regs m = 0)
        ∧ field l.regs.cr.status 0 2 = 0 ∧ bit l.regs.cr.status 4 = false ∧ l.regs.cr.warn = 0
        ∧ l.regs.cr.asid = (getFctx s v).defasid.setWidth 64 ∧ l.held = true
        ∧ l.journal.record = r ∧ l.journal.phase = .running ∧ l.journal.queue = q ∧ l.journal.index = n ∧ l.journal.stamp = l.hlc
        ∧ (s.held = [] → getTQ t q = { x with passed := 0 }))
    ∧ (takes → recordDead s v r = true → recCtx r = 0 → recJoin r = 0 → s.held = [] → LeadsTo (.pop c) s fun t =>
        (getCore t c).phase = .idle ∧ (getCore t c).stage = recStage r ∧ getTQ t q = { x with passed := 0 }
        ∧ (NoMirrors s → ∀ tr a, tqSlot s (getTQ s q) (getTQ s q).head false = some tr → OffLeaves tr a → memByte t a = memByte s a))
    ∧ (¬ restores → NoEffect (.contextRestore c) s)
    ∧ (restores → e.1 ≠ [] → sound → LeadsTo (.contextRestore c) s fun t =>
        recCtx (getCore t c).run.record = 0 ∧ (getCore t c).sliceTime = 0
        ∧ SMap.get (fun _ => ([], 0)) t.ctxPages (recCtx k.run.record / 65536) = ([], 0))
    ∧ (restores → e.1 = [] ∨ ¬ sound → LeadsTo (.contextRestore c) s fun t =>
        (getCore t c).phase = .idle ∧ (getCore t c).journal.phase = .done
        ∧ ∃ y ∈ t.faultRing, y.gcore = c ∧ y.cause = 6 ∧ y.ipa = recCtx k.run.record)
    ∧ (preempts → victim s pre = some n → LeadsTo (.preemption q) s fun t =>
        CoreOnly n s t fun k => { k with save := some .preempt, wake := true, preemptBy := q })
    ∧ (preempts → victim s pre = none → outranked s pre ≠ [] → exec (.preemption q) s = .next { s with
        preemptWait := SMap.set (fun _ => false) s.preemptWait q true })
    ∧ (¬ preempts ∨ (victim s pre = none ∧ outranked s pre = []) → NoEffect (.preemption q) s)
    ∧ (k.phase ≠ .idle → f.slice ≠ 0 → f.slice * 3300 ≤ k.sliceTime → LeadsTo (.timeSlice c) s fun t =>
        CoreOnly c s t fun k => if savable s k then { k with sliceTime := 0, save := some .slice, wake := true }
          else { k with sliceTime := 0 })
    ∧ (k.phase = .idle ∨ f.slice = 0 ∨ k.sliceTime < f.slice * 3300 → NoEffect (.timeSlice c) s)
    ∧ (k.save = none → NoEffect (.hardwareSave c) s)
    ∧ (saves → (queued → room) → (poolPages s (vmid k) 12).length = 12 → LeadsTo (.hardwareSave c) s fun t =>
        (getCore t c).phase = .idle ∧ (getCore t c).journal.phase = .empty ∧ (getCore t c).buf = []
        ∧ (getCore t c).held = false)
    ∧ (saves → queued → room → (poolPages s (vmid k) 12).length < 12 → LeadsTo (.hardwareSave c) s fun t =>
        fails t k.preemptBy fun k => { k with save := none, wake := true, ptraps := k.ptraps ++
          [{ cause := 0x0F, einfo := BitVec.ofNat 64 (reasonCode why + min (freePages s (vmid k)) 255 * 256) }] })
    ∧ (saves → queued → ¬ room → LeadsTo (.hardwareSave c) s fun t => fails t k.preemptBy fun k => { k with save := none })

/-- R44, R208, R220, R221, R259, R294, R310, R313, R343, R344, R377: a WAITF whose condition holds ends with status 0, with an
edge record if it has stalled, and with 1 after its timeout; a wake event ends a WFI; the header's wait reads its flag; a
returned value is written, or its trap is pending; a far access is answered by its target, and what of
it goes elsewhere, which has stood at the head of the buffer, is then the core's next access. What a target answers is an input, and
an answer that the state of the link or of the pod rules out does nothing: the model's choice, log entry 4. -/
def Obligations.WaitEvents : Prop :=
  ∀ (c n cond dst el i q : Nat) (w : W32) (lim : Option Nat) (b : BufItem) (l : List BufItem) (r : Ret) (it : FarItem)
    (fb : BufItem) (a : Access) (ans : FarAns) (d : BitVec 128) (p sg : Bool) (fl : List FarItem) (s : State),
    let k := getCore s c
    let v := (getFlag k n).bits
    let met := match cond with
      | 0 => w.toNat ≤ v.toNat
      | 1 => v = w
      | 2 => v &&& w ≠ 0
      | _ => v ≠ w
    let waits := k.buf = b :: l ∧ b.ev = .waitf n cond w lim dst el ∧ b.began = true ∧ performStops k = false
    let ended := fun (st : Nat) (k : Core) =>
      { k with buf := l, rets := k.rets ++ [{ dest := .s dst, val := BitVec.ofNat 512 st, dead := b.dead }] }
    let sig := flagSig k n
    let farIt := SMap.get (fun _ => ([] : List FarItem)) k.far q = it :: fl ∧ k.fenced = false
    let up := farUp s q = true ∧ (q < 4096 → it.inc = (getPod s q).inc)
    let left := fun t : State => SMap.get (fun _ => ([] : List FarItem)) (getCore t c).far q = fl
    let load := it.who = .core fb a ∧ a.kind = .ld sg ∧ a.size ≠ 16 ∧ a.acc = [] ∧ a.done = 0 ∧ a.poison = false
      ∧ it.write = false ∧ it.atomic = false
    let m := ((eventsOf it.va it.size).headD (it.va, it.size)).2
    let head := fun (u : State) (h : W64) => field h 56 2 = 0 ∨
      (let x : W32 := BitVec.ofNat 32 (field h 40 16)
       let y := (getFlag (getCore u c) (field h 58 6)).bits
       (field h 56 2 = 1 ∧ x.toNat ≤ y.toNat) ∨ (field h 56 2 = 2 ∧ y = x) ∨ (field h 56 2 = 3 ∧ y &&& x ≠ 0))
    (waits → met → b.waited = 0 → LeadsTo (.waitRelease c) s fun t => CoreOnly c s t fun k =>
        { ended 0 k with hlc := maxW (maxW k.hlc sig.stamp) (phys s) + 1 })
    ∧ (waits → met → b.waited ≠ 0 → LeadsTo (.waitRelease c) s fun t => (getCore t c).buf = l
        ∧ (getCore t c).rets = (ended 0 k).rets ∧ (getCore t c).edgeSeq = nextSeq k.edgeSeq
        ∧ getPath (getCore t c) 0 = if (getPath k 0).path ≤ sig.path then { path := sig.path, ref := edgeRef c 0 k.edgeSeq }
            else getPath k 0)
    ∧ (waits → ¬ met → NoEffect (.waitRelease c) s)
    ∧ (k.buf = b :: l → b.ev = .waitf n cond w lim dst el → performStops k = false → NothingLost s c → b.waited = 0 →
        LeadsTo (.perform c) s fun t => SameMemory s t ∧ OthersSame c s t ∧ (getCore t c).regs = k.regs
          ∧ (met → (getCore t c).buf = l ∧ (getCore t c).rets = (ended 0 k).rets)
          ∧ (¬ met → (getCore t c).buf = { b with began := true } :: l ∧ (getCore t c).rets = k.rets))
    ∧ (∀ j, waits → ¬ met → lim = some j → j ≤ el → LeadsTo (.waitfTimeout c) s fun t => CoreOnly c s t (ended 1))
    ∧ (waits → met ∨ lim = none → NoEffect (.waitfTimeout c) s)
    ∧ (∀ j, waits → lim = some j → el < j → NoEffect (.waitfTimeout c) s)
    ∧ (k.buf = b :: l → b.ev = .wfi → if k.wake = true ∧ k.frozen = false ∧ k.fenced = false
        then LeadsTo (.wfiWake c) s fun t => CoreOnly c s t fun k => { k with wake := false, buf := l }
        else NoEffect (.wfiWake c) s)
    ∧ (mayFetch s k = false ∨ k.buf ≠ [] → NoEffect (.headerWait c) s)
    ∧ (∀ u x z, mayFetch s k = true → k.buf = [] → fetchBundle s c = (u, .ok x) →
        decodeSlots (beginBundle u c (headerOf x)) (presentSlots x) = .ok z → (getCore u c).hdrOk ≠ some (getCore u c).pc →
        LeadsTo (.headerWait c) s fun t => if head u (headerOf x) then (getCore t c).hdrOk = some (getCore u c).pc
          else (getCore t c).hdrOk = (getCore u c).hdrOk ∧ (getCore t c).stall = .header)
    ∧ (k.rets[i]? = none → NoEffect (.loadReturn c i) s)
    ∧ (k.frozen = true ∨ k.fenced = true → NoEffect (.loadReturn c i) s)
    ∧ (k.rets[i]? = some r → k.frozen = false → k.fenced = false → LeadsTo (.loadReturn c i) s fun t => CoreOnly c s t fun k =>
        match r.trap, r.dest with
        | some z, _ => { k with rets := k.rets.eraseIdx i, ptraps := k.ptraps ++ [z], wake := true }
        | none, .s n => { k with rets := k.rets.eraseIdx i,
                                 regs := if n ∈ r.dead then k.regs else wrS k.regs n (r.val.setWidth 64) }
        | none, .pair n => { k with rets := k.rets.eraseIdx i,
                                    regs := wrLate (wrLate k.regs r.dead n (r.val.extractLsb' 0 64)) r.dead (n + 1)
                                      (r.val.extractLsb' 64 64) }
        | none, .d n => { k with rets := k.rets.eraseIdx i,
                                 regs := if 64 + n ∈ r.dead then k.regs else wrD k.regs n r.val })
    ∧ (SMap.get (fun _ => ([] : List FarItem)) k.far q = [] → NoEffect (.deliver c q ans) s)
    ∧ (k.fenced = true → NoEffect (.deliver c q ans) s)
    ∧ (farIt → up → NoEffect (.deliver c q .lost) s)
    ∧ (farIt → farUp s q = false → NoEffect (.deliver c q .refused) s ∧ NoEffect (.deliver c q (.done d p)) s)
    ∧ (∀ x, farIt → up → load → m < a.size → it.size ≤ m → k.buf = b :: l → b.ev = .access x → x.out = true →
        LeadsTo (.deliver c q (.done d p)) s fun t => left t ∧ SameMemory s t
        ∧ (getCore t c).rets = k.rets ∧ ∃ y : Access, (getCore t c).buf = { fb with ev := .access y } :: l
          ∧ y.ea = a.ea ∧ y.size = a.size ∧ y.done = m ∧ y.acc = toBytes m d ∧ y.poison = p ∧ y.out = false)
    ∧ (farIt → up → load → a.size ≤ m → LeadsTo (.deliver c q (.done d p)) s fun t => left t ∧ SameMemory s t
        ∧ (getCore t c).rets = k.rets ++ [{ dest := .s a.dst, val := loadRet sg a.size (natOfBytes (toBytes m d)),
                                            dead := fb.dead, trap := if p = true then some { cause := 0x10, einfo := BitVec.ofNat 64 a.ea } else none }])
    ∧ (farIt → farUp s q = true → load →
        LeadsTo (.deliver c q .refused) s fun t => left t ∧ SameMemory s t
        ∧ (getCore t c).rets = k.rets ++ [{ dest := .s a.dst, dead := fb.dead, trap := some { cause := 6, einfo := BitVec.ofNat 64 a.ea } }])
    ∧ (farIt → farUp s q = false → load →
        LeadsTo (.deliver c q .lost) s fun t => left t ∧ SameMemory s t ∧ (getCore t c).farLost = true
        ∧ (getCore t c).rets = k.rets ++ [{ dest := .s a.dst, dead := fb.dead, trap := some { cause := 0x11, einfo := BitVec.ofNat 64 a.ea } }])
    ∧ (farIt → farUp s q = true → it.who = .core fb a → a.kind = .st → it.write = true →
        LeadsTo (.deliver c q .refused) s fun t => left t ∧ SameMemory s t ∧ (getCore t c).rets = k.rets
        ∧ (getCore t c).regs.cr.farlost = (satInc 32 (k.regs.cr.farlost.setWidth 32)).setWidth 64)

/-! ### The program buffer -/

/-- R20, R28, R119, R200 to R202, R205, R213, R220 to R224, R229, R292: the head of a program buffer performs its event: the
flag instructions, a push into its queue or its wait for room, a load, a store and an atomic of one event in memory of
this package, the forwarding of one that goes to another package or to the host, the cleaning, unmapping and dropping of a
window, and the flip of a page's bias. Which firings a window instruction waits for is the model's choice, log entry 63. -/
def Obligations.PerformEvents : Prop :=
  ∀ (c n q dst ea at_ : Nat) (w : W32) (v : Nat) (x : Cmd) (a : Access) (sg unmap toHost : Bool) (d : W512) (i : Option Nat) (g : Dirty)
    (y_ : Win) (b : BufItem) (l : List BufItem) (tr : Trans) (s : State),
    let k := getCore s c
    let u := stampEvent s c
    let head := fun e : Ev => k.buf = b :: l ∧ b.ev = e ∧ performStops k = false ∧ NothingLost s c ∧ s.ltime + 1 < 2 ^ 48
    let flags := fun (t : State) (f : PV 32) => (getCore t c).buf = l ∧ (getCore t c).regs = k.regs ∧ SameMemory s t
      ∧ OthersSame c s t ∧ ∀ m, getFlag (getCore t c) m = if m = n then f else getFlag k m
    let f := getFlag k n
    let size := a.size
    let dest := if size = 16 then Dest.pair (a.dst / 2 * 2) else Dest.s a.dst
    let one := eventsOf a.ea size = [(a.ea, size)] ∧ 0 < size ∧ a.done = 0 ∧ a.acc = [] ∧ a.poison = false ∧ a.out = false
    let outward := fun rd wr : Bool => translate u (vmid k) b.asid a.ea rd wr false [0] = .ok tr ∧ goesOut tr = true
      ∧ needsRepair u tr.pa = false ∧ (farQueue tr.pa < 4096 → (getPod s (farQueue tr.pa)).up = true)
    let waiting := fun (t : State) => SMap.get (fun _ => ([] : List FarItem)) (getCore t c).far (farQueue tr.pa)
    let sent := fun write atomic : Bool => LeadsTo (.perform c) s fun t => (getCore t c).buf = l ∧ (getCore t c).regs = k.regs
      ∧ (getCore t c).rets = k.rets ∧ (∀ z, OffLeaves tr z → memByte t z = memByte s z)
      ∧ ∃ it, waiting t = waiting s ++ [it] ∧ it.pa = tr.pa ∧ it.va = a.ea ∧ it.size = size ∧ it.write = write
        ∧ it.atomic = atomic ∧ it.who = .core b a ∧ it.src = Config.pkg.toNat ∧ it.vf = vmid k
        ∧ it.tkey = (getFctx s (vmid k)).tkey ∧ it.inc = (getPod s (farTarget tr.pa)).inc
    let reach := fun rd wr : Bool => translate u (vmid k) b.asid a.ea rd wr false [0] = .ok tr ∧ isPackageMem u tr.pa = true
      ∧ tr.host = false ∧ needsRepair u tr.pa = false ∧ NoMirrors s ∧ ∀ i, i < size → OffLeaves tr (tr.pa + i)
    let m := 2 ^ (8 * size)
    let signed := fun z : Nat => if z < m / 2 then (z : Int) else (z : Int) - m
    let p := a.x.toNat % m
    let y := a.y.toNat % m
    let new := match a.kind with
      | .amo op => some (match op.toNat with
        | 0 => (v + p) % m
        | 1 => v &&& p
        | 2 => v ||| p
        | 3 => v ^^^ p
        | 4 => if signed v ≤ signed p then v else p
        | 5 => if signed v ≤ signed p then p else v
        | 6 => min v p
        | 7 => max v p
        | _ => p)
      | .cas => if v = p then some y else none
      | _ => if v + p ≤ y then some (v + p) else none
    let atomic := (∃ op, a.kind = .amo op) ∨ a.kind = .cas ∨ a.kind = .bnd
    let elsewhere := fun t : State => ∀ z, ¬ (tr.pa ≤ z ∧ z < tr.pa + size) → OffLeaves tr z → memByte t z = memByte s z
    let stays := fun t : State => (getCore t c).buf = tried k b :: l ∧ SameMemory s t
    let busy := windowBusy k (tried k b).mark d
    let wins := fun (t : State) (f : Win → Option Win) => (getCore t c).wins = k.wins.flatMap fun z =>
      if sameMapping z.desc y_.desc then (f z).toList else [z]
    let flips := head (.biasflip toHost ea) ∧ translate u (vmid k) b.asid ea false false false [] = .ok tr
    (k.buf = [] ∨ performStops k = true → NoEffect (.perform c) s)
    ∧ (∀ e ∈ [Ev.sflush unmap d, .sdrop d i], head e → windowOf k d = none → LeadsTo (.perform c) s fun t =>
        (getCore t c).buf = l ∧ SameMemory s t)
    ∧ (∀ e ∈ [Ev.sflush unmap d, .sdrop d i], head e → windowOf k d = some y_ → busy = true → LeadsTo (.perform c) s stays)
    ∧ (head (.sflush false d) → windowOf k d = some y_ → busy = false → LeadsTo (.perform c) s fun t =>
        (getCore t c).buf = l ∧ SameMemory s t ∧ wins t fun z => some { z with dirty := [] })
    ∧ (head (.sflush true d) → windowOf k d = some y_ → busy = false → LeadsTo (.perform c) s fun t =>
        (getCore t c).buf = l ∧ SameMemory s t ∧ wins t fun _ => none)
    ∧ (head (.sdrop d i) → windowOf k d = some y_ → busy = false → y_.dirty = [] → LeadsTo (.perform c) s fun t =>
        (getCore t c).buf = l ∧ SameMemory s t ∧ wins t fun _ => none)
    ∧ (head (.sdrop d i) → windowOf k d = some y_ → busy = false → lowestDirty y_.dirty = some g → NoMirrors s →
        LeadsTo (.perform c) s fun t => (getCore t c).buf = { tried k b with ev := .sdrop d (some g.pa) } :: l
          ∧ memBytes t g.pa 64 = toBytes 64 g.old ∧ SameMemoryBut g.pa 64 s t
          ∧ wins t fun z => some { z with dirty := z.dirty.filter fun e => decide (e.pa ≠ g.pa) })
    ∧ (flips → tr.e1 = none ∨ tr.host = toHost → LeadsTo (.perform c) s fun t => (getCore t c).buf = l ∧ SameMemory s t)
    ∧ (flips → tr.e1 = some at_ → tr.host ≠ toHost → isPackageMem s at_ = true → NoMirrors s → s.devHost = [] →
        (∀ e ∈ s.cores, e.2.far = []) → LeadsTo (.perform c) s fun t => (getCore t c).buf = l
          ∧ memBytes t at_ 8 = toBytes 8 (setField (rd64 s at_) 54 1 toHost.toNat) ∧ SameMemoryBut at_ 8 s t)
    ∧ (head (.fset n w) → LeadsTo (.perform c) s fun t => flags t { bits := w })
    ∧ (head (.fadd n w) → LeadsTo (.perform c) s fun t => flags t (if f.poison then f else { bits := f.bits + w }))
    ∧ (head (.frd n dst) → LeadsTo (.perform c) s fun t => flags t f
        ∧ (getCore t c).rets = k.rets ++ [{ dest := .s dst, val := f.bits.setWidth 512, dead := b.dead, trap := if f.poison then some { cause := 0x10, einfo := BitVec.ofNat 64 (0xFFF0000000000 + c * 65536 + 4 * n) } else none }])
    ∧ (head (.push q x) → LeadsTo (.perform c) s fun t => SameMemory s t ∧ OthersSame c s t ∧ (getCore t c).regs = k.regs
        ∧ if (getEng k q).queue.length < 64
          then (getCore t c).buf = l ∧ ∃ g, (getEng (getCore t c) q).queue = (getEng k q).queue ++ [{ x with sig := g, seq := k.actSeq + 1 }]
          else (getCore t c).buf = { b with began := true } :: l ∧ (getEng (getCore t c) q).queue = (getEng k q).queue)
    ∧ (head (.access a) → one → a.kind = .ld sg → reach true false → LeadsTo (.perform c) s fun t =>
        (getCore t c).buf = l ∧ (getCore t c).regs = k.regs ∧ (∀ z, OffLeaves tr z → memByte t z = memByte s z)
        ∧ (getCore t c).rets = k.rets ++ [{ dest := dest, val := loadRet sg size (natOfBytes (memBytes s tr.pa size)), dead := b.dead, trap := if poisonedAt s tr.pa size then some { cause := 0x10, einfo := BitVec.ofNat 64 a.ea } else none }])
    ∧ (head (.access a) → one → a.kind = .st → reach false true → LeadsTo (.perform c) s fun t =>
        (getCore t c).buf = l ∧ (getCore t c).regs = k.regs ∧ (getCore t c).rets = k.rets ∧ elsewhere t
        ∧ memBytes t tr.pa size = (List.range size).map (byteOf a.x))
    ∧ (head (.access a) → one → atomic → reach true true → poisonedAt s tr.pa size = false →
        v = natOfBytes (memBytes s tr.pa size) → LeadsTo (.perform c) s fun t =>
          (getCore t c).buf = l ∧ (getCore t c).regs = k.regs ∧ elsewhere t
          ∧ (getCore t c).rets = k.rets ++ [{ dest := dest, val := atomicRet size v, dead := b.dead }]
          ∧ memBytes t tr.pa size = match new with
            | some r => toBytes size (BitVec.ofNat 128 r)
            | none => memBytes s tr.pa size)
    ∧ (head (.access a) → one → a.kind = .ld sg → outward true false → sent false false)
    ∧ (head (.access a) → one → a.kind = .st → outward false true → sent true false)
    ∧ (head (.access a) → one → atomic → outward true true → sent false true)

/-- R226 to R228, R253 to R258, R260 to R264, R269, R273, R275, R276, R284, R286, R293, R295, R297 to R303, R305 to R307,
R318 to R320, R379, R380, R389: the tasks, tags, bindings, slices, barriers, fences, steps and context instructions as their
entries perform: what each returns, changes or faults with. Which free tag TAGNEW takes is open (assumption 26). The model's
choices: a JOINADD of a poisoned block raises POISON_CONSUMED with the block's address (assumption 67), and a BAR's block, an
SLOPEN's record or a CTXLOAD's area that an error has destroyed is ACCESS_FAULT (assumption 71). -/
def Obligations.PerformTasks : Prop :=
  ∀ (c n q dst ea z : Nat) (g : W32) (nb poison : Bool) (img blk : List Byte) (w : W64) (mark chan : Option Nat)
    (mark_ : Option (List Nat)) (got : List W64) (report : BitVec 256) (x : Barrier) (m_ : Img) (b : BufItem)
    (l : List BufItem) (tr : Trans) (s u1 : State) (pa pb root : Nat),
    let k := getCore s c
    let u := stampEvent s c
    let head := fun e : Ev => k.buf = b :: l ∧ b.ev = e ∧ performStops k = false ∧ headWaits s c b = false ∧ NothingLost s c
    let tb := tried k b
    let stays := fun (t : State) (e : BufItem) => (getCore t c).buf = e :: l ∧ SameMemory s t
    let reaches := fun (v : State) (a : Nat) => translate v (vmid k) b.asid a false true false [0] = .ok tr
      ∧ isPackageMem v tr.pa = true ∧ tr.host = false ∧ needsRepair v tr.pa = false ∧ NoMirrors s
      ∧ ∀ i, i < 16 → OffLeaves tr (tr.pa + i)
    let u2 := hlcLocal u c
    let done := fun t : State => (getCore t c).buf = l
    let gives := fun (t : State) (v : Nat) => (getCore t c).buf = l
      ∧ (getCore t c).rets = k.rets ++ [{ dest := .s dst, val := BitVec.ofNat 512 v, dead := b.dead }]
    let traps := fun (cause : BitVec 8) (einfo : Nat) => LeadsTo (.perform c) s fun t => (getCore t c).buf = l
      ∧ (∃ p, (getCore t c).ptraps = k.ptraps ++ [p] ∧ p.cause = cause ∧ p.einfo = BitVec.ofNat 64 einfo)
    let ends := fun P : State → Prop => LeadsTo (.perform c) s P
    let own := vmid k
    let tag := getTag s n
    let count := natOfBytes (memBytes s pa 4)
    let joins := head (.joinadd ea n) ∧ NoMirrors s ∧ tr.pa = pa ∧ (∀ i, i < 4 → OffLeaves tr (pa + i))
      ∧ blockXl u c b.asid (BitVec.ofNat 64 ea) 128 (fun m => decide (m ≠ 2)) true true = .ok tr
    let o := getOT s pa
    let m := z % 2 ^ 40
    let slice := fun (op : SlOp) (opening : Bool) => head (.slice op ea z dst)
      ∧ sliceRecord u c b.asid opening (BitVec.ofNat 64 ea) = .ok pa
    let live := o.st = 1 ∧ o.feed = none
    let pr := prepare u pa 256 {}
    let rec_ := readRecord pr pa own (runTag k)
    let whole := poisonedAt pr pa 256 = false
    let feeds := getRule k n
    let top := max m o.c
    let fork := slice .fork false ∧ recordAt u c b.asid (BitVec.ofNat 64 z) cacheable = .ok pb
    let core := field w 44 8
    let seq := field w 0 40
    let named := getCore s core
    let edge := head (.edgerd n w dst q got)
    let foreign := field w 52 12 ≠ Config.pkg.toNat ∨ 160 ≤ core
      ∨ (if named.phase = .idle then named.prevVf else some named.run.vf) ≠ some own
    let place := ringSlot named.regs.cr.edgebase seq + if got.length = 2 then 16 else 0
    let rd := readPhys (touchLeaves u tr false) tr.pa 16 {}
    let more := got ++ [ofBytes 64 (rd.2.1.take 8), ofBytes 64 (rd.2.1.drop 8)]
    let tagged := fun v : W64 => field v 60 4 = field w 40 4 ∧ field v 0 40 = seq
    let answers := fun (t : State) (st : Nat) (v : W64) => (getCore t c).buf = l ∧ (getCore t c).rets = k.rets
      ++ [{ dest := .s dst, val := v.setWidth 512, dead := b.dead }, { dest := .s q, val := BitVec.ofNat 512 st, dead := b.dead }]
    let bar := head (.bar n ea dst none blk) ∧ (n = 3 → farPending k tb.farMark = false ∧ copyPending k tb.mark none = false)
      ∧ blockXl u c b.asid (BitVec.ofNat 64 ea) 64 (fun m => decide (m ≠ 2)) true false = .ok tr
    let b3 := if n = 3 then tb else b
    let granule := readPhys (touchLeaves u tr false) (tr.pa + blk.length) 16 {}
    let pmask : BitVec 160 := ofBytes 160 (blk.take 20)
    let arrives := bar ∧ 64 ≤ blk.length ∧ pmask.getLsbD c = true ∧ levelLeaves n c pmask = false
    let there := u.barriers.find? (sameBarrier tr.pa (ofBytes 32 ((blk.drop 24).take 4)) n)
    let arrived := fun (t : State) (i : Nat) => (getCore t c).buf
        = { b3 with ev := .bar n ea dst (some i) blk, began := true, waited := 0 } :: l
      ∧ ∃ y ∈ t.barriers, y.slot = i ∧ y.level = n ∧ c ∈ y.arrived
    let binds := head (.fbind n z ea) ∧ recordAt u c b.asid (BitVec.ofNat 64 ea) (fun _ => true) = .ok pa
    let spawns := head (.spawn nb ea q dst img poison none) ∧ 64 ≤ img.length ∧ imagePending k = false
      ∧ spawnFault u own ea q img poison = none
    (k.buf = b :: l → headWaits s c b = true → NoEffect (.perform c) s)
    ∧ (joins → poisonedAt s pa 4 = true → traps 0x10 ea)
    ∧ (joins → poisonedAt s pa 4 = false → count = 0 → traps 0x0D (2 ^ 62 + ea % 2 ^ 55))
    ∧ (joins → poisonedAt s pa 4 = false → count ≠ 0 → 2 ^ 32 ≤ count + n → traps 0x0D (2 ^ 63 + ea % 2 ^ 55))
    ∧ (joins → poisonedAt s pa 4 = false → count ≠ 0 → count + n < 2 ^ 32 → ends fun t => done t
        ∧ natOfBytes (memBytes t pa 4) = count + n
        ∧ ∀ z, ¬ (pa ≤ z ∧ z < pa + 4) → OffLeaves tr z → memByte t z = memByte s z)
    ∧ (head (.tagnew false n g dst) → tag.live = false ∨ tag.vf ≠ own → traps 6 (2 ^ 63 + n % 2 ^ 16))
    ∧ (head (.tagnew false n g dst) → tag.live = true → tag.vf = own → tag.cancelling = true → traps 0x0E (n % 2 ^ 16))
    ∧ (head (.tagnew false n g dst) → tagLive tag = true → tag.vf = own → tagCount s own < (getFctx s own).tagquota →
        tag.depth < 32 → freeTag s < 65536 → ends fun t => gives t (freeTag s) ∧ SameMemory s t
          ∧ ∀ j, getTag t j = if j = freeTag s then { live := true, parent := some n, depth := tag.depth + 1, vf := own, group := if g = 0 then tag.group else g } else getTag s j)
    ∧ (head (.tagnew true n g dst) → tagCount s own < (getFctx s own).tagquota → freeTag s < 65536 → ends fun t =>
        gives t (freeTag s) ∧ SameMemory s t
          ∧ ∀ j, getTag t j = if j = freeTag s then { live := true, depth := 1, vf := own, group := g } else getTag s j)
    ∧ (head (.tagnew false n g dst) → tagLive tag = true → tag.vf = own → (getFctx s own).tagquota ≤ tagCount s own →
        ends fun t => gives t (2 ^ 64 - 1) ∧ SameMemory s t ∧ ∀ j, getTag t j = getTag s j)
    ∧ (head (.cancel false n none) → tag.live = true → tag.vf ≠ own → traps 6 (2 ^ 63 + n % 2 ^ 16))
    ∧ (head (.cancel true n mark_) → mark_.any (cancelPending s) = false → mark_.isSome = true → ends fun t => done t ∧ SameMemory s t)
    ∧ (head (.cancel true n mark_) → mark_.any (cancelPending s) = true → ends fun t => (getCore t c).buf = b :: l ∧ SameMemory s t)
    ∧ (head (.cancel false n none) → tagLive tag = true → tag.vf = own → ends fun t => done t ∧ SameMemory s t
        ∧ t.podOut = (if tag.group = 0 then s.podOut else s.podOut ++ [.cancel own tag.group])
        ∧ ∀ j, (getTag s j).live = true → inSubtree s n 33 j = true → (getTag t j).cancelling = true)
    ∧ (slice .pub false → o.st ≠ 1 → ends fun t => gives t 1 ∧ SameMemory s t)
    ∧ (slice .pub false → o.st = 1 → o.feed ≠ none → ends fun t => gives t 2 ∧ SameMemory s t)
    ∧ (slice .pub false → live → claim u pa m = .ok u1 → feedsOf u1 pa = [] → ends fun t => gives t 0
        ∧ (getOT t pa).p = max (getOT u1 pa).p (m + 1) ∧ (getOT t pa).c = (getOT u1 pa).c
        ∧ (getOT t pa).t = max (getOT u1 pa).t (max (getOT u1 pa).p (m + 1)))
    ∧ (∀ i node, slice .pub false → live → claim u pa m = .error (i, node) → traps 0x0B (i % 2 ^ 40 + node.toNat * 2 ^ 63))
    ∧ (slice .tent false → live → claim u pa m = .ok u1 → feedsOf u1 pa = [] → ends fun t => gives t 0
        ∧ (getOT t pa).t = max (getOT u1 pa).t (m + 1) ∧ (getOT t pa).p = (getOT u1 pa).p ∧ (getOT t pa).c = (getOT u1 pa).c)
    ∧ (slice .commit false → live → o.t ≤ m → ends fun t => gives t 3 ∧ SameMemory s t)
    ∧ (slice .commit false → live → m < o.t → feedsOf s pa = [] → ends fun t => gives t 0
        ∧ (getOT t pa).c = max o.c (m + 1) ∧ (getOT t pa).p = max o.p (max o.c (m + 1)) ∧ (getOT t pa).t = o.t)
    ∧ (slice (.query n) false → ends fun t => SameMemory s t ∧ gives t (match n with
        | 0 => o.c
        | 1 => o.p
        | 2 => o.t
        | 3 => o.q
        | 4 => o.st
        | 5 => o.holdlow
        | 6 => o.pages
        | 7 => o.nrules
        | _ => o.owner))
    ∧ (slice .drop false → o.st = 1 → ends fun t => gives t 0 ∧ (getOT t pa).st = 2)
    ∧ (slice .drop false → o.st ≠ 1 → ends fun t => gives t 1 ∧ SameMemory s t)
    ∧ (slice .open true → o.st ≠ 0 → ends fun t => gives t 1 ∧ SameMemory s t)
    ∧ (slice (.openFeed n) true → o.st ≠ 0 → ends fun t => gives t 1 ∧ SameMemory s t)
    ∧ (∀ op ∈ [SlOp.open, .openFeed n], slice op true → o.st = 0 → poisonedAt pr pa 256 = true → traps 6 ea)
    ∧ (∀ op ∈ [SlOp.open, .openFeed n], slice op true → o.st = 0 → whole → recordOk rec_ = false →
        ends fun t => gives t 4 ∧ SameMemory pr t)
    ∧ (slice (.openFeed n) true → o.st = 0 → whole → recordOk rec_ = true → canFeed feeds = false →
        ends fun t => gives t 5 ∧ SameMemory pr t)
    ∧ (∀ op ∈ [SlOp.open, .openFeed n], ∀ e, slice op true → o.st = 0 → whole → recordOk rec_ = true →
        (op = .openFeed n → canFeed feeds = true) → takeNode pr own = .error e → ends fun t => gives t 6 ∧ SameMemory pr t)
    ∧ (slice .open true → o.st = 0 → whole → recordOk rec_ = true → takeNode pr own = .ok (u1, root) →
        ends fun t => gives t 0 ∧ getOT t pa = { rec_ with root := root } ∧ (getOT t pa).st = 1)
    ∧ (slice (.openFeed n) true → o.st = 0 → whole → recordOk rec_ = true → canFeed feeds = true →
        takeNode pr own = .ok (u1, root) → ends fun t => gives t 0
          ∧ getOT t pa = { rec_ with root := root, feed := some (c, n) } ∧ (getOT t pa).st = 1
          ∧ getRule (getCore t c) n = { feeds with feed := some (ea, pa) })
    ∧ (slice .reject false → o.st ≠ 1 → ends fun t => gives t 1 ∧ SameMemory s t)
    ∧ (slice .reject false → o.st = 1 → o.feed ≠ none → ends fun t => gives t 2 ∧ SameMemory s t)
    ∧ (∀ e, slice .reject false → live → reject u pa top (sigOf u c 0) = .error e → ends fun t => gives t 6 ∧ SameMemory s t)
    ∧ (slice .reject false → live → reject u pa top (sigOf u c 0) = .ok u1 → feedsOf s pa = [] → ends fun t => gives t 0
        ∧ (getOT t pa).p = min o.p top ∧ (getOT t pa).t = min o.t top ∧ (getOT t pa).q = min o.q top ∧ (getOT t pa).c = o.c
        ∧ (getCore t c).regs.cr = if m < o.c then crWarn k.regs.cr 4 else k.regs.cr)
    ∧ (fork → o.st ≠ 1 ∨ (getOT s pb).st ≠ 0 → ends fun t => gives t 1 ∧ SameMemory s t)
    ∧ (fork → o.st = 1 → (getOT s pb).st = 0 → freeNodes u o.vf = 0 → ends fun t => gives t 6 ∧ SameMemory s t)
    ∧ (fork → o.st = 1 → (getOT s pb).st = 0 → freeNodes u o.vf ≠ 0 → ends fun t => gives t 0 ∧ getOT t pa = o
        ∧ getRef t o.root = getRef s o.root + 1 ∧ (getOT t pb).root = o.root ∧ (getOT t pb).st = 1
        ∧ (getOT t pb).c = o.c ∧ (getOT t pb).p = o.p ∧ (getOT t pb).t = o.t ∧ (getOT t pb).q = o.t
        ∧ (getOT t pb).feed = none ∧ (getOT t pb).nrules = 0 ∧ (getOT t pb).owner = runTag k)
    ∧ (head (.fbind n 0 ea) → ends fun t => done t ∧ SameMemory s t ∧ SMap.get (fun _ => {}) (getCore t c).binds n = {})
    ∧ (binds → z ≠ 0 → o.st ≠ 1 → traps 6 (ea % 2 ^ 64))
    ∧ (binds → z ≠ 0 → o.st = 1 → ends fun t => done t ∧ SameMemory s t
        ∧ SMap.get (fun _ => {}) (getCore t c).binds n = { kind := z, va := ea, pa := pa }
        ∧ getFlag (getCore t c) n = { bits := BitVec.ofNat 32 (if z = 1 then o.c else if z = 2 then o.p else o.t) })
    ∧ (spawns → tqFull (getTQ s q) = false → tqSlot u (getTQ s q) (getTQ s q).tail true = some tr → ends fun t => gives t 0
        ∧ (getTQ t q).tail = (getTQ s q).tail + 1 ∧ memBytes t tr.pa 64 = toBytes 64 (spawnRecord img))
    ∧ (∀ f, spawns → tqFull (getTQ s q) = false → tqReach u (getTQ s q) (getTQ s q).tail true = .error f → ends fun t =>
        (getCore t c).buf = b :: l ∧ (getCore t c).s2fault = some f ∧ SameMemory s t)
    ∧ (spawns → tqFull (getTQ s q) = true → nb = true → ends fun t => gives t 2 ∧ SameMemory s t)
    ∧ (spawns → tqFull (getTQ s q) = true → nb = false → k.regs.cr.spawnwait.toNat ≠ 0 → ends fun t => SameMemory s t
        ∧ (getCore t c).buf = { b with ev := .spawn nb ea q dst img poison (some 0), began := true } :: l)
    ∧ (head (.stepmark w) → coreIdle k = true → ends fun t => done t ∧ SameMemory s t ∧ (getCore t c).paths = []
        ∧ (getCore t c).regs = { k.regs with cr := { k.regs.cr with step := w } })
    ∧ (head (.stepmark w) → coreIdle k = false → ends fun t => stays t b)
    ∧ (head (.stepend ea dst none) → coreIdle k = false → ends fun t => stays t b)
    ∧ (head (.stepend ea dst none) → coreIdle k = true → reaches u2 ea → ends fun t =>
        (getCore t c).buf = { b with ev := .stepend ea dst (some (stepReport c (getCore u2 c))) } :: l
        ∧ memBytes t tr.pa 16 = toBytes 16 (stepReport c (getCore u2 c)))
    ∧ (head (.stepend ea dst (some report)) → coreIdle k = true → reaches u (ea + 16) → ends fun t =>
        gives t (field report 64 40) ∧ memBytes t tr.pa 16 = toBytes 16 (report >>> 128))
    ∧ (edge → foreign → ends fun t => answers t 3 0 ∧ SameMemory s t)
    ∧ (edge → ¬ foreign → seq = 0 → ends fun t => answers t 2 0 ∧ SameMemory s t)
    ∧ (edge → ¬ foreign → seq ≠ 0 → ringTarget u core place false = none → ends fun t => answers t 1 0 ∧ SameMemory s t)
    ∧ (edge → ¬ foreign → seq ≠ 0 → ringTarget u core place false = some tr →
        (rd.2.2 = true → ends fun t => answers t 4 0)
        ∧ (rd.2.2 = false → more.length < 6 → ends fun t => (getCore t c).buf = { b with ev := .edgerd n w dst q more } :: l)
        ∧ (rd.2.2 = false → 6 ≤ more.length → tagged (nth 0 more 1) ∧ tagged (nth 0 more 5) →
            ends fun t => answers t 0 (nth 0 more n))
        ∧ (rd.2.2 = false → 6 ≤ more.length → ¬ (tagged (nth 0 more 1) ∧ tagged (nth 0 more 5)) →
            ends fun t => answers t 1 0))
    ∧ (head (.bar 3 ea dst none blk) → farPending k tb.farMark = true ∨ copyPending k tb.mark none = true →
        ends fun t => stays t tb)
    ∧ (bar → blk.length < 64 → granule.2.2 = true → traps 6 ea)
    ∧ (bar → blk.length < 64 → granule.2.2 = false → ends fun t =>
        (getCore t c).buf = { b3 with ev := .bar n ea dst none (blk ++ granule.2.1) } :: l)
    ∧ (bar → 64 ≤ blk.length → pmask.getLsbD c = false ∨ levelLeaves n c pmask = true → traps 6 ea)
    ∧ (arrives → there = none → freeBarrierSlot u = some z → ends fun t => arrived t z ∧ SameMemory s t)
    ∧ (arrives → there = some x → x.broken = false → ends fun t => arrived t x.slot ∧ SameMemory s t)
    ∧ (arrives → there = some x → x.broken = true → ends fun t => gives t 1 ∧ SameMemory s t)
    ∧ (∀ e, head (.bar n ea dst (some z) blk) → takeOwed k.owed z = some e → ends fun t => gives t e.1)
    ∧ (head (.bar n ea dst (some z) blk) → takeOwed k.owed z = none → ends fun t => stays t b)
    ∧ (head (.ctxsave ea none 0) → k.held = false → ends fun t => done t ∧ SameMemory s t
        ∧ (getCore t c).regs = { k.regs with cr := crWarn k.regs.cr 4 })
    ∧ (head (.ctxsave ea none 0) → k.held = true → enginesStopped k = false ∨ accessesDone k = false →
        ends fun t => stays t b)
    ∧ (head (.ctxsave ea none 0) → k.held = true → enginesStopped k = true → accessesDone k = true → ends fun t =>
        t.nextHold = s.nextHold + 1 ∧ SameMemory s t
        ∧ ∃ i, (getCore t c).buf = { b with ev := .ctxsave ea (some (s.nextHold, i)) 0 } :: l)
    ∧ (head (.ctxsave ea (some (n, m_)) z) → z < areaSize → reaches u (ea + z) → ends fun t =>
        (getCore t c).buf = { b with ev := .ctxsave ea (some (n, m_)) (z + 16) } :: l
        ∧ memBytes t tr.pa 16 = (List.range 16).map fun i => SMap.get memDefault m_ (z + i))
    ∧ (head (.ctxsave ea (some (n, m_)) z) → areaSize ≤ z → ends fun t => done t ∧ (getCore t c).held = false
        ∧ (getCore t c).rules = [] ∧ (getCore t c).wins = [] ∧ (getCore t c).engines = [] ∧ (getCore t c).tokens = []
        ∧ (getCore t c).ptraps = [] ∧ (getCore t c).regs = { k.regs with d := [] })
    ∧ (head (.ctxload ea m_ z) → l = [] → imagePending k = false → z < areaSize →
        translate u own b.asid (ea + z) true false false [0] = .ok tr → goesOut tr = false → needsRepair u tr.pa = false →
        (rd.2.2 = true → traps 6 ea)
        ∧ (rd.2.2 = false → ends fun t =>
            (getCore t c).buf = { b with ev := .ctxload ea (pokeBytes m_ z rd.2.1) (z + 16) } :: l))
    ∧ (head (.ctxload ea m_ z) → l = [] → imagePending k = false → areaSize ≤ z → accessesDone k = true →
        (areaOk u c m_ = false → traps 6 ea)
        ∧ (areaOk u c m_ = true → ends fun t => (getCore t c).held = true ∧ getCounter (getCore t c) 66 = getCounter k 66 + 1))
    ∧ (head .ifence → ends fun t => done t ∧ SameMemory s t ∧ (getCore t c).icache = [] ∧ (getCore t c).fenceTick = s.codeTick)
    ∧ (head (.ffence dst mark) → farPending k (mark.getD k.farSeq) = false → copyPending k tb.mark none = false → ends fun t =>
        gives t k.farLost.toNat ∧ SameMemory s t ∧ (getCore t c).farLost = false)
    ∧ (head (.ffence dst mark) → farPending k (mark.getD k.farSeq) = true ∨ copyPending k tb.mark none = true → ends fun t =>
        stays t { tb with ev := .ffence dst (some (mark.getD k.farSeq)) })
    ∧ (head (.drain chan) → copyPending k tb.mark chan = false → b.waited = 0 → ends fun t => done t ∧ SameMemory s t)
    ∧ (head (.drain chan) → copyPending k tb.mark chan = true → ends fun t => stays t tb)
    ∧ (head (.squash n) → squashWaits k = false → ends fun t => done t ∧ SameMemory s t ∧ (getCore t c).tokens = []
        ∧ ∀ i, (getEng (getCore t c) i).queue = (getEng k i).queue.filter fun x => decide (x.gen ≠ n))
    ∧ (head (.squash n) → squashWaits k = true → ends fun t => SameMemory s t ∧ (getCore t c).buf = b :: l
        ∧ ∀ a ∈ agentList, ∀ y ∈ actsOf (getCore t c) a, y.rule = none → y.retiring = true → y.giveL = false ∧ y.giveR = false)
    ∧ (head .yield → ends fun t => done t ∧ SameMemory s t
        ∧ (getCore t c).save = if workWaits s c = true ∧ (pinned k = true ∨ tqFull (getTQ s k.run.queue) = false) then (k.save <|> some .yield) else k.save)
    ∧ (∀ i, head (.finish nb) → k.phase = .finishing 4 nb i → k.ptraps = [] → recJoin k.run.record = 0 → ends fun t =>
        (getCore t c).phase = .idle ∧ (getCore t c).journal.phase = .done ∧ (getCore t c).buf = [])

/-! ### The engines at work -/

/-- R29 to R32, R35, R125, R202 to R204, R335: a command whose takes the FIFOs grant issues where no firing goes before it, and
performs its operation; a
predicated-off one only takes and gives; a command that has done everything retires, gives where there is room and else
stays; an access is one event; a window's granule is filled at its first touch, ahead of an MMA too, and written back; a
fault halts its command at its port; a core that has stood in a deadlock for 4,096 cycles has TOKEN_DEADLOCK pending. That a
give has room where at most 14 tokens stand, whatever is taken in the same cycle, and that an entry leaves its queue as it
issues, are the model's choice, log entry 9. -/
def Obligations.EngineEvents : Prop :=
  ∀ (c q a n i g port : Nat) (wr : Bool) (x : Active) (it : Item) (e : Elem) (w : Cmd) (l : List Cmd) (ins : Instr) (s u : State),
    let k := getCore s c
    let acts := fun t : State => actsOf (getCore t c) (q + 1)
    let issues := q < 6 ∧ canIssue s.now k q = true ∧ laneFirst s c q = false ∧ (getEng k q).queue = w :: l
    let taken := fun t : State => (getEng (getCore t c) q).queue = l
      ∧ ∀ f ∈ takesOf q w.word, getTok (getCore t c) f = (getTok k f).tail
    let unfed := (∀ v, fedRecord v c w = none ∧ lostRecord v c { cmd := w } = none)
      ∨ (getEng k q).refused = [] ∧ fedRecord s c w = none ∧ lostRecord s c { cmd := w } = none
    let plain := retireIndex k (q + 1) = some n ∧ acts s = [x] ∧ q < 6 ∧ mayRetire k (q + 1) x = true
      ∧ opcodeOf x.cmd.word ≠ 0xB5 ∧ x.pubs = [] ∧ x.rq = [] ∧ x.traps = [] ∧ x.fpN = 0 ∧ x.holds = []
    let givesR := x.cmd.word.getLsbD 52
    let givesL := x.cmd.word.getLsbD 53
    let tok := fun (t : State) (f : Nat) => getTok (getCore t c) f
    let room := (tok s (fifoGiveR q)).length ≤ 14
    let others := ∀ b ∈ agentList, b ≠ q + 1 → ∀ y ∈ actsOf k b, y.retiring = false
    (q < 6 → canIssue s.now k q = false ∨ laneFirst s c q = true → (getEng k 4).again = [] → NoEffect (.commandIssue c q) s)
    ∧ (issues → w.tokenOnly = true → LeadsTo (.commandIssue c q) s fun t => taken t
        ∧ ∃ y, acts t = acts s ++ [y] ∧ y.cmd = w ∧ y.stage = 2 ∧ y.ran = true ∧ y.reads = [] ∧ y.writes = [])
    ∧ (issues → w.tokenOnly = false → isCopyWord w.word = false → unfed → pick w.word = some ins →
        ∃ v y, taken v ∧ acts v = acts s ++ [y] ∧ y.cmd = w ∧ y.stage = 0
          ∧ LeadsTo ins { v with cur := c, role := .agent (q + 1) (acts s).length } fun t =>
            exec (.commandIssue c q) s = .next { t with cur := v.cur, role := v.role })
    ∧ (retireIndex k a = none → NoEffect (.commandRetire c a) s)
    ∧ (plain → givesR = false → givesL = false → LeadsTo (.commandRetire c (q + 1)) s fun t =>
        acts t = [] ∧ (∀ f, tok t f = tok s f) ∧ SameMemory s t ∧ OthersSame c s t ∧ (getCore t c).regs = k.regs)
    ∧ (plain → givesR = true → givesL = false → LeadsTo (.commandRetire c (q + 1)) s fun t =>
        SameMemory s t ∧ OthersSame c s t ∧ (getCore t c).regs = k.regs
        ∧ if room then acts t = [] ∧ ∀ f, (tok t f).length = (tok s f).length + if f = fifoGiveR q then 1 else 0
          else (∃ y, acts t = [y] ∧ y.retiring = true ∧ y.giveR = true) ∧ ∀ f, tok t f = tok s f)
    ∧ ((∀ b ∈ agentList, ∀ y ∈ actsOf k b, y.retiring = false) → NoEffect (.tokenGiveGranted c q) s)
    ∧ (q < 6 → others → acts s = [x] → x.retiring = true → x.giveR = true → x.giveL = false → k.frozen = false →
        k.fenced = false → LeadsTo (.tokenGiveGranted c q) s fun t => SameMemory s t ∧ OthersSame c s t
          ∧ if room then acts t = [] ∧ ∀ f, (tok t f).length = (tok s f).length + if f = fifoGiveR q then 1 else 0
            else (∃ y, acts t = [y] ∧ y.giveR = true) ∧ ∀ f, tok t f = tok s f)
    ∧ (4096 ≤ k.deadlock → LeadsTo (.tokenDeadlock c) s fun t => CoreOnly c s t fun k =>
        { k with ptraps := k.ptraps ++ [{ cause := 0x12 }], wake := true, deadlock := 0 })
    ∧ (k.deadlock < 4096 → NoEffect (.tokenDeadlock c) s)
    ∧ ((∀ r, (accessPairs k a wr)[n]? = some r → mayAccess k a wr r = false) → exec (.access c a wr n) s = .next (stampEvent s c))
    ∧ (∀ j, (accessPairs k a false)[n]? = some (i, j) → mayAccess k a false (i, j) = true → (actsOf k a)[i]? = some x →
        x.reads[j]? = some it → it.space = .pa → it.win = none → it.elems = [e] → e.nib = 0 →
        poolOwns s (vmid k) e.addr = true → isPackageMem s e.addr = true → needsRepair s e.addr = false → NoMirrors s →
        e.addr % 64 + e.size ≤ 64 →
        LeadsTo (.access c a false n) s fun t => SameMemory s t ∧ SamePoison s t ∧ (getCore t c).regs = k.regs
          ∧ (actsOf (getCore t c) a)[i]? = some { x with
              reads := x.reads.eraseIdx j, count := x.count + (if it.port = 2 then 0 else 1),
              count2 := x.count2 + (if it.port = 2 then 1 else 0),
              got := x.got ++ [{ opnd := it.opnd, key := e.key, part := e.part, size := e.size, val := ofBytes 64 (memBytes s e.addr e.size), poison := poisonedAt s e.addr e.size }] })
    ∧ ((∀ b ∈ agentList, waitsFor k b g = none) → NoEffect (.windowFill c g) s)
    ∧ (waitsFor k 1 g = some (x, it, i) → fillGranule (stampEvent s c) { c := c, x := x, port := it.port, inWin := true } i g = .ok u →
        LeadsTo (.windowFill c g) s fun t => SameMemory u t ∧ (getCore t c).wins = (getCore u c).wins
          ∧ ((getCore t c).wins.getD i {}).filled.contains g = true)
    ∧ LeadsTo (.windowWriteback c g) s (fun t => CoreOnly c s t fun k =>
        { k with wins := k.wins.map fun w => { w with dirty := w.dirty.filter fun d => decide (d.off ≠ g) } })
    ∧ (fetchStops k port = true ∨ fetchNext s c port = none → NoEffect (.operandFetch c port) s)
    ∧ (∀ at_, fetchStops k port = false → fetchNext s c port = some (at_, x, it, some (i, g)) →
        fillGranule (stampEvent s c) { c := c, x := x, port := it.port, inWin := true } i g = .ok u →
        exec (.operandFetch c port) s = .next u)
    ∧ (∀ j got, fetchStops k port = false → fetchNext s c port = some (some j, x, it, none) →
        readItem (stampEvent s c) { c := c, x := x, port := it.port } it = .ok (u, got) → LeadsTo (.operandFetch c port) s fun t =>
          SameMemory u t ∧ (getEng (getCore t c) 1).queue
            = (getEng (getCore u c) 1).queue.modify j fun z => { z with early := z.early ++ got })
    ∧ (portAccess k port = none → NoEffect (.streamFault c port) s)
    ∧ (∀ j y, portAccess k port = some (a, wr, i, j) → (accessList (getAct k a i) wr)[j]? = some it →
        makeItem s c a (getAct k a i) it = (u, y, false) →
        (haltedAt y port = true → LeadsTo (.streamFault c port) s fun t =>
          SameMemory u t ∧ actsOf (getCore t c) a = (actsOf (getCore u c) a).set i y)
        ∧ (haltedAt y port = false → y.s2 = false → NoEffect (.streamFault c port) s))

/-- R129, R282 to R285, R287, R308, R389, R390: an engine takes the firing that is next, on its rule's cursor or the slice of its
RSKIP, and performs its operation, unless the other engine holds its tile; a
firing that would read a lost page waits for the page's repair or does not start; one that has made every access moves its rule's cursor on, and one
that has faulted leaves its rule FAULTED with RULE_FAULT pending. -/
def Obligations.FiringEvents : Prop :=
  ∀ (c q n i pa : Nat) (ins : Instr) (x : Active) (p : PTrap) (l : List PTrap) (s : State),
    let k := getCore s c
    let r := getRule k n
    let acts := fun t : State => actsOf (getCore t c) (q + 1)
    let ready := q < 6 ∧ laneOpen k q = true ∧ (getEng k q).streak < 16 ∧ nextFiring s c q = some n ∧ tileHeld k q r.cmd = false
    let ending := q < 6 ∧ (getEng k q).active.findIdx? (fun y => y.rule.isSome) = some i ∧ acts s = [x] ∧ x.rule = some n
      ∧ r.st ≠ .free ∧ k.frozen = false ∧ k.fenced = false ∧ x.halted = none ∧ x.halted2 = none ∧ x.s2 = false ∧ x.void = false ∧ x.fpN = 0
      ∧ x.holds = [] ∧ k.rq.length ≤ 32
    (nextFiring s c q = none ∨ laneOpen k q = false → NoEffect (.firing c q) s)
    ∧ (ready → r.skip = true ∨ lostSource s r = none → pick r.cmd.word = some ins →
        ∃ v y, acts v = acts s ++ [y] ∧ y.cmd = r.cmd ∧ y.rule = some n ∧ y.slice = (if r.skip then r.skipAt else r.cursor)
          ∧ y.skip = r.skip ∧ y.void = (r.skip && r.skipVoid)
          ∧ (getRule (getCore v c) n).st = .firing ∧ (getRule (getCore v c) n).cursor = r.cursor
          ∧ LeadsTo ins { v with cur := c, role := .agent (q + 1) (acts s).length } fun t =>
            exec (.firing c q) s = .next { t with cur := v.cur, role := v.role })
    ∧ (∀ m, nextFiring s c q = some m → tileHeld k q (getRule k m).cmd = true → NoEffect (.firing c q) s)
    ∧ (ready → r.skip = false → lostSource s r = some pa → needsRepair s pa = true → NoEffect (.firing c q) s)
    ∧ (ready → r.skip = false → lostSource s r = some pa → needsRepair s pa = false → LeadsTo (.firing c q) s fun t => CoreOnly c s t fun k =>
        setRule { k with ptraps := k.ptraps ++ [ruleFault n r.cursor 0x10], wake := true } n
          { r with st := .faulted, cause := 0x10, skip := false })
    ∧ ((getEng k q).active.findIdx? (fun y => y.rule.isSome) = none → NoEffect (.firingRetire c q) s)
    ∧ (ending → actDone x = true → x.traps = [] → x.rq = [] → r.feed = none → r.pend = .none → r.revokeAt = none →
        LeadsTo (.firingRetire c q) s fun t => acts t = [] ∧ getRule (getCore t c) n =
            { r with st := .armed, cause := 0, skip := false, cursor := r.cursor + 1 }
          ∧ getCounter (getCore t c) 12 = getCounter k 12 + 1)
    ∧ (ending → x.traps = p :: l → x.farOut = 0 → r.pend = .none → LeadsTo (.firingRetire c q) s fun t => acts t = []
        ∧ getRule (getCore t c) n = { r with st := .faulted, cause := p.cause, skip := false }
        ∧ (getCore t c).ptraps = k.ptraps ++ [{ cause := 0x0A, einfo := BitVec.ofNat 64 (x.slice % 2 ^ 40 * 2 ^ 13 + n * 256 + p.cause.toNat) }])

/-- R61, R335, R336, R352 to R356, R358, R374, R422: at a bundle boundary the trap that is due is taken, once the engines have
stopped, with the address of the next bundle; a bundle whose decode fails takes its own, with the failing slot; an ERET, as its
bundle ends (issueSlots), returns to the level, the stepping and the address that its trap had saved; a stage-2 fault holds the
run and is reported to the PF under a handle, whose answer retries it, gives the function ACCESS_FAULT, or ends the run. The
model's choices, log entry 47: an answer that comes before the run is saved stands until it is, an unknown handle or an action
above 2 does nothing, and what answers 1 and 2 do to a run held or saved. -/
def Obligations.TrapEvents : Prop :=
  ∀ (c n h : Nat) (x : PTrap) (f : S2Fault) (run : HeldRun) (arg : TrapArg) (w : BitVec 256) (wd : W64) (s u : State),
    let k := getCore s c
    let vector := field k.regs.cr.tvec 5 50 ≠ 0
    let named := arg.cause = x.cause ∧ arg.eslot = x.eslot ∧ arg.einfo = x.einfo
    let due := dueTrap k = some x ∧ coreStops s k = false ∧ atBoundary k x.cause = true ∧ stopsDone k = true ∧ vector
    let hold := fun t : State => (getCore t c).trapHold = (getCore t c).ptraps.length
    let taken := fun t : State => TrapTakenBy c s t x.cause (trapPc k) x.eslot.toNat x.einfo ∧ hold t
      ∧ (getCore t c).ptraps = k.ptraps.take k.trapHold ++ (k.ptraps.drop k.trapHold).erase x ++ stepLeft k x ∧ (getCore t c).stepDue = none
      ∧ (getCore t c).buf = [] ∧ (getCore t c).parked = k.parked ++ k.buf
    let v := beginBundle u c (headerOf w)
    let fails := mayFetch s k = true ∧ fetchBundle s c = (u, .ok w)
      ∧ decodeSlots v (presentSlots w) = .error (n, wd, .trap x) ∧ k.buf = [] ∧ accessesDone k = true ∧ vectorQuiet k = true
      ∧ stopsDone k = true ∧ vector ∧ (k.waited = 0 ∨ ∀ q l, k.stall ≠ .queue q ∧ k.stall ≠ .rq l)
    let stops := fun t : State => TrapTakenBy c v t x.cause k.pc n x.einfo ∧ hold t
    let old := s.ctx.old.cr
    let held := k.s2fault = some f ∧ f.handle = h ∧ h ≠ 0 ∧ c < 160 ∧ (∀ y ∈ s.held, y.handle ≠ h)
      ∧ ∀ d, d < 160 → d ≠ c → (getCore s d).s2fault.map (fun f => f.handle) ≠ some h
    let away := h ≠ 0 ∧ s.held.filter (fun y => decide (y.handle = h)) = [run] ∧ run.why = .stage2 f
    let key := (SMap.get (fun _ => (([], 0) : List Nat × Nat)) s.ctxPages (recCtx run.record / 65536)).2
    (due → LeadsTo (.asyncTrapTaken c) s taken)
    ∧ (dueTrap k = none ∨ coreStops s k = true → NoEffect (.asyncTrapTaken c) s)
    ∧ (∀ y, dueTrap k = some y → atBoundary k y.cause = false ∨ stopsDone k = false → NoEffect (.asyncTrapTaken c) s)
    ∧ (s.ctx.eret = true → let l := getCore (finishBundle s c n) c
        l.pc = field old.epc 5 50 * 32 ∧ stPL l.regs.cr.status = stPPL old.status ∧ stSS l.regs.cr.status = stPSS old.status
        ∧ (stPPL old.status ≠ 1 → l.held = true ∧ l.trapHold = 0 ∧ l.depth = 0)
        ∧ (stPPL old.status = 1 → l.held = k.held ∧ l.trapHold = k.holdStack.headD 0 ∧ l.depth = k.depth - 1))
    ∧ (due → named → LeadsTo (.trapEntry c arg) s taken)
    ∧ (dueTrap k = some x → ¬ named → NoEffect (.trapEntry c arg) s)
    ∧ (fails → LeadsTo (.bundleIssue c) s stops)
    ∧ (fails → arg = { cause := x.cause, eslot := BitVec.ofNat 2 n, einfo := x.einfo } → LeadsTo (.trapEntry c arg) s stops)
    ∧ (k.s2fault = none → NoEffect (.stage2Fault c) s)
    ∧ (k.s2fault = some f → f.handle = 0 → k.fenced = false → LeadsTo (.stage2Fault c) s fun t => SameMemory s t
        ∧ OthersSame c s t ∧ (getCore t c).s2fault = some { f with handle := s.nextHandle } ∧ t.nextHandle = s.nextHandle + 1
        ∧ (getCore t c).save = some .stage2 ∧ (getCore t c).regs = k.regs
        ∧ t.faultRing = s.faultRing ++ [{ vf := k.run.vf, gcore := c, port := f.port, cause := f.cause, level := f.level, handle := s.nextHandle, ipa := f.ipa, va := f.va, stamp := k.hlc }])
    ∧ (h = 0 ∨ 2 < n → NoEffect (.faultRingAnswer h n) s)
    ∧ (held → n ≤ 1 → LeadsTo (.faultRingAnswer h n) s fun t => CoreOnly c s t fun k =>
        { k with s2fault := some (if f.answer.isNone then { f with answer := some n } else f) })
    ∧ (away → n ≤ 1 → LeadsTo (.faultRingAnswer h n) s fun t =>
        if n = 0 then (getRest t key).ptraps = (getRest s key).ptraps ∧ (getRest t key).items = (getRest s key).items
        else ∃ p, (getRest t key).ptraps = (getRest s key).ptraps ++ [p] ∧ p.cause = 6
          ∧ p.einfo = BitVec.ofNat 64 (f.port * 2 ^ 60 + f.va % 2 ^ 55))
    ∧ (away → LeadsTo (.faultRingAnswer h 2) s fun t => ∀ y ∈ t.held, y.handle ≠ h)
    ∧ (held → LeadsTo (.faultRingAnswer h 2) s fun t =>
        (getCore t c).phase = .idle ∧ (getCore t c).journal.phase = .done)

/-! ### Reset, the step, and the encoding -/

/-- R9, R15, R20, R21, R135, R181, R280, R316, R404: what reset leaves of the values that the spec gives: the column
"At reset" of R21, p0, s0 and k0, every flag at 0, the mask tile all ones, the product table at +0, every rule slot free,
every core idle in stage 0 with its edge sequence counter at 1, and the aging limit at 4,096. -/
def Obligations.ResetState : Prop :=
  ∀ c n a b : Nat,
    let k := getCore State.reset c
    k.regs.cr = { status := 0, cause := 0, epc := 0, eslot := 0, einfo := 0, tvec := 0, save := 0, warn := 0,
                  warncount := 0, asid := 0, shortmass := 0x3F733333, spawnwait := 65536, step := 0, edgebase := 0,
                  farlost := 0 }
    ∧ State.reset.limits.agelimit = 4096 ∧ k.phase = .idle ∧ k.stage = 0 ∧ k.edgeSeq = 1
    ∧ rdS k.regs 0 = 0 ∧ rdP k.regs 0 = true ∧ regMask k.eng 0 = BitVec.allOnes 64
    ∧ getFlag k n = {} ∧ (getRule k n).st = .free
    ∧ SMap.get (fun _ => ({} : PV 64)) k.eng.prod (16 * a + b) = {} ∧ maskRow k.eng a = BitVec.allOnes 64

/-- Assumption 12 and the form of memory: reset lists no byte, in canonical form. -/
def Obligations.ResetMemoryForm : Prop :=
  Memory.wf State.reset.mem = true ∧ ∀ a, memByte State.reset a = memDefault a

/-- Assumption 12: every step keeps memory in its canonical form, which is the model's own. -/
def Obligations.MemoryForm : Prop :=
  ∀ s t : State, Memory.wf s.mem = true → step s = .next t → Memory.wf t.mem = true

/-- R42, R43, R57, R61 (and assumption 1): a step performs the agenda's next event, after its cycles have passed; where the
event is the issue of a bundle that nothing holds, the step runs what the words of its present slots decode to, each at its
slot. A stopped package takes only what reaches it; with no choice left, a round is chosen. That a stopped package takes only
COLD_RESET, POWER_ON and POWER_LOSS, and how its step ends, are the model's choice, log entry 44. -/
def Obligations.StepRunsDecoded : Prop :=
  ∀ (c dt : Nat) (i : Instr) (rest : List Turn) (w : BitVec 256) (l : List (Nat × W64 × Instr)) (s u : State),
    let now := advance { s with agenda := rest } dt
    let quiet := { s with agenda := rest }
    let v := beginBundle u c (headerOf w)
    let r := readHeader v c (headerOf w)
    let issues := s.agenda = .ev 0 (.bundleIssue c) :: rest ∧ stopped quiet = false ∧ mayFetch quiet (getCore quiet c) = true
      ∧ fetchBundle quiet c = (u, .ok w) ∧ decodeSlots v (presentSlots w) = .ok l
      ∧ (field (headerOf w) 56 2 = 0 ∨ (getCore v c).hdrOk = some (getCore v c).pc)
      ∧ stallOf r (getCore r c) l = .none ∧ pushChecks r (getCore r c) l = none
    (s.agenda = .ev dt i :: rest → stopped now = false ∨ reachesStopped i = true → step s = exec i now)
    ∧ (s.agenda = .ev dt i :: rest → stopped now = true → reachesStopped i = false → step s = .next now)
    ∧ (issues → step s = .next (issueSlots (endStall r c) c w l) ∧ l.map (fun e => (e.1, e.2.1)) = presentSlots w
        ∧ (∀ e ∈ l, decode e.2.1 = .ok e.2.2 ∧ ∀ z : State, exec e.2.2 (atSlot z e.1 e.2.1) = .next (slotExec e.2.2 (atSlot z e.1 e.2.1))))
    ∧ (s.agenda = [] → stopped s = false → step s = .next { s with agenda := round s })
    ∧ (s.agenda = [] → s.power = false → step s = .fault .noPower)
    ∧ (s.agenda = [] → s.power = true → s.tripped = true → step s = .fault .tripped)

/-- R46 to R54, R70 to R78: decode and encode agree, in both directions: no bit of a slot word is lost, and every
well-formed slot instruction has a word that decodes to it and to nothing else. -/
def Obligations.DecodeEncode : Prop :=
  (∀ (i : Instr) (w : W64), wellFormed i = true → encode i = some w → decode w = .ok i)
    ∧ ∀ (i : Instr) (w : W64), decode w = .ok i → encode i = some w ∧ wellFormed i = true

/-- R48 to R54: the words that the spec writes out for ADD, ADD.w, a predicated ADD, ADDI, BR, CMP, LD, VADD, MMA and CRD
decode to those instructions. -/
def Obligations.DecodeWords : Prop :=
  let f : Frame := { takeL := false, takeR := false, giveL := false, giveR := false, inst := false, pred := 0, pneg := false }
  let add : OpA := { dst := 5, a := 6, b := 7, fn := 0, width := 0, rsv := 0 }
  decode 0x01000A30E0000000 = .ok (.add f add)
    ∧ decode 0x01000A30E0020000 = .ok (.add f { add with width := 1 })
    ∧ decode 0x01038A30E0000000 = .ok (.add { f with pred := 3, pneg := true } add)
    ∧ decode 0x16000820FFFFFFF0 = .ok (.addi f { dst := 4, a := 4, sel := 0, lit := false, imm := 0xFFFFFFF0 })
    ∧ decode 0x30002083FFFFFFFA = .ok (.br f { cond := 2, a := 2, b := 3, disp := 0xFFFFFFFA })
    ∧ decode 0x1400208340000000 = .ok (.cmp f { cond := 2, a := 2, b := 3, disp := 0x40000000 })
    ∧ decode 0x2000125172000040 = .ok (.ld f { data := 9, base := 10, index := 11, scale := 2, size := 2, amo := 0, disp := 64 })
    ∧ decode 0x60900C2200000000 = .ok (.vadd { f with takeL := true, giveR := true } { vd := 3, va := 1, vb := 2, vc := 0, type := 0, rnd := 0, ovf := 0, fn := 0, imm := 0 })
    ∧ decode 0xA00010A040000000 = .ok (.mma f { dA := 4, dB := 5, dC := 0, acc := 2, chan := 0, fn := 0, mods := 0 })
    ∧ decode 0xC2000E0000000008 = .ok (.crd f { x := 7, y := 0, z := 0, fn := 0, imm := 8 })
end

