-- ==== Sys2Proof/Laws/SMap.lean ====
section
/-! SUPPORT. Reading after writing a sparse map, and the canonical form under every operation on one. -/

namespace Sys2Proof.Machine

theorem SMap.get_insert_self {V : Type} (d : Nat → V) (m : SMap V) (k : Nat) (v : V) :
    SMap.get d (SMap.insert m k v) k = v := by
  induction m with
  | nil => simp [SMap.insert, SMap.get]
  | cons e t ih =>
    obtain ⟨a, x⟩ := e
    simp only [SMap.insert]
    split
    · simp [SMap.get]
    · split
      · simp [SMap.get]
      · have : a ≠ k := by omega
        simp [SMap.get, this, ih]

theorem SMap.get_insert_ne {V : Type} (d : Nat → V) (m : SMap V) (k j : Nat) (v : V) (h : j ≠ k) :
    SMap.get d (SMap.insert m k v) j = SMap.get d m j := by
  induction m with
  | nil => simp [SMap.insert, SMap.get, Ne.symm h]
  | cons e t ih =>
    obtain ⟨a, x⟩ := e
    simp only [SMap.insert]
    split
    · simp [SMap.get, Ne.symm h]
    · split
      · subst_vars; simp [SMap.get, Ne.symm h]
      · simp [SMap.get, ih]

theorem SMap.get_erase_self {V : Type} (d : Nat → V) (m : SMap V) (k : Nat) : SMap.get d (SMap.erase m k) k = d k := by
  induction m with
  | nil => rfl
  | cons e t ih =>
    obtain ⟨a, x⟩ := e
    simp only [SMap.erase]
    split
    · exact ih
    · rename_i h; simp [SMap.get, h, ih]

theorem SMap.get_erase_ne {V : Type} (d : Nat → V) (m : SMap V) (k j : Nat) (h : j ≠ k) :
    SMap.get d (SMap.erase m k) j = SMap.get d m j := by
  induction m with
  | nil => rfl
  | cons e t ih =>
    obtain ⟨a, x⟩ := e
    simp only [SMap.erase]
    split
    · subst_vars; simp [SMap.get, Ne.symm h, ih]
    · simp [SMap.get, ih]

/-- What a key reads as after a write of it. -/
@[simp] theorem SMap.get_set_self {V : Type} [DecidableEq V] (d : Nat → V) (m : SMap V) (k : Nat) (v : V) :
    SMap.get d (SMap.set d m k v) k = v := by
  unfold SMap.set
  split
  · rename_i h; rw [SMap.get_erase_self, h]
  · exact SMap.get_insert_self d m k v

/-- A write of one key leaves every other alone. -/
@[simp] theorem SMap.get_set_ne {V : Type} [DecidableEq V] (d : Nat → V) (m : SMap V) (k j : Nat) (v : V) (h : j ≠ k) :
    SMap.get d (SMap.set d m k v) j = SMap.get d m j := by
  unfold SMap.set
  split
  · exact SMap.get_erase_ne d m k j h
  · exact SMap.get_insert_ne d m k j v h

/-- Both at once. -/
theorem SMap.get_set {V : Type} [DecidableEq V] (d : Nat → V) (m : SMap V) (k j : Nat) (v : V) :
    SMap.get d (SMap.set d m k v) j = if j = k then v else SMap.get d m j := by
  split
  · subst_vars; simp
  · rename_i h; simp [h]

/-! ### The canonical form -/

theorem SMap.wfFrom_mono {V : Type} [DecidableEq V] (d : Nat → V) (m : SMap V) {lo hi : Nat} (h : lo ≤ hi)
    (w : SMap.wfFrom d hi m = true) : SMap.wfFrom d lo m = true := by
  cases m with
  | nil => rfl
  | cons e t =>
    obtain ⟨a, x⟩ := e
    simp only [SMap.wfFrom, Bool.and_eq_true, decide_eq_true_eq] at w ⊢
    exact ⟨⟨Nat.le_trans h w.1.1, w.1.2⟩, w.2⟩

theorem SMap.wfFrom_insert {V : Type} [DecidableEq V] (d : Nat → V) (m : SMap V) (lo k : Nat) (v : V) (hk : lo ≤ k)
    (hv : v ≠ d k) (w : SMap.wfFrom d lo m = true) : SMap.wfFrom d lo (SMap.insert m k v) = true := by
  induction m generalizing lo with
  | nil => simp [SMap.insert, SMap.wfFrom, hk, hv]
  | cons e t ih =>
    obtain ⟨a, x⟩ := e
    simp only [SMap.wfFrom, Bool.and_eq_true, decide_eq_true_eq, Bool.not_eq_true'] at w
    simp only [SMap.insert]
    split
    · rename_i h
      simp only [SMap.wfFrom, Bool.and_eq_true, decide_eq_true_eq, Bool.not_eq_true']
      exact ⟨⟨hk, by simpa using hv⟩, ⟨h, w.1.2⟩, w.2⟩
    · split
      · subst_vars
        simp only [SMap.wfFrom, Bool.and_eq_true, decide_eq_true_eq, Bool.not_eq_true']
        exact ⟨⟨hk, by simpa using hv⟩, w.2⟩
      · simp only [SMap.wfFrom, Bool.and_eq_true, decide_eq_true_eq, Bool.not_eq_true']
        exact ⟨w.1, ih (a + 1) (by omega) w.2⟩

theorem SMap.wfFrom_erase {V : Type} [DecidableEq V] (d : Nat → V) (m : SMap V) (lo k : Nat)
    (w : SMap.wfFrom d lo m = true) : SMap.wfFrom d lo (SMap.erase m k) = true := by
  induction m generalizing lo with
  | nil => rfl
  | cons e t ih =>
    obtain ⟨a, x⟩ := e
    simp only [SMap.wfFrom, Bool.and_eq_true, decide_eq_true_eq] at w
    simp only [SMap.erase]
    split
    · exact ih lo (SMap.wfFrom_mono d t (by omega) w.2)
    · simp only [SMap.wfFrom, Bool.and_eq_true, decide_eq_true_eq]
      exact ⟨w.1, ih (a + 1) w.2⟩

/-- A write keeps the canonical form. -/
@[simp] theorem SMap.wf_set {V : Type} [DecidableEq V] (d : Nat → V) (m : SMap V) (k : Nat) (v : V)
    (w : SMap.wf d m = true) : SMap.wf d (SMap.set d m k v) = true := by
  unfold SMap.set SMap.wf
  split
  · exact SMap.wfFrom_erase d m 0 k w
  · rename_i h; exact SMap.wfFrom_insert d m 0 k v (Nat.zero_le k) h w

/-- Any number of writes keep it. -/
theorem SMap.wf_foldl_set {V α : Type} [DecidableEq V] (d : Nat → V) (key : α → Nat) (val : α → V) (l : List α) (m : SMap V)
    (w : SMap.wf d m = true) : SMap.wf d (l.foldl (fun m e => SMap.set d m (key e) (val e)) m) = true := by
  induction l generalizing m with
  | nil => exact w
  | cons e t ih => exact ih _ (SMap.wf_set d m _ _ w)

@[simp] theorem SMap.wf_setAll {V : Type} [DecidableEq V] (d : Nat → V) (l : List (Nat × V)) (m : SMap V)
    (w : SMap.wf d m = true) : SMap.wf d (SMap.setAll d m l) = true := SMap.wf_foldl_set d _ _ l m w

theorem SMap.wfFrom_filter {V : Type} [DecidableEq V] (d : Nat → V) (p : Nat × V → Bool) (m : SMap V) (lo : Nat)
    (w : SMap.wfFrom d lo m = true) : SMap.wfFrom d lo (m.filter p) = true := by
  induction m generalizing lo with
  | nil => rfl
  | cons e t ih =>
    obtain ⟨a, x⟩ := e
    simp only [SMap.wfFrom, Bool.and_eq_true, decide_eq_true_eq] at w
    simp only [List.filter]
    split
    · simp only [SMap.wfFrom, Bool.and_eq_true, decide_eq_true_eq]
      exact ⟨w.1, ih (a + 1) w.2⟩
    · exact ih lo (SMap.wfFrom_mono d t (by omega) w.2)

/-- Leaving entries out keeps it. -/
@[simp] theorem SMap.wf_filter {V : Type} [DecidableEq V] (d : Nat → V) (p : Nat × V → Bool) (m : SMap V)
    (w : SMap.wf d m = true) : SMap.wf d (m.filter p) = true := SMap.wfFrom_filter d p m 0 w

end Sys2Proof.Machine
end

