-- ==== Sys2Proof/Laws/State.lean ====
section
/-! SUPPORT. One lemma per field for the shared updates of the state: what each leaves as it was, by rfl, and what reading
a core, a register or a table gives after one of them. -/

namespace Sys2Proof.Machine

open Sys2Proof

/-! ### Cores -/

@[simp] theorem getCore_setCore_self (s : State) (c : Nat) (k : Core) : getCore (setCore s c k) c = k := by
  simp [getCore, setCore]

@[simp] theorem getCore_setCore_ne (s : State) (c j : Nat) (k : Core) (h : j ≠ c) :
    getCore (setCore s c k) j = getCore s j := by simp [getCore, setCore, h]

@[simp] theorem getCore_onCore_self (s : State) (c : Nat) (f : Core → Core) :
    getCore (onCore s c f) c = f (getCore s c) := by simp [onCore]

@[simp] theorem getCore_onCore_ne (s : State) (c j : Nat) (f : Core → Core) (h : j ≠ c) :
    getCore (onCore s c f) j = getCore s j := by simp [onCore, h]

@[simp] theorem cc_onCur (s : State) (f : Core → Core) : cc (onCur s f) = f (cc s) := by
  simp [cc, onCur, onCore, setCore, getCore]

@[simp] theorem setCore_mem (s : State) (c : Nat) (k : Core) : (setCore s c k).mem = s.mem := rfl
@[simp] theorem setCore_poison (s : State) (c : Nat) (k : Core) : (setCore s c k).poison = s.poison := rfl
@[simp] theorem setCore_codeOld (s : State) (c : Nat) (k : Core) : (setCore s c k).codeOld = s.codeOld := rfl
@[simp] theorem setCore_codeTick (s : State) (c : Nat) (k : Core) : (setCore s c k).codeTick = s.codeTick := rfl
@[simp] theorem setCore_lost (s : State) (c : Nat) (k : Core) : (setCore s c k).lost = s.lost := rfl
@[simp] theorem setCore_quarantine (s : State) (c : Nat) (k : Core) : (setCore s c k).quarantine = s.quarantine := rfl
@[simp] theorem setCore_mirrors (s : State) (c : Nat) (k : Core) : (setCore s c k).mirrors = s.mirrors := rfl
@[simp] theorem setCore_links (s : State) (c : Nat) (k : Core) : (setCore s c k).links = s.links := rfl
@[simp] theorem setCore_refs (s : State) (c : Nat) (k : Core) : (setCore s c k).refs = s.refs := rfl
@[simp] theorem setCore_savePages (s : State) (c : Nat) (k : Core) : (setCore s c k).savePages = s.savePages := rfl
@[simp] theorem setCore_ctxPages (s : State) (c : Nat) (k : Core) : (setCore s c k).ctxPages = s.ctxPages := rfl
@[simp] theorem setCore_rests (s : State) (c : Nat) (k : Core) : (setCore s c k).rests = s.rests := rfl
@[simp] theorem setCore_nextHold (s : State) (c : Nat) (k : Core) : (setCore s c k).nextHold = s.nextHold := rfl
@[simp] theorem setCore_devHost (s : State) (c : Nat) (k : Core) : (setCore s c k).devHost = s.devHost := rfl
@[simp] theorem setCore_hostLines (s : State) (c : Nat) (k : Core) : (setCore s c k).hostLines = s.hostLines := rfl
@[simp] theorem setCore_ots (s : State) (c : Nat) (k : Core) : (setCore s c k).ots = s.ots := rfl
@[simp] theorem setCore_tqs (s : State) (c : Nat) (k : Core) : (setCore s c k).tqs = s.tqs := rfl
@[simp] theorem setCore_preemptWait (s : State) (c : Nat) (k : Core) : (setCore s c k).preemptWait = s.preemptWait := rfl
@[simp] theorem setCore_sqs (s : State) (c : Nat) (k : Core) : (setCore s c k).sqs = s.sqs := rfl
@[simp] theorem setCore_tags (s : State) (c : Nat) (k : Core) : (setCore s c k).tags = s.tags := rfl
@[simp] theorem setCore_held (s : State) (c : Nat) (k : Core) : (setCore s c k).held = s.held := rfl
@[simp] theorem setCore_nextHandle (s : State) (c : Nat) (k : Core) : (setCore s c k).nextHandle = s.nextHandle := rfl
@[simp] theorem setCore_conts (s : State) (c : Nat) (k : Core) : (setCore s c k).conts = s.conts := rfl
@[simp] theorem setCore_barriers (s : State) (c : Nat) (k : Core) : (setCore s c k).barriers = s.barriers := rfl
@[simp] theorem setCore_podWaits (s : State) (c : Nat) (k : Core) : (setCore s c k).podWaits = s.podWaits := rfl
@[simp] theorem setCore_podOut (s : State) (c : Nat) (k : Core) : (setCore s c k).podOut = s.podOut := rfl
@[simp] theorem setCore_fctx (s : State) (c : Nat) (k : Core) : (setCore s c k).fctx = s.fctx := rfl
@[simp] theorem setCore_fctxStatus (s : State) (c : Nat) (k : Core) : (setCore s c k).fctxStatus = s.fctxStatus := rfl
@[simp] theorem setCore_pod (s : State) (c : Nat) (k : Core) : (setCore s c k).pod = s.pod := rfl
@[simp] theorem setCore_ownInc (s : State) (c : Nat) (k : Core) : (setCore s c k).ownInc = s.ownInc := rfl
@[simp] theorem setCore_routes (s : State) (c : Nat) (k : Core) : (setCore s c k).routes = s.routes := rfl
@[simp] theorem setCore_exports (s : State) (c : Nat) (k : Core) : (setCore s c k).exports = s.exports := rfl
@[simp] theorem setCore_hostLinks (s : State) (c : Nat) (k : Core) : (setCore s c k).hostLinks = s.hostLinks := rfl
@[simp] theorem setCore_cxlMem (s : State) (c : Nat) (k : Core) : (setCore s c k).cxlMem = s.cxlMem := rfl
@[simp] theorem setCore_farSent (s : State) (c : Nat) (k : Core) : (setCore s c k).farSent = s.farSent := rfl
@[simp] theorem setCore_hostOut (s : State) (c : Nat) (k : Core) : (setCore s c k).hostOut = s.hostOut := rfl
@[simp] theorem setCore_replies (s : State) (c : Nat) (k : Core) : (setCore s c k).replies = s.replies := rfl
@[simp] theorem setCore_ports (s : State) (c : Nat) (k : Core) : (setCore s c k).ports = s.ports := rfl
@[simp] theorem setCore_expanders (s : State) (c : Nat) (k : Core) : (setCore s c k).expanders = s.expanders := rfl
@[simp] theorem setCore_faultRing (s : State) (c : Nat) (k : Core) : (setCore s c k).faultRing = s.faultRing := rfl
@[simp] theorem setCore_faultDue (s : State) (c : Nat) (k : Core) : (setCore s c k).faultDue = s.faultDue := rfl
@[simp] theorem setCore_errLog (s : State) (c : Nat) (k : Core) : (setCore s c k).errLog = s.errLog := rfl
@[simp] theorem setCore_corrected (s : State) (c : Nat) (k : Core) : (setCore s c k).corrected = s.corrected := rfl
@[simp] theorem setCore_uncorrected (s : State) (c : Nat) (k : Core) : (setCore s c k).uncorrected = s.uncorrected := rfl
@[simp] theorem setCore_lastIrq (s : State) (c : Nat) (k : Core) : (setCore s c k).lastIrq = s.lastIrq := rfl
@[simp] theorem setCore_msix (s : State) (c : Nat) (k : Core) : (setCore s c k).msix = s.msix := rfl
@[simp] theorem setCore_reports (s : State) (c : Nat) (k : Core) : (setCore s c k).reports = s.reports := rfl
@[simp] theorem setCore_boot (s : State) (c : Nat) (k : Core) : (setCore s c k).boot = s.boot := rfl
@[simp] theorem setCore_meas (s : State) (c : Nat) (k : Core) : (setCore s c k).meas = s.meas := rfl
@[simp] theorem setCore_limits (s : State) (c : Nat) (k : Core) : (setCore s c k).limits = s.limits := rfl
@[simp] theorem setCore_power (s : State) (c : Nat) (k : Core) : (setCore s c k).power = s.power := rfl
@[simp] theorem setCore_tripped (s : State) (c : Nat) (k : Core) : (setCore s c k).tripped = s.tripped := rfl
@[simp] theorem setCore_warmReq (s : State) (c : Nat) (k : Core) : (setCore s c k).warmReq = s.warmReq := rfl
@[simp] theorem setCore_now (s : State) (c : Nat) (k : Core) : (setCore s c k).now = s.now := rfl
@[simp] theorem setCore_ltime (s : State) (c : Nat) (k : Core) : (setCore s c k).ltime = s.ltime := rfl
@[simp] theorem setCore_unitTimes (s : State) (c : Nat) (k : Core) : (setCore s c k).unitTimes = s.unitTimes := rfl
@[simp] theorem setCore_agenda (s : State) (c : Nat) (k : Core) : (setCore s c k).agenda = s.agenda := rfl
@[simp] theorem setCore_cur (s : State) (c : Nat) (k : Core) : (setCore s c k).cur = s.cur := rfl
@[simp] theorem setCore_role (s : State) (c : Nat) (k : Core) : (setCore s c k).role = s.role := rfl
@[simp] theorem setCore_ctx (s : State) (c : Nat) (k : Core) : (setCore s c k).ctx = s.ctx := rfl
@[simp] theorem setCore_free (s : State) (c : Nat) (k : Core) : (setCore s c k).free = s.free := rfl

@[simp] theorem onCore_mem (s : State) (c : Nat) (f : Core → Core) : (onCore s c f).mem = s.mem := rfl
@[simp] theorem onCore_poison (s : State) (c : Nat) (f : Core → Core) : (onCore s c f).poison = s.poison := rfl
@[simp] theorem onCore_codeOld (s : State) (c : Nat) (f : Core → Core) : (onCore s c f).codeOld = s.codeOld := rfl
@[simp] theorem onCore_codeTick (s : State) (c : Nat) (f : Core → Core) : (onCore s c f).codeTick = s.codeTick := rfl
@[simp] theorem onCore_lost (s : State) (c : Nat) (f : Core → Core) : (onCore s c f).lost = s.lost := rfl
@[simp] theorem onCore_quarantine (s : State) (c : Nat) (f : Core → Core) : (onCore s c f).quarantine = s.quarantine := rfl
@[simp] theorem onCore_mirrors (s : State) (c : Nat) (f : Core → Core) : (onCore s c f).mirrors = s.mirrors := rfl
@[simp] theorem onCore_links (s : State) (c : Nat) (f : Core → Core) : (onCore s c f).links = s.links := rfl
@[simp] theorem onCore_refs (s : State) (c : Nat) (f : Core → Core) : (onCore s c f).refs = s.refs := rfl
@[simp] theorem onCore_savePages (s : State) (c : Nat) (f : Core → Core) : (onCore s c f).savePages = s.savePages := rfl
@[simp] theorem onCore_ctxPages (s : State) (c : Nat) (f : Core → Core) : (onCore s c f).ctxPages = s.ctxPages := rfl
@[simp] theorem onCore_rests (s : State) (c : Nat) (f : Core → Core) : (onCore s c f).rests = s.rests := rfl
@[simp] theorem onCore_nextHold (s : State) (c : Nat) (f : Core → Core) : (onCore s c f).nextHold = s.nextHold := rfl
@[simp] theorem onCore_devHost (s : State) (c : Nat) (f : Core → Core) : (onCore s c f).devHost = s.devHost := rfl
@[simp] theorem onCore_hostLines (s : State) (c : Nat) (f : Core → Core) : (onCore s c f).hostLines = s.hostLines := rfl
@[simp] theorem onCore_ots (s : State) (c : Nat) (f : Core → Core) : (onCore s c f).ots = s.ots := rfl
@[simp] theorem onCore_tqs (s : State) (c : Nat) (f : Core → Core) : (onCore s c f).tqs = s.tqs := rfl
@[simp] theorem onCore_preemptWait (s : State) (c : Nat) (f : Core → Core) : (onCore s c f).preemptWait = s.preemptWait := rfl
@[simp] theorem onCore_sqs (s : State) (c : Nat) (f : Core → Core) : (onCore s c f).sqs = s.sqs := rfl
@[simp] theorem onCore_tags (s : State) (c : Nat) (f : Core → Core) : (onCore s c f).tags = s.tags := rfl
@[simp] theorem onCore_held (s : State) (c : Nat) (f : Core → Core) : (onCore s c f).held = s.held := rfl
@[simp] theorem onCore_nextHandle (s : State) (c : Nat) (f : Core → Core) : (onCore s c f).nextHandle = s.nextHandle := rfl
@[simp] theorem onCore_conts (s : State) (c : Nat) (f : Core → Core) : (onCore s c f).conts = s.conts := rfl
@[simp] theorem onCore_barriers (s : State) (c : Nat) (f : Core → Core) : (onCore s c f).barriers = s.barriers := rfl
@[simp] theorem onCore_podWaits (s : State) (c : Nat) (f : Core → Core) : (onCore s c f).podWaits = s.podWaits := rfl
@[simp] theorem onCore_podOut (s : State) (c : Nat) (f : Core → Core) : (onCore s c f).podOut = s.podOut := rfl
@[simp] theorem onCore_fctx (s : State) (c : Nat) (f : Core → Core) : (onCore s c f).fctx = s.fctx := rfl
@[simp] theorem onCore_fctxStatus (s : State) (c : Nat) (f : Core → Core) : (onCore s c f).fctxStatus = s.fctxStatus := rfl
@[simp] theorem onCore_pod (s : State) (c : Nat) (f : Core → Core) : (onCore s c f).pod = s.pod := rfl
@[simp] theorem onCore_ownInc (s : State) (c : Nat) (f : Core → Core) : (onCore s c f).ownInc = s.ownInc := rfl
@[simp] theorem onCore_routes (s : State) (c : Nat) (f : Core → Core) : (onCore s c f).routes = s.routes := rfl
@[simp] theorem onCore_exports (s : State) (c : Nat) (f : Core → Core) : (onCore s c f).exports = s.exports := rfl
@[simp] theorem onCore_hostLinks (s : State) (c : Nat) (f : Core → Core) : (onCore s c f).hostLinks = s.hostLinks := rfl
@[simp] theorem onCore_cxlMem (s : State) (c : Nat) (f : Core → Core) : (onCore s c f).cxlMem = s.cxlMem := rfl
@[simp] theorem onCore_farSent (s : State) (c : Nat) (f : Core → Core) : (onCore s c f).farSent = s.farSent := rfl
@[simp] theorem onCore_hostOut (s : State) (c : Nat) (f : Core → Core) : (onCore s c f).hostOut = s.hostOut := rfl
@[simp] theorem onCore_replies (s : State) (c : Nat) (f : Core → Core) : (onCore s c f).replies = s.replies := rfl
@[simp] theorem onCore_ports (s : State) (c : Nat) (f : Core → Core) : (onCore s c f).ports = s.ports := rfl
@[simp] theorem onCore_expanders (s : State) (c : Nat) (f : Core → Core) : (onCore s c f).expanders = s.expanders := rfl
@[simp] theorem onCore_faultRing (s : State) (c : Nat) (f : Core → Core) : (onCore s c f).faultRing = s.faultRing := rfl
@[simp] theorem onCore_faultDue (s : State) (c : Nat) (f : Core → Core) : (onCore s c f).faultDue = s.faultDue := rfl
@[simp] theorem onCore_errLog (s : State) (c : Nat) (f : Core → Core) : (onCore s c f).errLog = s.errLog := rfl
@[simp] theorem onCore_corrected (s : State) (c : Nat) (f : Core → Core) : (onCore s c f).corrected = s.corrected := rfl
@[simp] theorem onCore_uncorrected (s : State) (c : Nat) (f : Core → Core) : (onCore s c f).uncorrected = s.uncorrected := rfl
@[simp] theorem onCore_lastIrq (s : State) (c : Nat) (f : Core → Core) : (onCore s c f).lastIrq = s.lastIrq := rfl
@[simp] theorem onCore_msix (s : State) (c : Nat) (f : Core → Core) : (onCore s c f).msix = s.msix := rfl
@[simp] theorem onCore_reports (s : State) (c : Nat) (f : Core → Core) : (onCore s c f).reports = s.reports := rfl
@[simp] theorem onCore_boot (s : State) (c : Nat) (f : Core → Core) : (onCore s c f).boot = s.boot := rfl
@[simp] theorem onCore_meas (s : State) (c : Nat) (f : Core → Core) : (onCore s c f).meas = s.meas := rfl
@[simp] theorem onCore_limits (s : State) (c : Nat) (f : Core → Core) : (onCore s c f).limits = s.limits := rfl
@[simp] theorem onCore_power (s : State) (c : Nat) (f : Core → Core) : (onCore s c f).power = s.power := rfl
@[simp] theorem onCore_tripped (s : State) (c : Nat) (f : Core → Core) : (onCore s c f).tripped = s.tripped := rfl
@[simp] theorem onCore_warmReq (s : State) (c : Nat) (f : Core → Core) : (onCore s c f).warmReq = s.warmReq := rfl
@[simp] theorem onCore_now (s : State) (c : Nat) (f : Core → Core) : (onCore s c f).now = s.now := rfl
@[simp] theorem onCore_ltime (s : State) (c : Nat) (f : Core → Core) : (onCore s c f).ltime = s.ltime := rfl
@[simp] theorem onCore_unitTimes (s : State) (c : Nat) (f : Core → Core) : (onCore s c f).unitTimes = s.unitTimes := rfl
@[simp] theorem onCore_agenda (s : State) (c : Nat) (f : Core → Core) : (onCore s c f).agenda = s.agenda := rfl
@[simp] theorem onCore_cur (s : State) (c : Nat) (f : Core → Core) : (onCore s c f).cur = s.cur := rfl
@[simp] theorem onCore_role (s : State) (c : Nat) (f : Core → Core) : (onCore s c f).role = s.role := rfl
@[simp] theorem onCore_ctx (s : State) (c : Nat) (f : Core → Core) : (onCore s c f).ctx = s.ctx := rfl
@[simp] theorem onCore_free (s : State) (c : Nat) (f : Core → Core) : (onCore s c f).free = s.free := rfl

@[simp] theorem onCur_mem (s : State) (f : Core → Core) : (onCur s f).mem = s.mem := rfl
@[simp] theorem onCur_poison (s : State) (f : Core → Core) : (onCur s f).poison = s.poison := rfl
@[simp] theorem onCur_codeOld (s : State) (f : Core → Core) : (onCur s f).codeOld = s.codeOld := rfl
@[simp] theorem onCur_codeTick (s : State) (f : Core → Core) : (onCur s f).codeTick = s.codeTick := rfl
@[simp] theorem onCur_lost (s : State) (f : Core → Core) : (onCur s f).lost = s.lost := rfl
@[simp] theorem onCur_quarantine (s : State) (f : Core → Core) : (onCur s f).quarantine = s.quarantine := rfl
@[simp] theorem onCur_mirrors (s : State) (f : Core → Core) : (onCur s f).mirrors = s.mirrors := rfl
@[simp] theorem onCur_links (s : State) (f : Core → Core) : (onCur s f).links = s.links := rfl
@[simp] theorem onCur_refs (s : State) (f : Core → Core) : (onCur s f).refs = s.refs := rfl
@[simp] theorem onCur_savePages (s : State) (f : Core → Core) : (onCur s f).savePages = s.savePages := rfl
@[simp] theorem onCur_ctxPages (s : State) (f : Core → Core) : (onCur s f).ctxPages = s.ctxPages := rfl
@[simp] theorem onCur_rests (s : State) (f : Core → Core) : (onCur s f).rests = s.rests := rfl
@[simp] theorem onCur_nextHold (s : State) (f : Core → Core) : (onCur s f).nextHold = s.nextHold := rfl
@[simp] theorem onCur_devHost (s : State) (f : Core → Core) : (onCur s f).devHost = s.devHost := rfl
@[simp] theorem onCur_hostLines (s : State) (f : Core → Core) : (onCur s f).hostLines = s.hostLines := rfl
@[simp] theorem onCur_ots (s : State) (f : Core → Core) : (onCur s f).ots = s.ots := rfl
@[simp] theorem onCur_tqs (s : State) (f : Core → Core) : (onCur s f).tqs = s.tqs := rfl
@[simp] theorem onCur_preemptWait (s : State) (f : Core → Core) : (onCur s f).preemptWait = s.preemptWait := rfl
@[simp] theorem onCur_sqs (s : State) (f : Core → Core) : (onCur s f).sqs = s.sqs := rfl
@[simp] theorem onCur_tags (s : State) (f : Core → Core) : (onCur s f).tags = s.tags := rfl
@[simp] theorem onCur_held (s : State) (f : Core → Core) : (onCur s f).held = s.held := rfl
@[simp] theorem onCur_nextHandle (s : State) (f : Core → Core) : (onCur s f).nextHandle = s.nextHandle := rfl
@[simp] theorem onCur_conts (s : State) (f : Core → Core) : (onCur s f).conts = s.conts := rfl
@[simp] theorem onCur_barriers (s : State) (f : Core → Core) : (onCur s f).barriers = s.barriers := rfl
@[simp] theorem onCur_podWaits (s : State) (f : Core → Core) : (onCur s f).podWaits = s.podWaits := rfl
@[simp] theorem onCur_podOut (s : State) (f : Core → Core) : (onCur s f).podOut = s.podOut := rfl
@[simp] theorem onCur_fctx (s : State) (f : Core → Core) : (onCur s f).fctx = s.fctx := rfl
@[simp] theorem onCur_fctxStatus (s : State) (f : Core → Core) : (onCur s f).fctxStatus = s.fctxStatus := rfl
@[simp] theorem onCur_pod (s : State) (f : Core → Core) : (onCur s f).pod = s.pod := rfl
@[simp] theorem onCur_ownInc (s : State) (f : Core → Core) : (onCur s f).ownInc = s.ownInc := rfl
@[simp] theorem onCur_routes (s : State) (f : Core → Core) : (onCur s f).routes = s.routes := rfl
@[simp] theorem onCur_exports (s : State) (f : Core → Core) : (onCur s f).exports = s.exports := rfl
@[simp] theorem onCur_hostLinks (s : State) (f : Core → Core) : (onCur s f).hostLinks = s.hostLinks := rfl
@[simp] theorem onCur_cxlMem (s : State) (f : Core → Core) : (onCur s f).cxlMem = s.cxlMem := rfl
@[simp] theorem onCur_farSent (s : State) (f : Core → Core) : (onCur s f).farSent = s.farSent := rfl
@[simp] theorem onCur_hostOut (s : State) (f : Core → Core) : (onCur s f).hostOut = s.hostOut := rfl
@[simp] theorem onCur_replies (s : State) (f : Core → Core) : (onCur s f).replies = s.replies := rfl
@[simp] theorem onCur_ports (s : State) (f : Core → Core) : (onCur s f).ports = s.ports := rfl
@[simp] theorem onCur_expanders (s : State) (f : Core → Core) : (onCur s f).expanders = s.expanders := rfl
@[simp] theorem onCur_faultRing (s : State) (f : Core → Core) : (onCur s f).faultRing = s.faultRing := rfl
@[simp] theorem onCur_faultDue (s : State) (f : Core → Core) : (onCur s f).faultDue = s.faultDue := rfl
@[simp] theorem onCur_errLog (s : State) (f : Core → Core) : (onCur s f).errLog = s.errLog := rfl
@[simp] theorem onCur_corrected (s : State) (f : Core → Core) : (onCur s f).corrected = s.corrected := rfl
@[simp] theorem onCur_uncorrected (s : State) (f : Core → Core) : (onCur s f).uncorrected = s.uncorrected := rfl
@[simp] theorem onCur_lastIrq (s : State) (f : Core → Core) : (onCur s f).lastIrq = s.lastIrq := rfl
@[simp] theorem onCur_msix (s : State) (f : Core → Core) : (onCur s f).msix = s.msix := rfl
@[simp] theorem onCur_reports (s : State) (f : Core → Core) : (onCur s f).reports = s.reports := rfl
@[simp] theorem onCur_boot (s : State) (f : Core → Core) : (onCur s f).boot = s.boot := rfl
@[simp] theorem onCur_meas (s : State) (f : Core → Core) : (onCur s f).meas = s.meas := rfl
@[simp] theorem onCur_limits (s : State) (f : Core → Core) : (onCur s f).limits = s.limits := rfl
@[simp] theorem onCur_power (s : State) (f : Core → Core) : (onCur s f).power = s.power := rfl
@[simp] theorem onCur_tripped (s : State) (f : Core → Core) : (onCur s f).tripped = s.tripped := rfl
@[simp] theorem onCur_warmReq (s : State) (f : Core → Core) : (onCur s f).warmReq = s.warmReq := rfl
@[simp] theorem onCur_now (s : State) (f : Core → Core) : (onCur s f).now = s.now := rfl
@[simp] theorem onCur_ltime (s : State) (f : Core → Core) : (onCur s f).ltime = s.ltime := rfl
@[simp] theorem onCur_unitTimes (s : State) (f : Core → Core) : (onCur s f).unitTimes = s.unitTimes := rfl
@[simp] theorem onCur_agenda (s : State) (f : Core → Core) : (onCur s f).agenda = s.agenda := rfl
@[simp] theorem onCur_cur (s : State) (f : Core → Core) : (onCur s f).cur = s.cur := rfl
@[simp] theorem onCur_role (s : State) (f : Core → Core) : (onCur s f).role = s.role := rfl
@[simp] theorem onCur_ctx (s : State) (f : Core → Core) : (onCur s f).ctx = s.ctx := rfl
@[simp] theorem onCur_free (s : State) (f : Core → Core) : (onCur s f).free = s.free := rfl

/-! ### The slot in issue -/

@[simp] theorem noteWrite_mem (s : State) (kind n : Nat) : (noteWrite s kind n).mem = s.mem := by
  unfold noteWrite; split <;> rfl
@[simp] theorem noteWrite_poison (s : State) (kind n : Nat) : (noteWrite s kind n).poison = s.poison := by
  unfold noteWrite; split <;> rfl
@[simp] theorem noteWrite_codeOld (s : State) (kind n : Nat) : (noteWrite s kind n).codeOld = s.codeOld := by
  unfold noteWrite; split <;> rfl
@[simp] theorem noteWrite_codeTick (s : State) (kind n : Nat) : (noteWrite s kind n).codeTick = s.codeTick := by
  unfold noteWrite; split <;> rfl
@[simp] theorem noteWrite_lost (s : State) (kind n : Nat) : (noteWrite s kind n).lost = s.lost := by
  unfold noteWrite; split <;> rfl
@[simp] theorem noteWrite_quarantine (s : State) (kind n : Nat) : (noteWrite s kind n).quarantine = s.quarantine := by
  unfold noteWrite; split <;> rfl
@[simp] theorem noteWrite_mirrors (s : State) (kind n : Nat) : (noteWrite s kind n).mirrors = s.mirrors := by
  unfold noteWrite; split <;> rfl
@[simp] theorem noteWrite_links (s : State) (kind n : Nat) : (noteWrite s kind n).links = s.links := by
  unfold noteWrite; split <;> rfl
@[simp] theorem noteWrite_refs (s : State) (kind n : Nat) : (noteWrite s kind n).refs = s.refs := by
  unfold noteWrite; split <;> rfl
@[simp] theorem noteWrite_savePages (s : State) (kind n : Nat) : (noteWrite s kind n).savePages = s.savePages := by
  unfold noteWrite; split <;> rfl
@[simp] theorem noteWrite_ctxPages (s : State) (kind n : Nat) : (noteWrite s kind n).ctxPages = s.ctxPages := by
  unfold noteWrite; split <;> rfl
@[simp] theorem noteWrite_rests (s : State) (kind n : Nat) : (noteWrite s kind n).rests = s.rests := by
  unfold noteWrite; split <;> rfl
@[simp] theorem noteWrite_nextHold (s : State) (kind n : Nat) : (noteWrite s kind n).nextHold = s.nextHold := by
  unfold noteWrite; split <;> rfl
@[simp] theorem noteWrite_devHost (s : State) (kind n : Nat) : (noteWrite s kind n).devHost = s.devHost := by
  unfold noteWrite; split <;> rfl
@[simp] theorem noteWrite_hostLines (s : State) (kind n : Nat) : (noteWrite s kind n).hostLines = s.hostLines := by
  unfold noteWrite; split <;> rfl
@[simp] theorem noteWrite_cores (s : State) (kind n : Nat) : (noteWrite s kind n).cores = s.cores := by
  unfold noteWrite; split <;> rfl
@[simp] theorem noteWrite_ots (s : State) (kind n : Nat) : (noteWrite s kind n).ots = s.ots := by
  unfold noteWrite; split <;> rfl
@[simp] theorem noteWrite_tqs (s : State) (kind n : Nat) : (noteWrite s kind n).tqs = s.tqs := by
  unfold noteWrite; split <;> rfl
@[simp] theorem noteWrite_preemptWait (s : State) (kind n : Nat) : (noteWrite s kind n).preemptWait = s.preemptWait := by
  unfold noteWrite; split <;> rfl
@[simp] theorem noteWrite_sqs (s : State) (kind n : Nat) : (noteWrite s kind n).sqs = s.sqs := by
  unfold noteWrite; split <;> rfl
@[simp] theorem noteWrite_tags (s : State) (kind n : Nat) : (noteWrite s kind n).tags = s.tags := by
  unfold noteWrite; split <;> rfl
@[simp] theorem noteWrite_held (s : State) (kind n : Nat) : (noteWrite s kind n).held = s.held := by
  unfold noteWrite; split <;> rfl
@[simp] theorem noteWrite_nextHandle (s : State) (kind n : Nat) : (noteWrite s kind n).nextHandle = s.nextHandle := by
  unfold noteWrite; split <;> rfl
@[simp] theorem noteWrite_conts (s : State) (kind n : Nat) : (noteWrite s kind n).conts = s.conts := by
  unfold noteWrite; split <;> rfl
@[simp] theorem noteWrite_barriers (s : State) (kind n : Nat) : (noteWrite s kind n).barriers = s.barriers := by
  unfold noteWrite; split <;> rfl
@[simp] theorem noteWrite_podWaits (s : State) (kind n : Nat) : (noteWrite s kind n).podWaits = s.podWaits := by
  unfold noteWrite; split <;> rfl
@[simp] theorem noteWrite_podOut (s : State) (kind n : Nat) : (noteWrite s kind n).podOut = s.podOut := by
  unfold noteWrite; split <;> rfl
@[simp] theorem noteWrite_fctx (s : State) (kind n : Nat) : (noteWrite s kind n).fctx = s.fctx := by
  unfold noteWrite; split <;> rfl
@[simp] theorem noteWrite_fctxStatus (s : State) (kind n : Nat) : (noteWrite s kind n).fctxStatus = s.fctxStatus := by
  unfold noteWrite; split <;> rfl
@[simp] theorem noteWrite_pod (s : State) (kind n : Nat) : (noteWrite s kind n).pod = s.pod := by
  unfold noteWrite; split <;> rfl
@[simp] theorem noteWrite_ownInc (s : State) (kind n : Nat) : (noteWrite s kind n).ownInc = s.ownInc := by
  unfold noteWrite; split <;> rfl
@[simp] theorem noteWrite_routes (s : State) (kind n : Nat) : (noteWrite s kind n).routes = s.routes := by
  unfold noteWrite; split <;> rfl
@[simp] theorem noteWrite_exports (s : State) (kind n : Nat) : (noteWrite s kind n).exports = s.exports := by
  unfold noteWrite; split <;> rfl
@[simp] theorem noteWrite_hostLinks (s : State) (kind n : Nat) : (noteWrite s kind n).hostLinks = s.hostLinks := by
  unfold noteWrite; split <;> rfl
@[simp] theorem noteWrite_cxlMem (s : State) (kind n : Nat) : (noteWrite s kind n).cxlMem = s.cxlMem := by
  unfold noteWrite; split <;> rfl
@[simp] theorem noteWrite_farSent (s : State) (kind n : Nat) : (noteWrite s kind n).farSent = s.farSent := by
  unfold noteWrite; split <;> rfl
@[simp] theorem noteWrite_hostOut (s : State) (kind n : Nat) : (noteWrite s kind n).hostOut = s.hostOut := by
  unfold noteWrite; split <;> rfl
@[simp] theorem noteWrite_replies (s : State) (kind n : Nat) : (noteWrite s kind n).replies = s.replies := by
  unfold noteWrite; split <;> rfl
@[simp] theorem noteWrite_ports (s : State) (kind n : Nat) : (noteWrite s kind n).ports = s.ports := by
  unfold noteWrite; split <;> rfl
@[simp] theorem noteWrite_expanders (s : State) (kind n : Nat) : (noteWrite s kind n).expanders = s.expanders := by
  unfold noteWrite; split <;> rfl
@[simp] theorem noteWrite_faultRing (s : State) (kind n : Nat) : (noteWrite s kind n).faultRing = s.faultRing := by
  unfold noteWrite; split <;> rfl
@[simp] theorem noteWrite_faultDue (s : State) (kind n : Nat) : (noteWrite s kind n).faultDue = s.faultDue := by
  unfold noteWrite; split <;> rfl
@[simp] theorem noteWrite_errLog (s : State) (kind n : Nat) : (noteWrite s kind n).errLog = s.errLog := by
  unfold noteWrite; split <;> rfl
@[simp] theorem noteWrite_corrected (s : State) (kind n : Nat) : (noteWrite s kind n).corrected = s.corrected := by
  unfold noteWrite; split <;> rfl
@[simp] theorem noteWrite_uncorrected (s : State) (kind n : Nat) : (noteWrite s kind n).uncorrected = s.uncorrected := by
  unfold noteWrite; split <;> rfl
@[simp] theorem noteWrite_lastIrq (s : State) (kind n : Nat) : (noteWrite s kind n).lastIrq = s.lastIrq := by
  unfold noteWrite; split <;> rfl
@[simp] theorem noteWrite_msix (s : State) (kind n : Nat) : (noteWrite s kind n).msix = s.msix := by
  unfold noteWrite; split <;> rfl
@[simp] theorem noteWrite_reports (s : State) (kind n : Nat) : (noteWrite s kind n).reports = s.reports := by
  unfold noteWrite; split <;> rfl
@[simp] theorem noteWrite_boot (s : State) (kind n : Nat) : (noteWrite s kind n).boot = s.boot := by
  unfold noteWrite; split <;> rfl
@[simp] theorem noteWrite_meas (s : State) (kind n : Nat) : (noteWrite s kind n).meas = s.meas := by
  unfold noteWrite; split <;> rfl
@[simp] theorem noteWrite_limits (s : State) (kind n : Nat) : (noteWrite s kind n).limits = s.limits := by
  unfold noteWrite; split <;> rfl
@[simp] theorem noteWrite_power (s : State) (kind n : Nat) : (noteWrite s kind n).power = s.power := by
  unfold noteWrite; split <;> rfl
@[simp] theorem noteWrite_tripped (s : State) (kind n : Nat) : (noteWrite s kind n).tripped = s.tripped := by
  unfold noteWrite; split <;> rfl
@[simp] theorem noteWrite_warmReq (s : State) (kind n : Nat) : (noteWrite s kind n).warmReq = s.warmReq := by
  unfold noteWrite; split <;> rfl
@[simp] theorem noteWrite_now (s : State) (kind n : Nat) : (noteWrite s kind n).now = s.now := by
  unfold noteWrite; split <;> rfl
@[simp] theorem noteWrite_ltime (s : State) (kind n : Nat) : (noteWrite s kind n).ltime = s.ltime := by
  unfold noteWrite; split <;> rfl
@[simp] theorem noteWrite_unitTimes (s : State) (kind n : Nat) : (noteWrite s kind n).unitTimes = s.unitTimes := by
  unfold noteWrite; split <;> rfl
@[simp] theorem noteWrite_agenda (s : State) (kind n : Nat) : (noteWrite s kind n).agenda = s.agenda := by
  unfold noteWrite; split <;> rfl
@[simp] theorem noteWrite_cur (s : State) (kind n : Nat) : (noteWrite s kind n).cur = s.cur := by
  unfold noteWrite; split <;> rfl
@[simp] theorem noteWrite_role (s : State) (kind n : Nat) : (noteWrite s kind n).role = s.role := by
  unfold noteWrite; split <;> rfl
@[simp] theorem noteWrite_free (s : State) (kind n : Nat) : (noteWrite s kind n).free = s.free := by
  unfold noteWrite; split <;> rfl
@[simp] theorem noteWrite_ctx_old (s : State) (kind n : Nat) : (noteWrite s kind n).ctx.old = s.ctx.old := by
  unfold noteWrite; split <;> rfl
@[simp] theorem noteWrite_ctx_slot (s : State) (kind n : Nat) : (noteWrite s kind n).ctx.slot = s.ctx.slot := by
  unfold noteWrite; split <;> rfl
@[simp] theorem noteWrite_ctx_word (s : State) (kind n : Nat) : (noteWrite s kind n).ctx.word = s.ctx.word := by
  unfold noteWrite; split <;> rfl
@[simp] theorem noteWrite_ctx_lit (s : State) (kind n : Nat) : (noteWrite s kind n).ctx.lit = s.ctx.lit := by
  unfold noteWrite; split <;> rfl
@[simp] theorem noteWrite_ctx_gen (s : State) (kind n : Nat) : (noteWrite s kind n).ctx.gen = s.ctx.gen := by
  unfold noteWrite; split <;> rfl
@[simp] theorem noteWrite_ctx_pc (s : State) (kind n : Nat) : (noteWrite s kind n).ctx.pc = s.ctx.pc := by
  unfold noteWrite; split <;> rfl
@[simp] theorem noteWrite_ctx_target (s : State) (kind n : Nat) : (noteWrite s kind n).ctx.target = s.ctx.target := by
  unfold noteWrite; split <;> rfl
@[simp] theorem noteWrite_ctx_after (s : State) (kind n : Nat) : (noteWrite s kind n).ctx.after = s.ctx.after := by
  unfold noteWrite; split <;> rfl
@[simp] theorem noteWrite_ctx_eret (s : State) (kind n : Nat) : (noteWrite s kind n).ctx.eret = s.ctx.eret := by
  unfold noteWrite; split <;> rfl
@[simp] theorem noteWrite_ctx_cwr (s : State) (kind n : Nat) : (noteWrite s kind n).ctx.cwr = s.ctx.cwr := by
  unfold noteWrite; split <;> rfl

@[simp] theorem getCore_noteWrite (s : State) (kind n c : Nat) : getCore (noteWrite s kind n) c = getCore s c := by
  simp [getCore]

@[simp] theorem cc_noteWrite (s : State) (kind n : Nat) : cc (noteWrite s kind n) = cc s := by simp [cc]

/-! ### Register files (R15, R16) -/

@[simp] theorem rdS_zero (r : Regs) : rdS r 0 = 0 := rfl

@[simp] theorem rdP_zero (r : Regs) : rdP r 0 = true := rfl

/-- s[m] after a write of s[n]: s0 takes nothing. -/
theorem rdS_wrS (r : Regs) (n m : Nat) (v : W64) : rdS (wrS r n v) m = if m = n ∧ n ≠ 0 then v else rdS r m := by
  unfold rdS wrS
  by_cases hn : n = 0
  · simp [hn]
  · by_cases hm : m = n
    · subst hm; simp [hn]
    · simp [hn, hm]

/-- p[m] after a write of p[n]: p0 takes nothing. -/
theorem rdP_wrP (r : Regs) (n m : Nat) (v : Bool) : rdP (wrP r n v) m = if m = n ∧ n ≠ 0 then v else rdP r m := by
  unfold rdP wrP
  by_cases hn : n = 0
  · simp [hn]
  · by_cases hm : m = n
    · subst hm; simp [hn]
    · simp [hn, hm]

/-- d[m] after a write of d[n]. -/
theorem rdD_wrD (r : Regs) (n m : Nat) (v : W512) : rdD (wrD r n v) m = if m = n then v else rdD r m := by
  simp [rdD, wrD, SMap.get_set]

@[simp] theorem wrS_p (r : Regs) (n : Nat) (v : W64) : (wrS r n v).p = r.p := by unfold wrS; split <;> rfl
@[simp] theorem wrS_d (r : Regs) (n : Nat) (v : W64) : (wrS r n v).d = r.d := by unfold wrS; split <;> rfl
@[simp] theorem wrS_cr (r : Regs) (n : Nat) (v : W64) : (wrS r n v).cr = r.cr := by unfold wrS; split <;> rfl
@[simp] theorem wrP_s (r : Regs) (n : Nat) (v : Bool) : (wrP r n v).s = r.s := by unfold wrP; split <;> rfl
@[simp] theorem wrP_d (r : Regs) (n : Nat) (v : Bool) : (wrP r n v).d = r.d := by unfold wrP; split <;> rfl
@[simp] theorem wrP_cr (r : Regs) (n : Nat) (v : Bool) : (wrP r n v).cr = r.cr := by unfold wrP; split <;> rfl
@[simp] theorem wrD_s (r : Regs) (n : Nat) (v : W512) : (wrD r n v).s = r.s := rfl
@[simp] theorem wrD_p (r : Regs) (n : Nat) (v : W512) : (wrD r n v).p = r.p := rfl
@[simp] theorem wrD_cr (r : Regs) (n : Nat) (v : W512) : (wrD r n v).cr = r.cr := rfl

@[simp] theorem rdP_wrS (r : Regs) (n m : Nat) (v : W64) : rdP (wrS r n v) m = rdP r m := by simp [rdP]
@[simp] theorem rdD_wrS (r : Regs) (n m : Nat) (v : W64) : rdD (wrS r n v) m = rdD r m := by simp [rdD]
@[simp] theorem rdS_wrP (r : Regs) (n m : Nat) (v : Bool) : rdS (wrP r n v) m = rdS r m := by simp [rdS]
@[simp] theorem rdD_wrP (r : Regs) (n m : Nat) (v : Bool) : rdD (wrP r n v) m = rdD r m := by simp [rdD]
@[simp] theorem rdS_wrD (r : Regs) (n m : Nat) (v : W512) : rdS (wrD r n v) m = rdS r m := by simp [rdS]
@[simp] theorem rdP_wrD (r : Regs) (n m : Nat) (v : W512) : rdP (wrD r n v) m = rdP r m := by simp [rdP]

/-! ### Package tables -/

end Sys2Proof.Machine
end

