-- ==== Sys2Proof/Laws/Memory.lean ====
section
/-! SUPPORT. Memory: what a byte reads as after bytes are stored, and that every operation on memory keeps its canonical
form. -/

namespace Sys2Proof.Machine

open Sys2Proof

/-! ### Bytes stored at an address -/

/-- A byte below the stored bytes, or above them, is unchanged. -/
theorem get_pokeBytes_off (m : List Host.Cell) (a : Nat) (l : List Byte) (b : Nat) (h : b < a ∨ a + l.length ≤ b) :
    SMap.get memDefault (pokeBytes m a l) b = SMap.get memDefault m b := by
  induction l generalizing m a with
  | nil => rfl
  | cons x t ih =>
    have e : b ≠ a := by simp only [List.length_cons] at h; omega
    rw [pokeBytes, ih _ _ (by simp only [List.length_cons] at h; omega), SMap.get_set_ne _ _ _ _ _ e]

/-- A stored byte reads as it was stored. -/
theorem get_pokeBytes_at (m : List Host.Cell) (a : Nat) (l : List Byte) (i : Nat) (h : i < l.length) :
    SMap.get memDefault (pokeBytes m a l) (a + i) = l[i] := by
  induction l generalizing m a i with
  | nil => exact absurd h (Nat.not_lt_zero i)
  | cons x t ih =>
    rw [pokeBytes]
    match i with
    | 0 =>
      exact (get_pokeBytes_off _ (a + 1) t a (Or.inl (by omega))).trans (SMap.get_set_self _ _ _ _)
    | i + 1 =>
      have e : a + (i + 1) = a + 1 + i := by omega
      rw [e, ih _ _ i (by simpa using h)]
      rfl

/-- Storing bytes keeps the canonical form. -/
@[simp] theorem wf_pokeBytes (m : List Host.Cell) (a : Nat) (l : List Byte) (w : Memory.wf m = true) :
    Memory.wf (pokeBytes m a l) = true := by
  induction l generalizing m a with
  | nil => exact w
  | cons x t ih => exact ih _ _ (SMap.wf_set memDefault m a x w)

/-! ### The form through the operations of the order point -/

/-- A fold keeps the form when each of its steps does. -/
theorem wf_foldl {α : Type} (g : State → α → State) (l : List α) (s : State)
    (h : ∀ s e, Memory.wf s.mem = true → Memory.wf (g s e).mem = true) (w : Memory.wf s.mem = true) :
    Memory.wf (l.foldl g s).mem = true := by
  induction l generalizing s with
  | nil => exact w
  | cons e t ih => exact ih _ (h s e w)

/-- An entry of the error log leaves memory alone. -/
@[simp] theorem mem_logError (s : State) (x : LogEntry) : (logError s x).mem = s.mem := by
  unfold logError
  split <;> rfl

/-- New marks of a granule leave memory alone. -/
@[simp] theorem mem_freshPz (s : State) (g : Nat) (p : Bool) : (freshPz s g p).mem = s.mem := by
  unfold freshPz
  simp only
  split <;> rfl

/-- A fold of what leaves memory alone leaves it alone. -/
theorem mem_foldl {α : Type} (g : State → α → State) (l : List α) (s : State) (h : ∀ s e, (g s e).mem = s.mem) :
    (l.foldl g s).mem = s.mem := by
  induction l generalizing s with
  | nil => rfl
  | cons e t ih => exact (ih _).trans (h s e)

theorem wf_repairGranule (s : State) (g : Nat) (w : Memory.wf s.mem = true) : Memory.wf (repairGranule s g).mem = true := by
  unfold repairGranule
  split
  · rw [mem_logError, mem_freshPz]
    exact wf_pokeBytes _ _ _ w
  · exact w

theorem wf_ownHostLine (s : State) (g : Nat) (w : Memory.wf s.mem = true) : Memory.wf (ownHostLine s g).mem = true := by
  unfold ownHostLine
  split
  · exact wf_pokeBytes _ _ _ w
  · exact w

/-- A change of every core leaves memory alone. -/
@[simp] theorem mem_eachCore (s : State) (f : Nat → Core → Core) : (eachCore s f).mem = s.mem := by
  unfold eachCore
  generalize List.map _ _ = l
  induction l generalizing s with
  | nil => rfl
  | cons e t ih => exact (ih _).trans rfl

@[simp] theorem mem_recallLine (s : State) (g : Nat) (keep : Option (Nat × Nat)) (l1 : Option Nat) :
    (recallLine s g keep l1).mem = s.mem := mem_eachCore _ _

theorem wf_prepare (s : State) (a n : Nat) (v : Via) (w : Memory.wf s.mem = true) :
    Memory.wf (prepare s a n v).mem = true :=
  wf_foldl _ _ _ (fun s _ h => by simpa using wf_ownHostLine _ _ (wf_repairGranule s _ h)) w

/-- A read event. -/
theorem wf_readPhys (s : State) (a n : Nat) (v : Via) (w : Memory.wf s.mem = true) :
    Memory.wf (readPhys s a n v).1.mem = true := wf_prepare s a n v w

theorem mem_markPoison (s : State) (a n : Nat) (p : Bool) : (markPoison s a n p).mem = s.mem := by
  unfold markPoison
  split
  · exact mem_foldl _ _ _ fun _ _ => rfl
  · exact mem_foldl _ _ _ fun _ _ => mem_freshPz _ _ _

theorem wf_storeBytes (s : State) (a : Nat) (l : List Byte) (p : Bool) (w : Memory.wf s.mem = true) :
    Memory.wf (storeBytes s a l p).mem = true := by
  unfold storeBytes
  rw [mem_markPoison]
  exact wf_pokeBytes _ _ _ w

theorem wf_mirrorWrite (s : State) (a : Nat) (l : List Byte) (p : Bool) (w : Memory.wf s.mem = true) :
    Memory.wf (mirrorWrite s a l p).mem = true := by
  unfold mirrorWrite
  split
  · exact wf_storeBytes _ _ _ _ w
  · exact w

/-- A write by whatever means. -/
theorem wf_putMemory (s : State) (a : Nat) (l : List Byte) (p : Bool) (w : Memory.wf s.mem = true) :
    Memory.wf (putMemory s a l p).mem = true :=
  wf_mirrorWrite _ _ _ _ (wf_storeBytes _ _ _ _ w)

/-- A write event. -/
theorem wf_writePhys (s : State) (a : Nat) (l : List Byte) (p : Bool) (v : Via) (w : Memory.wf s.mem = true) :
    Memory.wf (writePhys s a l p v).mem = true := wf_putMemory _ _ _ _ (wf_prepare s a _ v w)

@[simp] theorem mem_cleanPz (s : State) (g : Nat) : (cleanPz s g).mem = s.mem := by
  unfold cleanPz clearPz
  simp only
  split
  · rw [mem_freshPz, mem_freshPz]
  · rw [mem_freshPz]

/-- A write event of a command. -/
theorem wf_writeCounted (s : State) (a : Nat) (l : List Byte) (p : Bool) (v : Via) (clean : List (Nat × List Nat))
    (w : Memory.wf s.mem = true) : Memory.wf (writeCounted s a l p v clean).1.mem = true := by
  unfold writeCounted
  simp only
  split
  · simpa using wf_writePhys s a l p v w
  · exact wf_writePhys s a l p v w

/-! ### The form through what is done to whole pages and tables -/

theorem wf_poke64 (s : State) (a : Nat) (x : W64) (w : Memory.wf s.mem = true) : Memory.wf (poke64 s a x).mem = true := by
  unfold poke64 pokeRaw
  exact wf_mirrorWrite _ _ _ _ (wf_storeBytes _ _ _ _ w)

/-- A frame's contents copied over another's. -/
theorem wf_copyFrame (s : State) (fr mi : Nat) (w : Memory.wf s.mem = true) : Memory.wf (copyFrame s fr mi).mem = true := by
  unfold copyFrame
  simp only
  rw [mem_foldl (fun s g => setPz s g { poison := true }) _ _ fun _ _ => rfl]
  exact SMap.wf_foldl_set memDefault _ _ _ _ (SMap.wf_filter memDefault _ _ w)

theorem wf_mirrorFrame (s : State) (fr : Nat) (w : Memory.wf s.mem = true) : Memory.wf (mirrorFrame s fr).mem = true := by
  unfold mirrorFrame
  split
  · exact wf_copyFrame _ _ _ w
  · exact w

theorem mem_copyMarks (s : State) (a b n : Nat) : (copyMarks s a b n).mem = s.mem := mem_foldl _ _ _ fun _ _ => rfl

/-- The copy of a page that several agents refer to. -/
theorem wf_copyPage (s : State) (a b n : Nat) (w : Memory.wf s.mem = true) : Memory.wf (copyPage s a b n).mem = true := by
  unfold copyPage
  refine wf_mirrorFrame _ _ ?_
  rw [mem_copyMarks]
  exact wf_pokeBytes _ _ _ w

/-- The bytes that memory held before are put back. -/
theorem wf_dropDirty (s : State) (x : Win) (w : Memory.wf s.mem = true) : Memory.wf (dropDirty s x).mem = true :=
  wf_foldl _ _ _ (fun _ _ h => wf_putMemory _ _ _ _ h) w

/-- A context is written into its pages. -/
theorem wf_writeArea (s : State) (pages : List Nat) (m : Img) (w : Memory.wf s.mem = true) :
    Memory.wf (writeArea s pages m).mem = true :=
  wf_foldl _ _ _ (fun _ _ h => wf_mirrorFrame _ _ h)
    (SMap.wf_foldl_set memDefault _ _ _ _ (SMap.wf_filter memDefault _ _ w))

/-- The bytes of a bundle and of its tables are placed. -/
theorem wf_placeMemory (m : List Host.Cell) (x : W64) (w : Memory.wf m = true) : Memory.wf (placeMemory m x) = true := by
  unfold placeMemory
  simp only
  repeat' apply wf_pokeBytes
  exact w

/-- An uncorrectable error destroys a granule. -/
theorem wf_loseGranule (s : State) (g : Nat) (w : Memory.wf s.mem = true) : Memory.wf (loseGranule s g).mem = true := by
  unfold loseGranule outsideRead
  refine wf_pokeBytes _ _ _ ?_
  rw [mem_recallLine]
  exact w

/-- A frame is registered with its mirror. -/
theorem wf_execMirrorRegistration (fr mi : Nat) (s t : State) (h : execMirrorRegistration fr mi s = .next t)
    (w : Memory.wf s.mem = true) : Memory.wf t.mem = true := by
  unfold execMirrorRegistration at h
  injection h with h
  subst h
  split
  · exact wf_copyFrame _ _ _ w
  · exact w

end Sys2Proof.Machine
end

