-- ==== Sys2Proof/Laws/Ops.lean ====
section
/-! SUPPORT. For each operation that the instructions share, one lemma that says everything it does. -/

namespace Sys2Proof.Machine

open Sys2Proof Claim

/-! ### Memory read back -/

/-- A state whose memory is the same list reads the same bytes. -/
theorem sameMemory_of_eq {s t : State} (h : t.mem = s.mem) : SameMemory s t := fun a => by simp [memByte, h]

/-! ### Register writes of the slot in issue (R57) -/

/-- A change of the current core's registers alone, noted or not, keeps everything else. -/
theorem regsOnly_noteWrite (s : State) (g : Regs → Regs) (kind n : Nat) :
    RegsOnly s (noteWrite (onCur s fun k => { k with regs := g k.regs }) kind n) := by
  refine ⟨sameMemory_of_eq (by simp), fun j h => by simp [onCur, h], ?_, ?_⟩
  · unfold noteWrite
    split <;> rfl
  · simp

/-- `putS` writes one scalar and nothing else. -/
theorem putS_written (s : State) (n : BitVec 6) (v : W64) : ScalarWritten s (putS s n v) n v := by
  have hn : (n.toNat ≠ 0) ↔ n ≠ 0 := by
    constructor
    · rintro h rfl; exact h rfl
    · intro h e; exact h (BitVec.eq_of_toNat_eq (by simpa using e))
  refine ⟨fun m => ?_, fun m => ?_, fun m => ?_, ?_, regsOnly_noteWrite s (fun r => wrS r n.toNat v) 0 n.toNat⟩
  · simp only [putS, cc_noteWrite, cc_onCur, rdS_wrS, hn]
  all_goals simp [putS]

/-- `putP` writes one predicate and nothing else. -/
theorem putP_written (s : State) (n : Nat) (v : Bool) : PredicateWritten s (putP s n v) n v := by
  refine ⟨fun m => ?_, fun m => ?_, fun m => ?_, ?_, regsOnly_noteWrite s (fun r => wrP r n v) 1 n⟩
  · simp only [putP, cc_noteWrite, cc_onCur, rdP_wrP]
  all_goals simp [putP]

/-- A write under a true predicate. -/
theorem givesScalar_putS {i : Instr} {s : State} {f : Frame} {n : BitVec 6} {v w : W64} (hp : predOk s f = true)
    (hi : exec i s = .next (whenPred f s (putS s n v))) (hv : v = w) : GivesScalar i s n w :=
  ⟨putS s n v, by rw [hi, whenPred, if_pos hp], hv ▸ putS_written s n v⟩

theorem givesPredicate_putP {i : Instr} {s : State} {f : Frame} {n : Nat} {v w : Bool} (hp : predOk s f = true)
    (hi : exec i s = .next (whenPred f s (putP s n v))) (hv : v = w) : GivesPredicate i s n w :=
  ⟨putP s n v, by rw [hi, whenPred, if_pos hp], hv ▸ putP_written s n v⟩

/-! ### The program buffer (R201) -/

/-- A change of one core is a change of that core alone. -/
theorem coreOnly_onCore (s : State) (c : Nat) (g : Core → Core) : CoreOnly c s (onCore s c g) g :=
  ⟨by simp, sameMemory_of_eq rfl, fun j h => by simp [h], rfl⟩

/-- Changes of one core compose. -/
theorem coreOnly_trans {c : Nat} {s t u : State} {g h : Core → Core} (h1 : CoreOnly c s t g) (h2 : CoreOnly c t u h) :
    CoreOnly c s u (fun k => h (g k)) := by
  obtain ⟨a1, m1, o1, p1⟩ := h1
  obtain ⟨a2, m2, o2, p2⟩ := h2
  refine ⟨by rw [a2, a1], fun a => (m2 a).trans (m1 a), fun j hj => (o2 j hj).trans (o1 j hj), ?_⟩
  unfold PackageSame at *
  rw [← p1, ← p2]

/-- Noting the register that a result will reach changes nothing that a program can see. -/
theorem coreOnly_noteWrite {c : Nat} {s t : State} {g : Core → Core} (h : CoreOnly c s t g) (kind n : Nat) :
    CoreOnly c s (noteWrite t kind n) g := by
  obtain ⟨a, m, o, p⟩ := h
  refine ⟨by simpa using a, fun x => ?_, fun j hj => by simpa using o j hj, ?_⟩
  · have := m x
    simpa [memByte] using this
  · rw [← p]
    unfold noteWrite PackageSame
    split <;> rfl

/-- The entry that `enbuf` makes. -/
def bufItem (s : State) (holds : Bool) (ev : Ev) : BufItem :=
  { slot := s.ctx.slot, word := s.ctx.word, ev := ev, asid := asidOf s (oldCore s), holds := holds,
    sup := isSup (oldCore s), depth := if isSup (oldCore s) then (cc s).depth else 0 }

/-- `enbuf` adds one entry at the tail and nothing else. -/
theorem enbuf_entered (s : State) (holds : Bool) (ev : Ev) : Entered s (enbuf s holds ev) 0 holds ev :=
  ⟨bufItem s holds ev, rfl, rfl, rfl, rfl, coreOnly_onCore s s.cur _⟩

/-- A result that will reach a scalar is noted, and nothing else. -/
theorem entered_lateS {s t : State} {n : Nat} {holds : Bool} {ev : Ev} (h : Entered s t n holds ev) (m : Nat) :
    Entered s (lateS t m) n holds ev := by
  obtain ⟨b, h1, h2, h3, h4, h5⟩ := h
  exact ⟨b, h1, h2, h3, h4, coreOnly_noteWrite h5 0 m⟩

/-! ### Taking a trap and returning from one (R355, R360, R374) -/

/-- Without a vector nothing is taken: the run is marked as cancelled. -/
theorem takeTrap_noVector {k : Core} (t : PTrap) (epc : Nat) (h : field k.regs.cr.tvec 5 50 = 0) :
    takeTrap k t epc = { k with cancelled := true, stall := .none, waited := 0 } := by
  rw [takeTrap, if_pos h]

/-- With a vector: the saved registers, the status and the mode, the pc at the vector, and every register that a slot
names as before. -/
theorem takeTrap_taken {k : Core} (t : PTrap) (epc : Nat) (h : field k.regs.cr.tvec 5 50 ≠ 0) :
    (takeTrap k t epc).regs = { k.regs with cr := trapRegs k.regs.cr t epc }
      ∧ (takeTrap k t epc).pc = field k.regs.cr.tvec 5 50 * 32 := by
  rw [takeTrap, if_neg h]
  simp only
  split <;> exact ⟨rfl, rfl⟩

/-- The return: the status before the trap, and the pc at the saved address. -/
theorem returnTrap_returned (k : Core) :
    (returnTrap k).regs = { k.regs with cr := { k.regs.cr with status := eretStatus k.regs.cr.status } }
      ∧ (returnTrap k).pc = field k.regs.cr.epc 5 50 * 32 := ⟨rfl, rfl⟩

end Sys2Proof.Machine
end

