-- ==== Sys2Proof/Tests/Slice0.lean ====
section
/-! SUPPORT. Tests: ill-formed terms that each check refuses, words that the spec writes out, and for each statement states
and operands that meet its hypotheses. -/

namespace Sys2Proof.Tests

set_option Elab.async false

open Sys2Proof Sys2Proof.Machine Sys2Proof.Claim

/-- The word is the instruction's. -/
def reads (w : W64) (i : Instr) : Bool := match decode w with
  | .ok j => decide (j = i)
  | .error _ => false
/-- The word is refused with this fault. -/
def refuses (f : DecodeFault) (w : W64) : Bool := match decode w with
  | .ok _ => false
  | .error g => decide (g = f)

/-! ### Words that the spec writes out (R48 to R54 and the instruction chapters) -/

/-- The frame with nothing set. -/
def f0 : Frame := { takeL := false, takeR := false, giveL := false, giveR := false, inst := false, pred := 0, pneg := false }
/-- Format A's operands. -/
def opA (d a b : BitVec 6) (fn : BitVec 10 := 0) (w : BitVec 2 := 0) : OpA := { dst := d, a := a, b := b, fn := fn, width := w, rsv := 0 }
/-- Format I's. -/
def opI (d a : BitVec 6) (sel : BitVec 2 := 0) (lit : Bool := false) (imm : BitVec 32 := 0) : OpI := { dst := d, a := a, sel := sel, lit := lit, imm := imm }
/-- Format C's. -/
def opC (c : BitVec 3) (a b : BitVec 6) (disp : BitVec 32) : OpC := { cond := c, a := a, b := b, disp := disp }
/-- Format M's. -/
def opM (x b i : BitVec 6) (sc : BitVec 2) (sz : BitVec 3) (amo : BitVec 4) (disp : BitVec 20) : OpM :=
  { data := x, base := b, index := i, scale := sc, size := sz, amo := amo, disp := disp }
/-- Format V's. -/
def opV (d a b : BitVec 5) (c : BitVec 5 := 0) (t : BitVec 4 := 0) (r : BitVec 3 := 0) (o : BitVec 2 := 0) (fn : BitVec 6 := 0)
    (imm : BitVec 12 := 0) : OpV :=
  { vd := d, va := a, vb := b, vc := c, type := t, rnd := r, ovf := o, fn := fn, imm := imm }
/-- Format E's. -/
def opE (a b c : BitVec 5) (acc chan : BitVec 3 := 0) (fn : BitVec 6 := 0) (mods : BitVec 20 := 0) : OpE :=
  { dA := a, dB := b, dC := c, acc := acc, chan := chan, fn := fn, mods := mods }
/-- Format Y's. -/
def opY (x y z : BitVec 6) (fn : BitVec 9 := 0) (imm : BitVec 20 := 0) : OpY := { x := x, y := y, z := z, fn := fn, imm := imm }

/-- R48, R107 to R111: ADD, DIV.w.n, CLZ, POPC, SEL, SETC.lt, PAND and CMP.lt. -/
theorem test_words_scalar :
    (reads 0x01000A30E0000000 (.add f0 (opA 5 6 7))
      && reads 0x01038A30E0000000 (.add { f0 with pred := 3, pneg := true } (opA 5 6 7))
      && reads 0x05000A30E00A0000 (.div f0 (opA 5 6 7 1 1))
      && reads 0x1100062000000000 (.clz f0 (opA 3 4 0))
      && reads 0x1100062000100000 (.popc f0 (opA 3 4 0 2))
      && reads 0x12000A30E0180000 (.sel f0 (opA 5 6 7 3))
      && reads 0x13000A30E0100000 (.setc f0 (opA 5 6 7 2))
      && reads 0x1500021060000000 (.pand f0 (opA 1 2 3))
      && reads 0x1400208340000000 (.cmp f0 (opC 2 2 3 0x40000000))) = true := by
  decide

/-- R49, R112, R113: ADDI with its immediate and with the literal, ORI, SRAI.w, LI, LIH and LEA. -/
theorem test_words_immediate :
    (reads 0x16000820FFFFFFF0 (.addi f0 (opI 4 4 0 false 0xFFFFFFF0))
      && reads 0x1600082100000000 (.addi f0 (opI 4 4 0 true))
      && reads 0x17000412000000FF (.ori f0 (opI 2 2 1 false 255))
      && reads 0x1800062200000205 (.srai f0 (opI 3 4 1 false 0x205))
      && reads 0x1900100000001234 (.li f0 (opI 8 0 0 false 0x1234))
      && reads 0x190010080000DEAD (.lih f0 (opI 8 1 0 false 0xDEAD))
      && reads 0x1A000A30F8000010 (.lea f0 (opM 5 6 7 3 0 0 16))) = true := by
  decide

/-- R51, R221 to R228: LD.d, LD.b.i, ST.q, AMO.maxn.w, CAS.d, AMOBND.d, PREF.w.l2, FFENCE, DRAIN, IFENCE and BIASFLIP.dev. -/
theorem test_words_memory :
    (reads 0x2000082803000008 (.ld f0 (opM 4 5 0 0 3 0 8))
      && reads 0x20000628E81FFFFF (.ld f0 (opM 3 5 7 1 0 1 0xFFFFF))
      && reads 0x21000C5004000010 (.st f0 (opM 6 10 0 0 4 0 16))
      && reads 0x2200082802700008 (.amo f0 (opM 4 5 0 0 2 7 8))
      && reads 0x2300082923000000 (.cas f0 (opM 4 5 9 0 3 0 0))
      && reads 0x2400082923000040 (.amobnd f0 (opM 4 5 9 0 3 0 64))
      && reads 0x2500062800000080 (.pref f0 (opM 3 5 0 0 0 0 128))
      && reads 0x2600060000000000 (.ffence f0 (opY 3 0 0))
      && reads 0x2700000000000001 (.drain f0 (opY 0 0 0 0 1))
      && reads 0x2700000000100000 (.drainAll f0 (opY 0 0 0 1))
      && reads 0x2800000000000000 (.ifence f0 (opY 0 0 0))
      && reads 0x2900002800100000 (.biasflipDev f0 (opY 0 5 0 1))) = true := by
  decide

/-- R50, R291: BR.ge, BP on both senses, JMP, JMPR, CALL, CALLR, RET and LOOP. -/
theorem test_words_control :
    (reads 0x3000310000000005 (.br f0 (opC 3 4 0 5))
      && reads 0x310000C000000004 (.bp f0 (opC 0 3 0 4))
      && reads 0x310010C000000004 (.bp f0 (opC 1 3 0 4))
      && reads 0x32000000FFFFFFF0 (.jmp f0 (opC 0 0 0 0xFFFFFFF0))
      && reads 0x3300003800000000 (.jmpr f0 (opY 0 7 0))
      && reads 0x3400000000000040 (.call f0 (opC 0 0 0 64))
      && reads 0x3500003800000000 (.callr f0 (opY 0 7 0))
      && reads 0x3600000000000000 (.ret f0 (opY 0 0 0))
      && reads 0x37000240FFFFFFFD (.loop f0 (opC 0 9 0 0xFFFFFFFD))) = true := by
  decide

/-- R292 to R297: FSET, FADD, FRD, FBIND.p, BAR, RPOP, SQUASH and WAITF.ge. -/
theorem test_words_flags :
    (reads 0x3800061000000000 (.fset f0 (opY 3 2 0))
      && reads 0x3800060000100001 (.fset f0 (opY 3 0 0 1 1))
      && reads 0x39000600001FFFFF (.fadd f0 (opY 3 0 0 1 0xFFFFF))
      && reads 0x3A000A1800000000 (.frd f0 (opY 5 3 0))
      && reads 0x3B000C5000100000 (.fbind f0 (opY 6 10 0 1))
      && reads 0x3C00086000000000 (.barTeam f0 (opY 4 12 0))
      && reads 0x3C00086000300000 (.barPod f0 (opY 4 12 0 3))
      && reads 0x3D000A0000000000 (.rpop f0 (opY 5 0 0))
      && reads 0x3E00000000000001 (.squash f0 (opY 0 0 0 0 1))
      && reads 0x3F00081100000003 (.waitf f0 (opY 4 2 8 0 3))) = true := by
  decide

/-- R298 to R304: SPAWN, FINISH.fail, YIELD, JOINADD, TAGNEW, CANCEL.wait and SELF.tag. -/
theorem test_words_task :
    (reads 0x4000085160100000 (.spawnNb f0 (opY 4 10 11 1))
      && reads 0x4000005160000000 (.spawn f0 (opY 0 10 11))
      && reads 0x4100000000100000 (.finishFail f0 (opY 0 0 0 1))
      && reads 0x4200000000000000 (.yield f0 (opY 0 0 0))
      && reads 0x4300006000000003 (.joinadd f0 (opY 0 12 0 0 3))
      && reads 0x44000A3000000000 (.tagnew f0 (opY 5 6 0))
      && reads 0x4500003000100000 (.cancelWait f0 (opY 0 6 0 1))
      && reads 0x46000A0000100000 (.self f0 (opY 5 0 0 1))) = true := by
  decide

/-- R305 to R309: the slice instructions, SLQUERY.p and the rule instructions. -/
theorem test_words_slice :
    (reads 0x4700085000100002 (.slopenFeed f0 (opY 4 10 0 1 2))
      && reads 0x4800085160000000 (.slpub f0 (opY 4 10 11))
      && reads 0x4B00085160000000 (.slreject f0 (opY 4 10 11))
      && reads 0x4C00085160000000 (.slfork f0 (opY 4 10 11))
      && reads 0x4D00085000000000 (.sldrop f0 (opY 4 10 0))
      && reads 0x4F000A5000100000 (.slquery f0 (opY 5 10 0 1))
      && reads 0x4E00000120000022 (.revoke f0 (opY 0 0 9 0 0x22))
      && reads 0x4E00000000100002 (.resume f0 (opY 0 0 0 1 2))
      && reads 0x4E00000000200002 (.rskip f0 (opY 0 0 0 2 2))
      && reads 0x4E00000000300002 (.rpause f0 (opY 0 0 0 3 2))
      && reads 0x4E000A0000400002 (.rquery f0 (opY 5 0 0 4 2))) = true := by
  decide

/-- R116 to R119, R318 to R320: DLD, DST, DSET, DGET, DADV, SFLUSH.unmap, SDROP, STEPMARK, STEPEND and EDGERD.prev. -/
theorem test_words_descriptor :
    (reads 0x5000085000000040 (.dld f0 (opY 4 10 0 0 64))
      && reads 0x5100085000000040 (.dst f0 (opY 4 10 0 0 64))
      && reads 0x5200083800600000 (.dset f0 (opY 4 7 0 6))
      && reads 0x53000E2000600000 (.dget f0 (opY 7 4 0 6))
      && reads 0x5400080000000001 (.dadv f0 (opY 4 0 0 0 1))
      && reads 0x5500080000100000 (.sflushUnmap f0 (opY 4 0 0 1))
      && reads 0x5600080000000000 (.sdrop f0 (opY 4 0 0))
      && reads 0x5700002000000000 (.stepmark f0 (opY 0 4 0))
      && reads 0x58000A5000000040 (.stepend f0 (opY 5 10 0 0 64))
      && reads 0x59000C28E0200000 (.edgerd f0 (opY 6 5 7 2))) = true := by
  decide

/-- R52, R152 to R169: VADD with tokens, VADD.i16.wrap, VFMA.bf16, VRCP.inst, VCVT, VCMP, VRED, VLD, VST, VTOPK and VNOP. -/
theorem test_words_vector :
    (reads 0x60900C2200000000 (.vadd { f0 with takeL := true, giveR := true } (opV 3 1 2))
      && reads 0x60001CE803801200 (.vadd f0 (opV 7 7 8 0 7 0 0 1 0x200))
      && reads 0x6300102218800000 (.vfma f0 (opV 4 1 2 3 1))
      && reads 0x690818A0010C0000 (.vrcp { f0 with inst := true } (opV 6 5 0 0 2 0 3))
      && reads 0x6E0014C001820000 (.vcvt f0 (opV 5 6 0 0 3 0 0 32))
      && reads 0x6F00082200002600 (.vcmp f0 (opV 2 1 2 0 0 0 0 2 0x600))
      && reads 0x7800082000000000 (.vred f0 (opV 2 1 0))
      && reads 0x81000C0000000002 (.vld f0 (opV 3 0 0 0 0 0 0 0 2))
      && reads 0x8200000300000002 (.vst f0 (opV 0 0 3 0 0 0 0 0 2))
      && reads 0x8700202900000008 (.vtopk f0 (opV 8 1 9 0 0 0 0 0 8))
      && reads 0x8800000000000003 (.vnop f0 (opV 0 0 0 0 0 0 0 0 3))) = true := by
  decide

/-- R53, R133 to R140: MMA, MMA.inst, MZERO, MTBL, MTBL.prod, EPI, EPIRED.max and EPIFN. -/
theorem test_words_matrix :
    (reads 0xA00010A040000001 (.mma f0 (opE 4 5 0 2 0 0 1))
      && reads 0xA00810A040000000 (.mma { f0 with inst := true } (opE 4 5 0 2))
      && reads 0xA1000000A0000000 (.mzero f0 (opE 0 0 0 5))
      && reads 0xA200180060000000 (.mtbl f0 (opE 6 0 0 3))
      && reads 0xA200000000100001 (.mtblProd f0 (opE 0 0 0 0 0 1 1))
      && reads 0xA80018E860007000 (.epi f0 (opE 6 7 8 3 0 0 0x7000))
      && reads 0xA900280020100280 (.epired f0 (opE 10 0 0 1 0 1 0x280))
      && reads 0xAA00240000000000 (.epifn f0 (opE 9 0 0))) = true := by
  decide

/-- R229 to R238: the copies with their channels. -/
theorem test_words_copy :
    (reads 0xB000148004000000 (.cpy f0 (opE 5 4 0 0 1))
      && reads 0xB10018E808000000 (.cpyg f0 (opE 6 7 8 0 2))
      && reads 0xB20018E808000000 (.cpys f0 (opE 6 7 8 0 2))
      && reads 0xB3000D2000000001 (.cpyidx f0 (opE 3 9 0 0 0 0 1))
      && reads 0xB40018000C000000 (.cpyfill f0 (opE 6 0 0 0 3))
      && reads 0xB50000401C000000 (.cpymir f0 (opE 0 2 0 0 7))) = true := by
  decide

/-- R172 to R196: SAQ.p, SAMASK and the Sorus commands. -/
theorem test_words_attention :
    (reads 0xB800314E00003458 (.saq f0 (opE 12 10 14 0 0 0 0x3458))
      && reads 0xB900240000000000 (.samask f0 (opE 9 0 0))
      && reads 0xBC000C0000001012 (.srcfg f0 (opE 3 0 0 0 0 0 0x1012))
      && reads 0xBD00200000000000 (.srabsReg f0 (opE 8 0 0))
      && reads 0xBD08140000100000 (.srabsDesc { f0 with inst := true } (opE 5 0 0 0 0 1))
      && reads 0xBE00000000100205 (.srmergePair f0 (opE 0 0 0 0 0 1 0x205))
      && reads 0xBF00016C00000006 (.srread f0 (opE 0 11 12 0 0 0 6))
      && reads 0xBF001C0000100203 (.srset f0 (opE 7 0 0 0 0 1 0x203))
      && reads 0xBF00000000200001 (.srclr f0 (opE 0 0 0 0 0 2 1))) = true := by
  decide

/-- R54, R372 to R378: TRAP, ERET, CRD, CWR, WFI, BRK, CTXSAVE, CTXLOAD and PERFRD. -/
theorem test_words_system :
    (reads 0xC000000000000123 (.trap f0 (opY 0 0 0 0 0x123))
      && reads 0xC100000000000000 (.eret f0 (opY 0 0 0))
      && reads 0xC2000E0000000008 (.crd f0 (opY 7 0 0 0 8))
      && reads 0xC300002000000005 (.cwr f0 (opY 0 4 0 0 5))
      && reads 0xC400000000000000 (.wfi f0 (opY 0 0 0))
      && reads 0xC500000000000007 (.brk f0 (opY 0 0 0 0 7))
      && reads 0xC600005000000000 (.ctxsave f0 (opY 0 10 0))
      && reads 0xC700005000000000 (.ctxload f0 (opY 0 10 0))
      && reads 0xC8000A0000000041 (.perfrd f0 (opY 5 0 0 0 0x41))) = true := by
  decide

/-- R61: words that no instruction has are refused by the check that they fail: an fn and an opcode that no table lists; a
reserved width, condition, size, amo code, type and rounding. -/
theorem test_words_refused :
    ([0xBF00000000300000, 0xFF00000000000000, 0x4600000000500000].all (refuses .illegalOpcode)
      && [0x0100000000040000, 0x3000700000000000, 0x2200000000000000, 0x2200000002900000, 0x6000000002800000,
          0x6000000000500000].all (refuses .illegalField)) = true := by decide

/-! ### Ill-formed terms, one or more for each check -/

/-- Each of the instructions fails the check, and so is not well formed. -/
def refused (check : Instr → Bool) (l : List Instr) : Bool := l.all fun i => !check i && !wellFormed i

/-- R73 to R77: selector bits that name another form. -/
theorem test_selOk_refuses : refused selOk [
      .clz f0 (opA 0 0 0 3 0), .ctz f0 (opA 0 0 0 3 0), .popc f0 (opA 0 0 0 3 0), .brev f0 (opA 0 0 0 0 0),
      .bswap f0 (opA 0 0 0 3 0), .pand f0 (opA 0 0 0 3 0), .por f0 (opA 0 0 0 3 0), .pxor f0 (opA 0 0 0 3 0),
      .pnot f0 (opA 0 0 0 0 0), .andi f0 (opI 0 0 3 false 0), .ori f0 (opI 0 0 3 false 0),
      .xori f0 (opI 0 0 3 false 0), .shli f0 (opI 0 0 0 false 768), .shri f0 (opI 0 0 0 false 768),
      .srai f0 (opI 0 0 0 false 768), .li f0 (opI 0 2 0 false 0), .lih f0 (opI 0 2 0 false 0),
      .drain f0 (opY 0 0 0 3 0), .drainAll f0 (opY 0 0 0 3 0), .biasflipHost f0 (opY 0 0 0 3 0),
      .biasflipDev f0 (opY 0 0 0 3 0), .fbind f0 (opY 0 0 0 3 0), .fbindNone f0 (opY 0 0 0 0 0),
      .barTeam f0 (opY 0 0 0 3 0), .barDie f0 (opY 0 0 0 3 0), .barPkg f0 (opY 0 0 0 3 0), .barPod f0 (opY 0 0 0 0 0),
      .spawn f0 (opY 0 0 0 3 0), .spawnNb f0 (opY 0 0 0 3 0), .finish f0 (opY 0 0 0 3 0),
      .finishFail f0 (opY 0 0 0 3 0), .tagnew f0 (opY 0 0 0 3 0), .tagnewRoot f0 (opY 0 0 0 3 0),
      .cancel f0 (opY 0 0 0 3 0), .cancelWait f0 (opY 0 0 0 3 0), .slopen f0 (opY 0 0 0 3 0),
      .slopenFeed f0 (opY 0 0 0 3 0), .revoke f0 (opY 0 0 0 3 0), .resume f0 (opY 0 0 0 3 0),
      .rskip f0 (opY 0 0 0 3 0), .rpause f0 (opY 0 0 0 0 0), .rquery f0 (opY 0 0 0 3 0), .sflush f0 (opY 0 0 0 3 0),
      .sflushUnmap f0 (opY 0 0 0 3 0), .mtbl f0 (opE 0 0 0 0 0 3 0), .mtblProd f0 (opE 0 0 0 0 0 3 0),
      .srabsReg f0 (opE 0 0 0 0 0 3 0), .srabsDesc f0 (opE 0 0 0 0 0 3 0), .srmerge f0 (opE 0 0 0 0 0 3 0),
      .srmergePair f0 (opE 0 0 0 0 0 3 0), .srread f0 (opE 0 0 0 0 0 3 0), .srset f0 (opE 0 0 0 0 0 3 0),
      .srclr f0 (opE 0 0 0 0 0 3 0)] = true := by decide

/-- R61, R73, R76 to R78: a sub-operation that no table lists. -/
theorem test_fnOk_refuses : refused fnOk [
      .mulh f0 (opA 0 0 0 2 0), .div f0 (opA 0 0 0 2 0), .rem f0 (opA 0 0 0 2 0), .min f0 (opA 0 0 0 2 0),
      .max f0 (opA 0 0 0 2 0), .fset f0 (opY 0 0 0 2 0), .fadd f0 (opY 0 0 0 2 0), .frd f0 (opY 0 0 0 1 0),
      .waitf f0 (opY 0 0 0 4 0), .self f0 (opY 0 0 0 5 0), .slpub f0 (opY 0 0 0 1 0), .sltent f0 (opY 0 0 0 1 0),
      .slcommit f0 (opY 0 0 0 1 0), .slreject f0 (opY 0 0 0 1 0), .slfork f0 (opY 0 0 0 1 0),
      .sldrop f0 (opY 0 0 0 1 0), .slquery f0 (opY 0 0 0 9 0), .dset f0 (opY 0 0 0 25 0), .dget f0 (opY 0 0 0 25 0),
      .edgerd f0 (opY 0 0 0 4 0), .vadd f0 (opV 0 0 0 0 0 0 0 2 0), .vsub f0 (opV 0 0 0 0 0 0 0 2 0),
      .vmul f0 (opV 0 0 0 0 0 0 0 2 0), .vabs f0 (opV 0 0 0 0 0 0 0 2 0), .vneg f0 (opV 0 0 0 0 0 0 0 2 0),
      .vcvt f0 (opV 0 0 0 0 0 0 0 5 0), .vcmp f0 (opV 0 0 0 0 0 0 0 6 0), .vshl f0 (opV 0 0 0 0 0 0 0 2 0),
      .vshr f0 (opV 0 0 0 0 0 0 0 2 0), .vsra f0 (opV 0 0 0 0 0 0 0 2 0), .vmov f0 (opV 0 0 0 0 0 0 0 2 0)] = true := by decide

/-- The same, for the vector engine. -/
theorem test_fnOk_refuses_vector : refused fnOk [
      .vred f0 (opV 0 0 0 0 0 0 0 6 0), .vscan f0 (opV 0 0 0 0 0 0 0 3 0), .kop f0 (opV 0 0 0 0 0 0 0 5 0),
      .vfma f0 (opV 0 0 0 0 0 0 0 1 0), .vfms f0 (opV 0 0 0 0 0 0 0 1 0), .vmin f0 (opV 0 0 0 0 0 0 0 1 0),
      .vmax f0 (opV 0 0 0 0 0 0 0 1 0), .vrcp f0 (opV 0 0 0 0 0 0 0 1 0), .vrsqrt f0 (opV 0 0 0 0 0 0 0 1 0),
      .vsqrt f0 (opV 0 0 0 0 0 0 0 1 0), .vexp2 f0 (opV 0 0 0 0 0 0 0 1 0), .vlog2 f0 (opV 0 0 0 0 0 0 0 1 0),
      .vsel f0 (opV 0 0 0 0 0 0 0 1 0), .vand f0 (opV 0 0 0 0 0 0 0 1 0), .vor f0 (opV 0 0 0 0 0 0 0 1 0),
      .vxor f0 (opV 0 0 0 0 0 0 0 1 0), .vperm f0 (opV 0 0 0 0 0 0 0 1 0), .vbcast f0 (opV 0 0 0 0 0 0 0 1 0),
      .viota f0 (opV 0 0 0 0 0 0 0 1 0), .vins f0 (opV 0 0 0 0 0 0 0 1 0), .vext f0 (opV 0 0 0 0 0 0 0 1 0),
      .kpopc f0 (opV 0 0 0 0 0 0 0 1 0), .vld f0 (opV 0 0 0 0 0 0 0 1 0), .vst f0 (opV 0 0 0 0 0 0 0 1 0),
      .vldg f0 (opV 0 0 0 0 0 0 0 1 0), .vsts f0 (opV 0 0 0 0 0 0 0 1 0), .vshort f0 (opV 0 0 0 0 0 0 0 1 0),
      .vrand f0 (opV 0 0 0 0 0 0 0 1 0), .vtopk f0 (opV 0 0 0 0 0 0 0 1 0), .vnop f0 (opV 0 0 0 0 0 0 0 1 0),
      .epired f0 (opE 0 0 0 0 0 4 0)] = true := by decide

/-- R61, R79 to R81, R151: a reserved code in a field that the form uses. -/
theorem test_fieldOk_refuses_first : refused fieldOk [
      .add f0 (opA 0 0 0 0 2), .sub f0 (opA 0 0 0 0 2), .mul f0 (opA 0 0 0 0 2), .mulh f0 (opA 0 0 0 0 2),
      .div f0 (opA 0 0 0 0 2), .rem f0 (opA 0 0 0 0 2), .and f0 (opA 0 0 0 0 2), .or f0 (opA 0 0 0 0 2),
      .xor f0 (opA 0 0 0 0 2), .andn f0 (opA 0 0 0 0 2), .shl f0 (opA 0 0 0 0 2), .shr f0 (opA 0 0 0 0 2),
      .sra f0 (opA 0 0 0 0 2), .ror f0 (opA 0 0 0 0 2), .min f0 (opA 0 0 0 0 2), .max f0 (opA 0 0 0 0 2),
      .clz f0 (opA 0 0 0 0 2), .ctz f0 (opA 0 0 0 0 2), .popc f0 (opA 0 0 0 0 2), .brev f0 (opA 0 0 0 0 2),
      .bswap f0 (opA 0 0 0 0 2), .sel f0 (opA 0 0 0 0 2), .setc f0 (opA 0 0 0 0 2), .setc f0 (opA 0 0 0 7 0),
      .cmp f0 (opC 7 0 0 0), .pand f0 (opA 0 0 0 0 2), .por f0 (opA 0 0 0 0 2), .pxor f0 (opA 0 0 0 0 2),
      .pnot f0 (opA 0 0 0 0 2), .addi f0 (opI 0 0 2 false 0), .shli f0 (opI 0 0 2 false 0),
      .shri f0 (opI 0 0 2 false 256), .srai f0 (opI 0 0 2 false 512), .li f0 (opI 0 0 2 false 0),
      .lih f0 (opI 0 1 2 false 0), .ld f0 (opM 0 0 0 0 5 0 0), .ld f0 (opM 0 0 0 0 0 2 0), .st f0 (opM 0 0 0 0 5 0 0),
      .st f0 (opM 0 0 0 0 0 1 0), .amo f0 (opM 0 0 0 0 4 0 0), .amo f0 (opM 0 0 0 0 2 9 0), .amo f0 (opM 0 0 0 0 1 0 0)] = true := by decide

/-- R61, R79 to R81, R151: the same, for the vector forms. -/
theorem test_fieldOk_refuses_second : refused fieldOk [
      .cas f0 (opM 0 0 0 0 5 0 0), .cas f0 (opM 0 0 0 0 2 1 0), .cas f0 (opM 0 0 0 0 1 0 0),
      .amobnd f0 (opM 0 0 0 0 4 0 0), .amobnd f0 (opM 0 0 0 0 2 1 0), .amobnd f0 (opM 0 0 0 0 1 0 0),
      .br f0 (opC 7 0 0 0), .bp f0 (opC 2 0 0 0), .vadd f0 (opV 0 0 0 0 0 5 0 0 0), .vadd f0 (opV 0 0 0 0 3 0 0 0 0),
      .vsub f0 (opV 0 0 0 0 0 5 0 0 0), .vsub f0 (opV 0 0 0 0 3 0 0 0 0), .vmul f0 (opV 0 0 0 0 0 5 0 0 0),
      .vmul f0 (opV 0 0 0 0 3 0 0 0 0), .vfma f0 (opV 0 0 0 0 0 5 0 0 0), .vfma f0 (opV 0 0 0 0 6 0 0 0 0),
      .vfms f0 (opV 0 0 0 0 0 5 0 0 0), .vfms f0 (opV 0 0 0 0 6 0 0 0 0), .vmin f0 (opV 0 0 0 0 0 5 0 0 0),
      .vmin f0 (opV 0 0 0 0 3 0 0 0 0), .vmax f0 (opV 0 0 0 0 0 5 0 0 0), .vmax f0 (opV 0 0 0 0 3 0 0 0 0),
      .vabs f0 (opV 0 0 0 0 0 5 0 0 0), .vabs f0 (opV 0 0 0 0 9 0 0 0 0), .vneg f0 (opV 0 0 0 0 0 5 0 0 0),
      .vneg f0 (opV 0 0 0 0 9 0 0 0 0), .vrcp f0 (opV 0 0 0 0 0 5 0 0 0), .vrcp f0 (opV 0 0 0 0 6 0 0 0 0),
      .vrsqrt f0 (opV 0 0 0 0 0 5 0 0 0), .vrsqrt f0 (opV 0 0 0 0 6 0 0 0 0), .vsqrt f0 (opV 0 0 0 0 0 5 0 0 0),
      .vsqrt f0 (opV 0 0 0 0 6 0 0 0 0), .vexp2 f0 (opV 0 0 0 0 0 5 0 0 0), .vexp2 f0 (opV 0 0 0 0 6 0 0 0 0),
      .vlog2 f0 (opV 0 0 0 0 0 5 0 0 0), .vlog2 f0 (opV 0 0 0 0 6 0 0 0 0), .vcvt f0 (opV 0 0 0 0 0 5 0 0 0),
      .vcvt f0 (opV 0 0 0 0 5 0 0 0 0), .vcmp f0 (opV 0 0 0 0 0 5 0 0 0), .vcmp f0 (opV 0 0 0 0 5 0 0 0 0),
      .vsel f0 (opV 0 0 0 0 0 5 0 0 0), .vand f0 (opV 0 0 0 0 0 5 0 0 0)] = true := by decide

/-- R61, R79 to R81, R151: the same, for the rest. -/
theorem test_fieldOk_refuses_third : refused fieldOk [
      .vor f0 (opV 0 0 0 0 0 5 0 0 0), .vxor f0 (opV 0 0 0 0 0 5 0 0 0), .vshl f0 (opV 0 0 0 0 6 5 0 0 0),
      .vshl f0 (opV 0 0 0 0 0 0 0 0 0), .vshr f0 (opV 0 0 0 0 6 5 0 0 0), .vshr f0 (opV 0 0 0 0 0 0 0 0 0),
      .vsra f0 (opV 0 0 0 0 6 5 0 0 0), .vsra f0 (opV 0 0 0 0 0 0 0 0 0), .vmov f0 (opV 0 0 0 0 0 5 0 0 0),
      .vmov f0 (opV 0 0 0 0 5 0 0 0 0), .vmov f0 (opV 0 0 0 0 0 0 0 1 0), .vred f0 (opV 0 0 0 0 0 5 0 0 0),
      .vred f0 (opV 0 0 0 0 5 0 0 0 0), .vred f0 (opV 0 0 0 0 0 0 0 3 0), .vscan f0 (opV 0 0 0 0 0 5 0 0 0),
      .vscan f0 (opV 0 0 0 0 3 0 0 0 0), .vperm f0 (opV 0 0 0 0 0 5 0 0 0), .vbcast f0 (opV 0 0 0 0 0 5 0 0 0),
      .vbcast f0 (opV 0 0 0 0 5 0 0 0 0), .viota f0 (opV 0 0 0 0 6 5 0 0 0), .viota f0 (opV 0 0 0 0 0 0 0 0 0),
      .vins f0 (opV 0 0 0 0 0 5 0 0 0), .vins f0 (opV 0 0 0 0 5 0 0 0 0), .vext f0 (opV 0 0 0 0 0 5 0 0 0),
      .vext f0 (opV 0 0 0 0 5 0 0 0 0), .kop f0 (opV 0 0 0 0 0 5 0 0 0), .kpopc f0 (opV 0 0 0 0 0 5 0 0 0),
      .vld f0 (opV 0 0 0 0 0 5 0 0 0), .vst f0 (opV 0 0 0 0 0 5 0 0 0), .vldg f0 (opV 0 0 0 0 0 5 0 0 0),
      .vsts f0 (opV 0 0 0 0 0 5 0 0 0), .vshort f0 (opV 0 0 0 0 0 5 0 0 0), .vshort f0 (opV 0 0 0 0 2 0 0 0 0),
      .vrand f0 (opV 0 0 0 0 0 5 0 0 0), .vrand f0 (opV 0 0 0 0 1 0 0 0 0), .vtopk f0 (opV 0 0 0 0 0 5 0 0 0),
      .vtopk f0 (opV 0 0 0 0 1 0 0 0 0), .vnop f0 (opV 0 0 0 0 0 5 0 0 0), .epi f0 (opE 0 0 0 0 0 0 0x28000),
      .epired f0 (opE 0 0 0 0 0 0 0x28000), .saq f0 (opE 0 0 0 0 0 0 0xC0000)] = true := by decide

/-- Numbers of cores, queues and ports beyond the machine. -/
theorem test_eventOk_refuses_cores : refused eventOk [
      .bundleIssue 160, .headerWait 160, .tokenDeadlock 160, .perform 160, .asyncTrapTaken 160, .waitfTimeout 160,
      .waitRelease 160, .wfiWake 160, .pop 160, .contextRestore 160, .timeSlice 160, .hardwareSave 160, .spawnFull 160,
      .spawnRetry 160, .cancelRunStop 160, .saqComplete 160, .stage2Fault 160, .coreFailure 160, .coreFence 160,
      .coreRelease 160, .powerClamp 160 0, .preciseStopArm 160 0, .preciseStop 160, .preciseStopRelease 160,
      .loadReturn 160 0, .commandIssue 160 0, .commandIssue 0 6, .commandRetire 160 1, .commandRetire 0 0,
      .commandRetire 0 7, .commandRetire 0 16, .tokenGiveGranted 160 0, .tokenGiveGranted 0 6, .windowFill 160 0,
      .windowFill 0 65536, .windowWriteback 160 0, .windowWriteback 0 65536, .operandFetch 160 0, .operandFetch 0 9,
      .streamFault 160 0, .streamFault 0 9, .deliver 160 0 .lost, .deliver 0 4098 .lost, .firing 160 0, .firing 0 6] = true := by decide

/-- Numbers of functions, queues, packages and links beyond the machine. -/
theorem test_eventOk_refuses_package : refused eventOk [
      .firingRetire 160 0, .firingRetire 0 6, .trapEntry 160 { cause := 0, eslot := 0, einfo := 0 },
      .lauterMerge 160 0 0 0, .lauterMerge 0 64 0 0, .access 160 1 false 0, .access 0 7 false 0, .doorbell 1024 0,
      .launch 1024, .fence 1024, .fenceEvaluate 1024, .signal 1024, .copy 1024, .mark 1024,
      .sqStateWrite 1024 { ring := 0, lgsize := 4, vector := 0, run := false },
      .taskQueueEntryWrite 64 0 { ring := 0, lgsize := 4, prio := 0, enabled := false, preempt := false, stagemask := 0, coremask := 0 },
      .taskQueueEntryWrite 0 256 { ring := 0, lgsize := 4, prio := 0, enabled := false, preempt := false, stagemask := 0, coremask := 0 },
      .preemption 256, .cancelSweep 256, .podCancel 64 0, .tagRelease 65536, .podBarrierArrival 0 { pkg := 4096 },
      .functionContextWrite 64 {}, .functionDisable 64, .functionEnable 64, .queueAssignment (.taskQueue 256) 0,
      .queueAssignment (.taskQueue 0) 64, .queueAssignment (.subQueue 1024) 0, .queueAssignment (.subQueue 0) 64,
      .queueAssignment (.cxlMem 0 0) 64, .functionReset 64, .exportTableWrite 64 0 {}, .exportTableWrite 0 512 {},
      .targetDown 4096, .targetUp 4096 0, .flitReplay 24, .portLaneLoss 24 false, .routeLossTimeout 4096,
      .podTableWrite 4096 true 0 0, .podTableWrite 0 true 0 24, .expanderFailure 4,
      .farRequest { source := 4096, inc := 0, tkey := 0, offset := 0, size := 8, kind := .read, poison := false },
      .hostAccess { link := 2, vf := 0, cxl := false, offset := 0, size := 8, kind := .read, poison := false },
      .hostAccess { link := 0, vf := 64, cxl := false, offset := 0, size := 8, kind := .read, poison := false }] = true := by decide

/-! ### States and operands for the witnesses -/

/-- A predicate that is false: p1, which holds 0 at reset. -/
def f1 : Frame := { f0 with pred := 1 }

/-- A state whose bundle in issue reads these registers, in slot 3, on core 0. -/
def reading3 (r : Regs) : State := { State.reset with ctx := { old := r, slot := 3 } }

/-- Core 0 with this contents, reset otherwise. -/
def withCore (k : Core) : State := { State.reset with cores := [(0, k)] }

/-- A state whose lowest 4 TiB are mapped as cacheable memory, and whose bundle in issue reads these registers. -/
def mapped (r : Regs) : State :=
  let s := placeWord State.reset 0
  let leaf := toBytes 8 (0xFF0000000000001F : W64)
  { s with mem := pokeBytes (pokeBytes s.mem 0x20000 leaf) 0x40000 leaf, ctx := { old := r }, agenda := [] }

/-- Core 0 with a trap vector at 0x40. -/
def vectored : Core := { regs := { cr := { tvec := 0x40 } } }

/-- An access reaches its pages, as a computation. -/
def reaches (s : State) (kind : AccKind) (ea size : Nat) (rd wr : Bool) : Bool :=
  (pageStarts ea size).all fun a => match translate s (vmid (cc s)) (asidOf s (oldCore s)) a rd wr false [0] with
    | .ok t => decide (targetBlock s kind ea size t = none)
    | _ => false

theorem accessible_of {s : State} {kind : AccKind} {ea size : Nat} {rd wr : Bool} (h : reaches s kind ea size rd wr = true) :
    Accessible s kind ea size rd wr := by
  intro a ha
  have := List.all_eq_true.mp h a ha
  revert this
  cases translate s (vmid (cc s)) (asidOf s (oldCore s)) a rd wr false [0] with
  | ok t => intro q; exact ⟨t, rfl, of_decide_eq_true q⟩
  | _ => intro q; cases q

/-- A block is named, as a computation. -/
def reachesBlock (s : State) (va : W64) (align : Nat) (types : Nat → Bool) (rd wr : Bool) : Bool :=
  match translate s (vmid (cc s)) (asidOf s (oldCore s)) va.toNat rd wr false [0] with
  | .ok t => decide (va.toNat % align = 0) && isPackageMem s t.pa && types t.mtype
  | _ => false

theorem names_of {s : State} {va : W64} {align : Nat} {types : Nat → Bool} {rd wr : Bool}
    (h : reachesBlock s va align types rd wr = true) : ∃ t, Names s va align types rd wr t := by
  unfold reachesBlock at h
  unfold Names
  cases e : translate s (vmid (cc s)) (asidOf s (oldCore s)) va.toNat rd wr false [0] with
  | ok t =>
    simp only [e, Bool.and_eq_true, decide_eq_true_eq] at h
    exact ⟨t, h.1.1, rfl, h.1.2, h.2⟩
  | _ => simp [e] at h

/-- A record is named, as a computation. -/
def reachesRecord (s : State) (va : W64) (types : Nat → Bool) : Bool :=
  match translate s (vmid (cc s)) (asidOf s (oldCore s)) va.toNat false false false [0] with
  | .ok t => decide (va.toNat % 256 = 0) && isPackageMem s t.pa && types t.mtype
      && decide ((getOT s t.pa).st = 0 ∨ (getOT s t.pa).vf = vmid (cc s))
  | _ => false

theorem namesRecord_of {s : State} {va : W64} {types : Nat → Bool} (h : reachesRecord s va types = true) :
    NamesRecord s va types := by
  unfold reachesRecord at h
  unfold NamesRecord Names
  cases e : translate s (vmid (cc s)) (asidOf s (oldCore s)) va.toNat false false false [0] with
  | ok t =>
    simp only [e, Bool.and_eq_true, decide_eq_true_eq] at h
    exact ⟨t, ⟨h.1.1.1, rfl, h.1.1.2, h.1.2⟩, h.2⟩
  | _ => simp [e] at h

/-! ### The hypotheses of the statements are met: scalar instructions -/

/-- s6 is 10 and s7 is 2^32: 0 on 32 bits and not on 64. -/
def sDiv : State := { withCore vectored with ctx := { old := { s := [(6, 10), (7, 0x100000000)] }, slot := 3 } }

theorem witness_ScalarArithmetic : predOk sDiv f0 = true ∧ asNatural (opWidth 0) (srcS sDiv 7) ≠ 0 := by decide

theorem witness_ScalarLogicAndShifts : predOk sDiv f0 = true ∧ predOk sDiv { f1 with pneg := true } = true := by decide

theorem witness_BitGroup : predOk sDiv f0 = true := by decide

theorem witness_SelectCompareAndPredicates : predOk sDiv f0 = true := by decide

theorem witness_ImmediatesAndAddresses : predOk sDiv f0 = true := by decide

/-- A zero divisor on 32 bits, and addresses one byte off. -/
theorem witness_IssueTraps :
    let m := opM 4 6 0 0 2 0 0xFFFFF
    predOk sDiv f0 = true ∧ HasVector sDiv ∧ asNatural (opWidth 1) (srcS sDiv 7) = 0
    ∧ (effective (srcS sDiv m.base) (srcS sDiv m.index) m.scale.toNat (m.disp.signExtend 64)).toNat % 2 ^ m.size.toNat ≠ 0
    ∧ (srcS sDiv m.base + m.disp.signExtend 64).toNat % 2 ^ m.size.toNat ≠ 0 := by
  unfold HasVector; decide

/-- Loads and stores of an address that no table maps, and of one that a leaf does not let them reach. -/
theorem witness_IssueTraps_pages :
    let r : Regs := { cr := { tvec := 0x40 }, s := [(6, 0x40000000000), (7, 0x98000)] }
    let s := { mapped r with cores := [(0, { regs := r })] }
    let shut := { s with mem := pokeBytes s.mem 0x40000 [0x13] }
    let at_ := fun (s : State) (a : BitVec 6) (wr : Bool) => translate s 0 0 (srcS s a).toNat (!wr) wr false
    let faults := fun (x : Xl) => match x with
      | .fault _ _ => true
      | _ => false
    predOk s f0 = true ∧ HasVector s ∧ (srcS s 6).toNat % 65536 + 8 ≤ 65536
    ∧ faults (at_ s 6 false [0]) = true ∧ faults (at_ s 6 true [0]) = true
    ∧ faults (at_ s 6 false []) = true ∧ faults (at_ s 6 true []) = true
    ∧ (srcS shut 7).toNat % 65536 + 8 ≤ 65536 ∧ faults (at_ shut 7 false [0]) = true ∧ faults (at_ shut 7 true [0]) = true := by
  unfold HasVector; decide +kernel

theorem witness_NothingDone :
    let p := { State.reset with ctx := { old := { cr := { status := 1 } } } }
    State.reset.ctx.slot ≠ 3 ∧ predOk State.reset f1 = false ∧ predOk p f1 = false ∧ Supervisor p := by
  unfold Supervisor; decide

/-- Both outcomes of BR and BP, and targets that are and are not a bundle's address. -/
theorem witness_ControlTransfers :
    predOk sDiv f0 = true ∧ sDiv.ctx.slot = 3 ∧ condHolds 0 (srcS sDiv 6) (srcS sDiv 6) = true
    ∧ condHolds 0 (srcS sDiv 6) (srcS sDiv 7) = false ∧ (srcS sDiv 7).toNat = (srcS sDiv 7).toNat / 32 % 2 ^ 50 * 32
    ∧ (srcS sDiv 6).toNat ≠ (srcS sDiv 6).toNat / 32 % 2 ^ 50 * 32 := by decide

/-- s5 is 4 bytes below a page's end, s6 a page's last 64 bytes. -/
def sMem : State := mapped { s := [(5, 0x1FFFC), (6, 0x1FFC0)] }

/-- A load over two pages, a store of 16 bytes, and atomics and a descriptor at the end of a page. -/
theorem witness_MemoryAccessesIssue :
    predOk sMem f0 = true ∧ Accessible sMem (.ld false) 0x1FFFC 8 true false ∧ Accessible sMem .st 0x1FFC0 16 false true
    ∧ Accessible sMem (.amo 7) 0x1FFFC 4 true true ∧ 0x1FFFC % 4 = 0 ∧ Accessible sMem .cas 0x1FFC0 16 true true
    ∧ 0x1FFC0 % 16 = 0 ∧ Accessible sMem .bnd 0x1FFFC 4 true true ∧ Accessible sMem .dld 0x1FFC0 64 true false
    ∧ 0x1FFC0 % 64 = 0 ∧ Accessible sMem .dst 0x1FFC0 64 false true
    ∧ (effective (srcS sMem 5) (srcS sMem 0) 0 0).toNat = 0x1FFFC ∧ (srcS sMem 6 + (0 : BitVec 20).signExtend 64).toNat = 0x1FFC0 :=
  ⟨by decide, accessible_of (by decide), accessible_of (by decide), accessible_of (by decide), by decide,
   accessible_of (by decide), by decide, accessible_of (by decide), accessible_of (by decide), by decide,
   accessible_of (by decide), by decide, by decide⟩

theorem witness_WaitsFencesAndFlagsIssue : predOk sMem f0 = true := by decide

/-- s8 is a record's address, s9 a join block's; d4 is a plain tile. -/
def sBlk : State := mapped { s := [(8, 0x50100), (9, 0x50080)], d := [(4, 0x1000000000000000)] }

theorem witness_ChecksThenIssue :
    predOk sBlk f0 = true ∧ NamesRecord sBlk (srcS sBlk 8) (fun _ => true)
    ∧ (∃ t, Names sBlk (srcS sBlk 9 + (0x40 : BitVec 20).signExtend 64) 64 (fun m => decide (m ≠ 2)) true false t)
    ∧ Accessible sBlk .dld 0x50080 64 true false ∧ (srcS sBlk 9 + (0 : BitVec 20).signExtend 64).toNat = 0x50080
    ∧ (∃ t, Names sBlk (srcS sBlk 9) 128 (fun m => decide (m ≠ 2)) true true t)
    ∧ Accessible sBlk .dst 0x500A0 32 false true ∧ (srcS sBlk 9 + (0x20 : BitVec 20).signExtend 64).toNat = 0x500A0
    ∧ dKind (srcD sBlk 4) = 1 :=
  ⟨by decide, namesRecord_of (by decide), names_of (by decide), accessible_of (by decide), by decide, names_of (by decide),
   accessible_of (by decide), by decide, by decide +kernel⟩

theorem witness_SliceInstructionsIssue :
    predOk sBlk f0 = true ∧ (∃ t, Names sBlk (srcS sBlk 8) 256 cacheable false false t)
    ∧ NamesRecord sBlk (srcS sBlk 8) cacheable :=
  ⟨by decide, names_of (by decide), namesRecord_of (by decide)⟩

theorem witness_FinishIssues : predOk State.reset f0 = true := by decide

/-- A good entry, a poisoned one, one that AXQ has pushed in this cycle, and an empty queue. -/
theorem witness_ReplyPop :
    let e : RqEntry := { val := { bits := 7 } }
    let b : RqEntry := { val := { bits := 7, poison := true } }
    let n : RqEntry := { val := { bits := 7 }, axq := some 0 }
    let s := withCore { rq := [e] }
    let t := withCore { rq := [b] }
    let u := withCore { rq := [n, e] }
    predOk s f0 = true ∧ (cc s).pops = [] ∧ (cc s).rq = [e] ∧ e.val.poison = false
    ∧ predOk t f0 = true ∧ (cc t).pops = [] ∧ (cc t).rq = [b] ∧ b.val.poison = true
    ∧ e.axq ≠ some s.now ∧ b.axq ≠ some t.now ∧ (cc u).rq = [n, e] ∧ (cc u).pops = [] ∧ n.axq = some u.now
    ∧ predOk State.reset f0 = true ∧ (cc State.reset).rq = [] := by decide

theorem witness_DescriptorFields : predOk sBlk f0 = true := by decide

theorem witness_SelfAndRuleQuery : predOk State.reset f0 = true := by decide

/-- Core 0 with rule slot 2 in this state, its cursor at 5. -/
def ruled (st : RuleSt) : State := withCore { rules := [(2, { st := st, cursor := 5 })] }

/-- Each state of a rule slot, and a REVOKE from a slice above the cursor, at it, and without one. -/
theorem witness_RuleControl :
    let here := fun (st : RuleSt) => predOk (ruled st) f0 = true ∧ (getRule (cc (ruled st)) 2).st = st
    let later := fun (o : OpY) (s : State) => o.imm.getLsbD 5 = true ∧ (getRule (cc s) 2).cursor < (srcS s o.z).toNat % 2 ^ 40
    let s6 : State := { ruled .firing with ctx := { old := { s := [(9, 6)] } } }
    let s5 : State := { ruled .firing with ctx := { old := { s := [(9, 5)] } } }
    predOk State.reset f0 = true ∧ (getRule (cc State.reset) 2).st = .free ∧ here .revoked ∧ here .armed ∧ here .firing
    ∧ here .faulted ∧ here .paused ∧ later (opY 0 0 9 0 0x22) s6 ∧ ¬ later (opY 0 0 9 0 0x22) s5 ∧ ¬ later (opY 0 0 9 0 2) s6
    ∧ (getRule (cc s5) 2).pend ≠ .revoke := by decide

/-- Core 0 at supervisor level, with a trap vector. -/
def sup : State :=
  { withCore { regs := { cr := { status := 1, tvec := 0x40 } } } with ctx := { old := { cr := { status := 1, tvec := 0x40 } } } }

/-- The first and last indices of each kind, and one that is unlisted. -/
theorem witness_ControlRegisterRead :
    predOk State.reset f0 = true ∧ predOk sup f0 = true ∧ Supervisor sup ∧ (opY 5 0 0 0 0x28).imm.toNat % 4096 = 0x28
    ∧ (opY 5 0 0 0 6).imm.toNat % 4096 = 6 ∧ (opY 5 0 0 0 0x20).imm.toNat % 4096 = 0x20
    ∧ (opY 5 0 0 0 0xFFF).imm.toNat % 4096 = 0xFFF := by
  unfold Supervisor; decide

theorem witness_ControlRegisterWrite :
    predOk State.reset f0 = true ∧ predOk sup f0 = true ∧ Supervisor sup ∧ (opY 0 4 0 0 0x19).imm.toNat % 4096 = 0x19
    ∧ (opY 0 4 0 0 0x28).imm.toNat % 4096 = 0x28 ∧ (opY 0 4 0 0 7).imm.toNat % 4096 = 7 := by
  unfold Supervisor; decide

/-- Counters 0, 19, 20, 63, 64, 70 and 71: where listed ranges begin and end. -/
theorem witness_CounterRead :
    predOk State.reset f0 = true ∧ predOk sup f0 = true ∧ Supervisor sup
    ∧ ([0, 19, 64, 70].all fun n => decide (n < 20 ∨ (64 ≤ n ∧ n ≤ 70)))
    ∧ ([20, 63, 71, 255].all fun n => !decide (n < 20 ∨ (64 ≤ n ∧ n ≤ 70))) := by
  unfold Supervisor; decide

theorem witness_PrivilegeTraps :
    ¬ Supervisor (withCore vectored) ∧ HasVector (withCore vectored) ∧ predOk (withCore vectored) f0 = true
    ∧ 64 ≤ (opY 5 0 0 0 64).imm.toNat % 256 ∧ (opY 5 0 0 0 6).imm.toNat % 4096 ∈ [1, 2, 3, 4, 5, 6]
    ∧ (opY 0 5 0 0 0x28).imm.toNat % 4096 ∈ [0x00, 0x10, 0x22, 0x28] := by
  unfold Supervisor HasVector; decide

theorem witness_BreakAndTrap :
    predOk (withCore vectored) f0 = true ∧ HasVector (withCore vectored) ∧ predOk State.reset f0 = true
    ∧ ¬ HasVector State.reset := by
  unfold HasVector; decide

/-! ### Queue-routed slots and the engines -/

/-- A descriptor of f32 elements: kind, base, three dimensions and strides, and the bits of further fields. -/
def tile (kind base d0 d1 d2 s0 s1 s2 : Nat) (more : Nat := 0) : W512 :=
  BitVec.ofNat 512 (base + kind * 2 ^ 60 + d0 * 2 ^ 64 + d1 * 2 ^ 80 + d2 * 2 ^ 96 + s0 * 2 ^ 128 + s1 * 2 ^ 160 + s2 * 2 ^ 192
    + more)

/-- 4 × 4 elements in memory. -/
def tileM : W512 := tile 1 0x60000 4 4 1 4 16 64
/-- 4 × 4 elements of slice after slice of the record at 0x50100. -/
def tileO : W512 := tile 3 0 4 4 1 4 16 64 (2 ^ 116 + 2 * 2 ^ 117 + 0x50100 * 2 ^ 448)

/-- A live record of two slices with its page at 0x80000. -/
def openRec : OT :=
  { st := 1, root := 0x70000, c := 2, p := 2, t := 2, q := 2, slicebytes := 64, spp := 1024, sdim0 := 4, sdim1 := 4, sdim2 := 1,
    pages := 1 }

/-- The state with that record, and registers d4 (memory) and d6 (open); the bundle in issue has a word. -/
def opened (w : W64) : State :=
  let s := mapped { d := [(4, tileM), (6, tileO)] }
  { s with mem := pokeBytes s.mem 0x70000 (toBytes 8 (leafEnt 0x80000 false)), ots := [(0x50100, openRec)],
           ctx := { s.ctx with word := w } }

/-- An instruction's own word, with the frame that installs. -/
def fi : Frame := { f0 with inst := true }
/-- The word of an instruction. -/
def wordOf (i : Instr) : W64 := (encode i).getD 0

/-- The areas of CTXSAVE and CTXLOAD are reached, as a computation. -/
def spans (s : State) (ea : Nat) (load : Bool) : Bool :=
  ((List.range 13).filterMap fun i =>
      if i = 0 then some ea
      else if (ea / 65536 + i) * 65536 < ea + 761856 then some ((ea / 65536 + i) * 65536) else none).all fun a =>
    match translate s (vmid (cc s)) (asidOf s (oldCore s)) a load (!load) false [0] with
    | .ok t => !isFlagPage t.pa && !targetDown s t.pa
    | _ => false

theorem spans_ok {s : State} {ea : Nat} {load : Bool} (h : spans s ea load = true) :
    ∀ a ∈ ((List.range 13).filterMap fun i =>
      if i = 0 then some ea
      else if (ea / 65536 + i) * 65536 < ea + 761856 then some ((ea / 65536 + i) * 65536) else none), ∃ t,
      translate s (vmid (cc s)) (asidOf s (oldCore s)) a load (!load) false [0] = .ok t ∧ isFlagPage t.pa = false
        ∧ targetDown s t.pa = false := by
  intro a ha
  have := List.all_eq_true.mp h a ha
  revert this
  cases translate s (vmid (cc s)) (asidOf s (oldCore s)) a load (!load) false [0] with
  | ok t =>
    intro q
    simp only [Bool.and_eq_true, Bool.not_eq_true'] at q
    exact ⟨t, rfl, q.1, q.2⟩
  | _ => intro q; cases q

/-- A translation answers, as a computation. -/
def answers (x : Xl) : Bool := match x with
  | .ok _ => true
  | _ => false

theorem ok_of {x : Xl} (h : answers x = true) : ∃ t, x = .ok t := by
  cases x with
  | ok t => exact ⟨t, rfl⟩
  | _ => cases h

/-- A claim answers, as a computation. -/
def succeeds {α β : Type} (x : Except α β) : Bool := match x with
  | .ok _ => true
  | .error _ => false

theorem success_of {α β : Type} {x : Except α β} (h : succeeds x = true) : ∃ t, x = .ok t := by
  cases x with
  | ok t => exact ⟨t, rfl⟩
  | error e => cases h

theorem failure_of {α β : Type} {x : Except (α × β) State} (h : succeeds x = false) : ∃ k n, x = .error (k, n) := by
  cases x with
  | ok t => cases h
  | error e => exact ⟨e.1, e.2, rfl⟩

/-- The same memory at supervisor level, the second 4 TiB mapped to the host through link 0, which is CXL. -/
def supMapped : State :=
  let s := mapped {}
  let host := 0xFF0000000000001F
  { s with mem := pokeBytes (pokeBytes s.mem 0x20008 (toBytes 8 (host + BitVec.ofNat 64 (2 ^ 50)))) 0x40008
             (toBytes 8 (host + BitVec.ofNat 64 (2 ^ 42))),
           ctx := { old := { cr := { status := 1 }, s := [(8, 0x40000000000), (9, 0x100000)] }, slot := 3 },
           hostLinks := [(0, { cxl := true })] }

theorem witness_SupervisorForms :
    let ea := fun (r : BitVec 6) => srcS supMapped r + (0 : BitVec 20).signExtend 64
    let v := vmid (cc supMapped)
    let asid := asidOf supMapped (oldCore supMapped)
    predOk supMapped f0 = true ∧ Supervisor supMapped ∧ supMapped.ctx.slot = 3 ∧ (cc supMapped).held = false
    ∧ (ea 9).toNat % 4096 = 0 ∧ spans supMapped (ea 9).toNat true = true ∧ spans supMapped (ea 9).toNat false = true
    ∧ ∃ x, translate supMapped v asid (ea 8).toNat false false false [] = .ok x ∧ isHostMem x.pa = true
        ∧ (SMap.get (fun _ => ({} : HostLink)) supMapped.hostLinks (x.pa / 2 ^ 48 % 2)).cxl = true := by
  unfold Supervisor
  exact ⟨by decide, by decide, by decide, by decide, by decide, by decide +kernel, by decide +kernel,
    { pa := 2 ^ 50, shift := 42, level := 1, e1 := some 0x40008, e2 := 0x20008 }, by decide +kernel, by decide, by decide⟩

/-- A slot whose predicate is false, one of the vector engine and one that appends a tile. -/
theorem witness_QueuePush :
    let v := opV 3 1 2
    let s := opened (wordOf (.vadd f0 v))
    let t := opened (wordOf (.vfma fi (opV 4 4 4 4)))
    s.role = .slot ∧ Instr.vadd f1 v ∈ queueForms f1 v (opE 0 0 0) ∧ predOk s f1 = false
    ∧ Instr.vadd f0 v ∈ queueForms f0 v (opE 0 0 0) ∧ predOk s f0 = true ∧ queueBlock (.vadd f0 v) f0 s = none
    ∧ instBit s.ctx.word = false ∧ instBit t.ctx.word = true := by
  decide +kernel

/-- The state in which an instruction pushes, with these descriptor registers, on a core that has a trap vector. -/
def pushing (i : Instr) (d : List (Nat × W512)) (k : Core → Core := id) : State :=
  let s := mapped { d := d }
  onCore { s with ctx := { s.ctx with word := wordOf i } } 0 fun c => k { c with regs := { cr := { tvec := 0x40 } } }

/-- 4 × 4 elements seen through a window, with the bits of further fields. -/
def tileS (more : Nat) : W512 := tile 1 0x60000 4 4 1 4 16 64 (2 ^ 112 + 2 ^ 300 + more)

/-- The first descriptor of MMA fails, alone or behind one that has no stash side; overlaps another window, or finds the map full;
a copy without a stash side; a slot that would install, but that no rule slot is free. -/
theorem witness_QueuePush_descriptors :
    let i := Instr.mma f0 (opE 4 5 0 2)
    let c := Instr.cpy f0 (opE 4 5 0)
    let v := Instr.vadd fi (opV 4 6 4)
    let w := tileS (3 * 2 ^ 272)
    let m := tileM + 2 ^ 112
    let s := fun (a b : W512) (k : Core → Core) => pushing i [(4, a), (5, b)] k
    let reasons := fun (i : Instr) (s : State) => (namedBy i s).map fun u => firstReason (srcD s u.reg) u.types
    let over_ := s w m fun k => { k with wins := [{ desc := w + 1 }] }
    let full := s w m fun k => { k with wins := List.replicate 64 { desc := tileS (3 * 2 ^ 272 + 4 * 2 ^ 258) } }
    let rules := onCore (opened (wordOf v)) 0 fun k => { k with rules := (List.range 32).map fun n => (n, { st := .armed }),
                                                                regs := { cr := { tvec := 0x40 } } }
    i ∈ queueForms f0 (opV 0 0 0) (opE 4 5 0 2) ∧ predOk (s 0 m id) f0 = true ∧ field (cc (s 0 m id)).regs.cr.tvec 5 50 ≠ 0
    ∧ instBit (s 0 m id).ctx.word = false ∧ ((reasons i (s 0 m id)).headD none).isSome = true
    ∧ reasons i (s m 0 id) = [none, (reasons i (s 0 m id)).headD none] ∧ onStash m = false
    ∧ (reasons i over_).headD (some 0) = none ∧ onStash w = true ∧ overlaps (w + 1) w = true ∧ sameMapping (w + 1) w = false
    ∧ (reasons i full).headD (some 0) = none ∧ hasWindow w = true ∧ 64 ≤ (cc full).wins.length ∧ liveRanges (cc full) = []
    ∧ (∀ x ∈ (cc full).wins, overlaps x.desc w = false ∧ sameMapping x.desc w = false)
    ∧ (∀ r ∈ reasons c (pushing c [(4, tileM), (5, tileM)]), r = none) ∧ opcodeOf (wordOf c) = 0xB0
    ∧ (match instKind (wordOf v) (namedBy v rules) (srcD rules) with | .install _ => true | _ => false) = true
    ∧ (∀ n, n < 32 → (getRule (cc rules) n).st ≠ .free) ∧ queueBlock v fi (onCur rules fun k => { k with rules := [] }) = none := by
  decide +kernel

/-- Each bank rule broken: MMA's operands in memory, in one group, and with pitches that are multiples of 8 and of 16 units; CPY
within one group. -/
theorem witness_QueuePush_banks :
    let i := Instr.mma f0 (opE 4 5 0 2)
    let c := Instr.cpy f0 (opE 4 5 0)
    let w := fun (size pitch group : Nat) => tileS (size * 2 ^ 272 + pitch * 2 ^ 286 + group * 2 ^ 256)
    let ok := fun (i : Instr) (a b : W512) =>
      let s := pushing i [(4, a), (5, b)]
      succeeds (checkUses (asidOf s (oldCore s)) (srcD s) (cc s) (namedBy i s))
    let inA := fun a : W512 => onStash a = true ∧ dGroup a = 0
    let inB := fun b : W512 => onStash b = true ∧ dGroup b = 1
    ok i (tileM + 2 ^ 112) (tileM + 2 ^ 112) = true ∧ ¬ inA (tileM + 2 ^ 112) ∧ ok i (w 3 0 0) (w 3 0 0) = true ∧ inA (w 3 0 0) ∧ ¬ inB (w 3 0 0)
    ∧ ok i (w 31 8 0) (w 3 0 1) = true ∧ inA (w 31 8 0) ∧ inB (w 3 0 1) ∧ rowUnits (w 31 8 0) % 8 = 0
    ∧ ok i (w 3 0 0) (w 63 16 1) = true ∧ inB (w 63 16 1) ∧ rowUnits (w 3 0 0) % 8 ≠ 0 ∧ rowUnits (w 63 16 1) % 16 = 0
    ∧ ok c (w 3 0 0) (w 3 0 0) = true ∧ isOpen (w 3 0 0) = false ∧ opcodeOf (wordOf i) = 0xA0 := by decide +kernel

/-- No open descriptor, one that is only written, two, and one that is read. -/
theorem witness_InstallBit :
    let i := fun (o : OpV) => Instr.vadd fi o
    let s := fun (o : OpV) => opened (wordOf (i o))
    let opens := fun (o : OpV) => (namedBy (i o) (s o)).filter fun u => isOpen (srcD (s o) u.reg)
    let meets := fun (o : OpV) => (s o).role = .slot ∧ predOk (s o) fi = true ∧ instBit (s o).ctx.word = true
      ∧ queueBlock (i o) fi (s o) = none
    let named := fun (u : Use) => (u.pos, u.reg, u.write)
    meets (opV 4 4 4) ∧ opens (opV 4 4 4) = []
    ∧ meets (opV 6 4 4) ∧ (opens (opV 6 4 4)).map named = [(0, 6, true)]
    ∧ meets (opV 6 6 4) ∧ 2 ≤ (opens (opV 6 6 4)).length
    ∧ meets (opV 4 6 4) ∧ (opens (opV 4 6 4)).map named = [(1, 6, false)]
    ∧ ((namedBy (i (opV 4 6 4)) (s (opV 4 6 4))).find? fun x => decide (x.pos = 1)).map named = some (1, 6, false)
    ∧ opcodeOf (s (opV 4 6 4)).ctx.word ≠ 0xB5 ∧ freeRuleSlot (cc (s (opV 4 6 4))) = some 0
    ∧ answers (translate (s (opV 4 6 4)) 0 0 (dOtr (srcD (s (opV 4 6 4)) 6)) false false false []) = true := by
  decide +kernel

/-- An agent of core 0 performs its one active command. -/
def performing (a : Nat) (x : Active) (k : Core := {}) : State :=
  { withCore (setActs k a [x]) with role := .agent a 0 }

/-- A command with the word of an instruction. -/
def active (i : Instr) (x : Active := {}) : Active := { x with cmd := { x.cmd with word := wordOf i } }

theorem witness_LanewiseRegisterForms :
    let i := Instr.vadd f0 (opV 3 1 2)
    let x := active i
    (elementOf i).isSome = true ∧ AtVector (performing 4 x) 0 x ∧ x.rule = none ∧ actV x = vecOf i := by
  unfold AtVector; decide +kernel

/-- A firing whose elements have been read. -/
theorem witness_LanewiseStreamForms :
    let i := Instr.vadd fi (opV 4 6 4)
    let x := active i { rule := some 0, stage := 1, cmd := { descs := [tileM, tileO, tileM] } }
    let s := performing 4 x
    let c := active (.vcvt fi (opV 4 6 4)) { rule := some 0, stage := 1, cmd := { descs := [tileM, tileO] } }
    (actsOf (cc (performing 4 c)) 4)[0]? = some c ∧ actV c = opV 4 6 4 ∧ c.rule = some 0 ∧ c.stage = 1 ∧ c.reads = [] ∧ c.farOut = 0
    ∧ (elementOf i).isSome = true ∧ s.role = .agent 4 0 ∧ (actsOf (cc s) 4)[0]? = some x ∧ x.rule = some 0 ∧ actV x = vecOf i
    ∧ x.stage = 1 ∧ x.reads = [] ∧ x.farOut = 0 := by decide +kernel

/-- Conversions, and comparisons of the last element of a lane and of one beyond it. -/
theorem witness_ConversionsAndMasks :
    let o := opV 3 1 2 0 1
    let x := active (.vcvt f0 o)
    AtVector (performing 4 x) 0 x ∧ x.rule = none ∧ actV x = o
    ∧ (opV 2 1 2 0 1 0 0 8).fn.toNat / 8 % 4 < 32 / tyBits 1 ∧ ¬ (opV 2 1 2 0 0 0 0 8).fn.toNat / 8 % 4 < 32 / tyBits 0 := by
  unfold AtVector; decide +kernel

theorem witness_LaneMoves :
    let one := active (.vnop f0 (opV 0 0 0 0 0 0 0 0 1))
    let two := active (.vnop f0 (opV 0 0 0 0 0 0 0 0 2))
    AtVector (performing 4 one) 0 one ∧ actV one = opV 0 0 0 0 0 0 0 0 1 ∧ one.ran = false ∧ (actV one).imm.toNat ≤ 1
    ∧ AtVector (performing 4 two) 0 two ∧ two.ran = false ∧ 1 < (actV two).imm.toNat := by
  unfold AtVector; decide +kernel

/-- Destinations that differ and that are the same. -/
theorem witness_ReductionsAndRanking :
    let x := active (.vtopk f0 (opV 8 1 9))
    AtVector (performing 4 x) 0 x ∧ actV x = opV 8 1 9 ∧ (actV x).vd ≠ (actV x).vb ∧ (opV 9 1 9).vd = (opV 9 1 9).vb := by
  unfold AtVector; decide +kernel

/-- Lane 0 holds an offset that is the last of the stash for a row of one element, lane 1 that row's length. -/
theorem witness_VectorStashForms :
    let o := opV 3 1 2
    let x := active (.vld f0 o)
    let s := performing 4 x { eng := { v := [(64, { bits := 0x3FFFFC }), (65, { bits := 1 })] } }
    AtVector s 0 x ∧ actV x = o ∧ (lane s o.va 0).poison = false
    ∧ ((lane s o.va 0).bits.toNat + 64 * o.imm.toNat) % 2 ^ 22 % 4 = 0
    ∧ (∀ l, l < 64 → l ≠ 1 → (lane s o.va l).poison = false ∧ (lane s o.va l).bits.toNat % 2 ^ 22 % 4 = 0)
    ∧ (lane s o.va 1).poison = false ∧ (lane s o.va 0).bits.toNat % 2 ^ 22 + 1 * tySize o.type.toNat ≤ 2 ^ 22
    ∧ min (lane s o.va 1).bits.toNat 1048576 = (lane s o.va 1).bits.toNat := by
  unfold AtVector; decide +kernel

/-- The gathers' condition, under a mask that leaves out lane 1. -/
theorem witness_VectorStashForms_gather :
    let o := opV 3 1 2 0 0 0 0 0 0x200
    let x := active (.vldg f0 o)
    let s := performing 4 x { eng := { v := [(64, { bits := 0x3FFFFC }), (65, { bits := 1 })], k := [(1, 0xFFFFFFFFFFFFFFFD)] } }
    AtVector s 0 x ∧ actV x = o
    ∧ ∀ l, l < 64 → laneOn s o l = true → (lane s o.va l).poison = false ∧ (lane s o.va l).bits.toNat % 2 ^ 22 % 4 = 0 := by
  unfold AtVector; decide +kernel

theorem witness_VectorStashResults :
    let o := opV 8 1 9
    let x := active (.vshort f0 o) { stage := 1, lo := 2, got := [{ key := 0, val := 0x40000000 }, { key := 1, val := 0x3F800000 }] }
    let s := performing 4 x
    s.role = .agent 4 0 ∧ (actsOf (cc s) 4)[0]? = some x ∧ x.stage = 1 ∧ x.reads = [] ∧ x.farOut = 0 ∧ (cc s).flight = []
    ∧ actV x = o ∧ o.vd ≠ o.vb := by decide +kernel

/-- Agent 2 is MXQ. -/
theorem witness_MatrixCommands :
    let x := active (.mma f0 (opE 4 5 0 2)) { stage := 1, cmd := { descs := [tileM, tileM] } }
    AtCommand (performing 2 x) 2 0 x 1 ∧ Returned x ∧ actE x = opE 4 5 0 2 := by
  unfold AtCommand Returned; decide +kernel

/-- Agent 3 is EPQ. -/
theorem witness_EpilogueCommands :
    let x := active (.epi f0 (opE 6 7 8 3 0 0 0x7000)) { stage := 1, cmd := { descs := [tileM, tileM, tileM] } }
    AtCommand (performing 3 x) 3 0 x 1 ∧ Returned x ∧ actE x = opE 6 7 8 3 0 0 0x7000 := by
  unfold AtCommand Returned; decide +kernel

/-- A copy on channel 1 between two tiles, as it issues, behind another copy and once its indices have returned; an index that
is the last row, one beyond it, a poisoned one and one that AXQ has pushed in this cycle; a firing that has waited. -/
theorem witness_CopyCommands :
    let x := active (.cpyidx f0 (opE 4 4 0 0 1)) { cmd := { descs := [tileM, tileM, tile 1 0x61000 4 1 1 4 16 64] } }
    let y := { x with stage := 1 }
    let z := { x with rule := some 3, waited := 1 }
    let h := { x with rq := [{ bits := 3 }] }
    let e := fun (n : Nat) (p : Bool) => ({ val := { bits := BitVec.ofNat 64 n, poison := p } } : RqEntry)
    let now : RqEntry := { val := {}, axq := some 0 }
    let s := fun (v : RqEntry) => performing 9 x { rq := [v] }
    let B := operand (s (e 3 false)) 0 x 1 false
    (s (e 3 false)).role = .agent 9 0 ∧ (actsOf (cc (s (e 3 false))) 9)[0]? = some x ∧ x.skip = false ∧ x.halted = none
    ∧ x.appending = false ∧ appends x = false ∧ x.begun = false ∧ x.stage = 0 ∧ x.rq = [] ∧ x.rule = none
    ∧ (9 < 8 ∨ 0 = 0) ∧ ¬ (9 < 8 ∨ 1 = 0) ∧ (actsOf (cc (onCore (performing 9 x) 0 fun k => setActs k 9 [x, x])) 9)[1]? = some x
    ∧ (cc (s (e 3 false))).rq = [e 3 false] ∧ (e 3 false).val.bits.toNat < B.dim 1 ∧ (e 3 false).val.poison = false
    ∧ (e 3 false).axq ≠ some (s (e 3 false)).now ∧ now.axq = some (s now).now ∧ (∀ v ∈ (cc (s now)).rq, v.axq = some (s now).now)
    ∧ B.dim 1 ≤ (e 4 false).val.bits.toNat ∧ (e 4 true).val.poison = true
    ∧ h.rq = [{ bits := 3 }] ∧ (actsOf (cc (performing 9 h)) 9)[0]? = some h ∧ z.rule ≠ none ∧ z.waited ≠ 0 ∧ appends z = false ∧ (actsOf (cc (performing 9 z)) 9)[0]? = some z
    ∧ y.stage = 1 ∧ Returned y ∧ appends y = false ∧ (actsOf (cc (performing 9 y)) 9)[0]? = some y
    ∧ (∀ r, r < bounded (y.cmd.descs.getD 2 0) 0 → (gotElem y 2 (keyOf r 0 0)).poison = false) := by
  unfold Returned; decide +kernel

/-- The open state with a command performed in it. -/
def openedAt (a : Nat) (x : Active) : State :=
  { onCore (opened 0) 0 (fun k => setActs k a [x]) with role := .agent a 0 }

/-- CPYMIR of a record without a mirror, and of one whose mirror cursor lies behind C. -/
theorem witness_CopyCommands_mirror :
    let x := active (.cpymir f0 (opE 0 6 0 0 7)) { cmd := { descs := [0, tileO] } }
    let s := openedAt 15 x
    let t := { s with ots := [(0x50100, { openRec with mirrored := true, mcursor := 1 })] }
    s.role = .agent 15 0 ∧ (actsOf (cc s) 15)[0]? = some x ∧ x.skip = false ∧ x.halted = none ∧ x.appending = false
    ∧ appends x = false ∧ x.stage = 0 ∧ (operand s 0 x 1 false).ot = some 0x50100 ∧ (operand s 0 x 1 false).bad = false
    ∧ (getOT s 0x50100).mirrored = false ∧ (operand t 0 x 1 false).ot = some 0x50100 ∧ (operand t 0 x 1 false).bad = false
    ∧ (getOT t 0x50100).mirrored = true ∧ (getOT t 0x50100).mcursor < (getOT t 0x50100).c
    ∧ x.begun = false ∧ (getOT s 0x50100).mcursor ≤ (getOT s 0x50100).mcursor := by decide +kernel

/-- An append into the page that the tensor has, one that needs a page of an empty pool, and one behind another append. -/
theorem witness_CopyClaims :
    let x := active (.cpyfill f0 (opE 6 0 0 0 3 0 1)) { cmd := { descs := [tileO] } }
    let s := openedAt 11 x
    let t := { s with ots := [(0x50100, { openRec with q := 1024 })] }
    let y := { x with id := 1 }
    let w := { onCore (openedAt 11 x) 0 (fun k => setActs k 11 [x, y]) with role := .agent 11 1 }
    AtCommand s 11 0 x 0 ∧ x.skip = false ∧ x.halted = none ∧ x.begun = false ∧ appends x = true
    ∧ claimWaits s 0 x 0x50100 = false ∧ claimWaits t 0 x 0x50100 = false
    ∧ AtCommand w 11 1 y 0 ∧ recordPa w 0 0 (dOtr (y.cmd.descs.getD 0 0)) = some 0x50100 ∧ claimWaits w 0 y 0x50100 = true
    ∧ recordPa s 0 0 (dOtr (x.cmd.descs.getD 0 0)) = some 0x50100 ∧ (getOT s 0x50100).st = 1
    ∧ (getOT s 0x50100).vf = vmid (cc s) ∧ (∃ u, claim s 0x50100 2 = .ok u)
    ∧ AtCommand t 11 0 x 0 ∧ recordPa t 0 0 (dOtr (x.cmd.descs.getD 0 0)) = some 0x50100 ∧ (getOT t 0x50100).st = 1
    ∧ ∃ k n, claim t 0x50100 1024 = .error (k, n) := by
  unfold AtCommand
  exact ⟨by decide +kernel, by decide, by decide, by decide, by decide +kernel, by decide +kernel, by decide +kernel,
    by decide +kernel, by decide +kernel, by decide +kernel, by decide +kernel, by decide, by decide,
    success_of (by decide +kernel), by decide +kernel, by decide +kernel, by decide, failure_of (by decide +kernel)⟩

/-- A SAQ as it issues and with its reads returned; a SAMASK with good rows and with a poisoned one. -/
theorem witness_SliceAttentionCommands :
    let x := active (.saq f0 (opE 4 4 6)) { cmd := { descs := [tileM, tileM, tileO, tileO] } }
    let s := openedAt 5 x
    let y := { x with stage := 2, hi := 2, geo := [(0x50100, 1024, 64), (0x50100, 1024, 64)] }
    let m := active (.samask f0 (opE 9 0 0)) { stage := 1 }
    let p := { m with got := [{ key := keyOf 1 63 0, poison := true }] }
    let o := { x with cmd := { x.cmd with descs := [tileO, tileM, tileO, tileO] } }
    (actsOf (cc (openedAt 5 o)) 5)[0]? = some o ∧ isOpen (o.cmd.descs.getD 0 0) = true
    ∧ s.role = .agent 5 0 ∧ (actsOf (cc s) 5)[0]? = some x ∧ actE x = opE 4 4 6 ∧ x.halted = none ∧ x.s2 = false ∧ x.stage = 0
    ∧ recordFault s 0 0 tileO = none ∧ (actsOf (cc (openedAt 5 y)) 5)[0]? = some y ∧ y.stage = 2 ∧ Returned y
    ∧ (y.geo.getD 0 (0, 0, 0)).2.1 ≠ 0
    ∧ (actsOf (cc (openedAt 5 m)) 5)[0]? = some m ∧ m.stage = 1 ∧ Returned m
    ∧ (∀ d, d < 2 → ∀ r, r < 64 → (gotElem m 0 (keyOf d r 0)).poison = false)
    ∧ (actsOf (cc (openedAt 5 p)) 5)[0]? = some p ∧ Returned p ∧ (gotElem p 0 (keyOf 1 63 0)).poison = true := by
  unfold Returned; decide +kernel

/-- A SAQ of one row whose tree has two leaves, of which one or the other is absent or neither is, and a root. -/
theorem witness_AttentionEvents :
    let i := Instr.saq f0 (opE 4 4 6)
    let tri : Triple := { absent := false, m := { bits := 0x3F800000 }, l := { bits := 0x3F800000 }, o := [{}] }
    let leaf := fun (p : Nat) (t : Triple) => ({ pos := p, tri := t } : TreeNode)
    let row := tile 1 0x60000 4 1 1 4 16 64
    let x := fun (u v : Triple) => active i
      { stage := 3, hi := 2, geo := [(0, 1, 64)], tree := [leaf 0 u, leaf 1 v], cmd := { descs := [row, row] } }
    let r := active i { stage := 3, tree := [leaf 0 tri], cmd := { descs := [row, row, tileO, tileO] } }
    let l := actsOf (getCore (performing 5 (x tri tri)) 0) 5
    let finished := fun y : Active => isSaq y = true ∧ y.stage = 3 ∧ y.ran = true ∧ y.writes = [] ∧ y.farOut = 0 ∧ y.halted = none
      ∧ y.s2 = false
    isSaq (x {} tri) = true ∧ l[0]? = some (x tri tri) ∧ 0 < 1
    ∧ findNodeAt (x tri tri) 0 0 0 = some (leaf 0 tri) ∧ findNodeAt (x tri tri) 0 0 1 = some (leaf 1 tri)
    ∧ findNodeAt (x tri tri) 0 1 0 = none ∧ tri.absent = false ∧ tri.m.poison = false ∧ ({} : Triple).absent = true
    ∧ findNodeAt (x {} tri) 0 0 0 = some (leaf 0 {}) ∧ findNodeAt (x tri {}) 0 0 1 = some (leaf 1 {})
    ∧ (∀ y ∈ l, (findNodeAt y 0 0 2).isSome = false)
    ∧ (actsOf (getCore (openedAt 5 r) 0) 5)[0]? = some r ∧ rootsReady r = true ∧ ¬ finished r ∧ saqOutBlock (openedAt 5 r) 0 r = none
    ∧ (getCore (openedAt 5 r) 0).frozen = false ∧ (getCore (openedAt 5 r) 0).fenced = false
    ∧ (getCore (withCore { frozen := true }) 0).frozen = true ∧ (getCore (withCore { fenced := true }) 0).fenced = true
    ∧ (∀ y ∈ l, rootsReady y = false) ∧ ¬ finished (x tri tri) := by
  decide +kernel

/-- A SAQ with its root whose open output may not be written: its record's page lacks W. -/
theorem witness_AttentionEvents_blocked :
    let tri : Triple := { absent := false, m := { bits := 0x3F800000 }, l := { bits := 0x3F800000 }, o := [{}] }
    let x := active (.saq f0 (opE 4 4 6)) { stage := 3, hi := 2, tree := (List.range 4).map fun r => { row := r, tri := tri },
                                            cmd := { descs := [tileO, tileM, tileO, tileO] } }
    let s := { openedAt 5 x with mem := pokeBytes (openedAt 5 x).mem 0x40000 [0x17] }
    (actsOf (getCore s 0) 5)[0]? = some x ∧ rootsReady x = true ∧ ∃ b, saqOutBlock s 0 x = some b ∧ ∃ t₁, b = .trap t₁ := by
  refine ⟨by decide +kernel, by decide +kernel, ?_⟩
  have h : ∀ o : Option Block, (match o with | some (.trap _) => true | _ => false) = true → ∃ b, o = some b ∧ ∃ t₁, b = .trap t₁ := by
    intro o q
    match o, q with
    | some (.trap t), _ => exact ⟨_, rfl, t, rfl⟩
  exact h _ (by decide +kernel)

/-- A SAQ that has written its rows: with no publish, with one of no slice, with one of slice 1 and with one that needs a page of an
empty pool. -/
theorem witness_AttentionEvents_finished :
    let d := fun (hi : Nat) (m : BitVec 20) => active (.saq f0 (opE 4 4 6 0 0 0 m))
      { stage := 3, ran := true, hi := hi, cmd := { descs := [tileO, tileM, tileO, tileO] } }
    let finished := fun y : Active => isSaq y = true ∧ y.stage = 3 ∧ y.ran = true ∧ y.writes = [] ∧ y.farOut = 0 ∧ y.halted = none
      ∧ y.s2 = false
    let pub := fun y : Active => (actE y).mods.getLsbD 11
    let s := fun y : Active => openedAt 5 y
    let pa := fun y : Active => recordPa (s y) 0 y.cmd.asid (dOtr (y.cmd.descs.getD 0 0))
    (actsOf (getCore (s (d 2 0)) 0) 5).head? = some (d 2 0) ∧ saqRecord (s (d 2 0)) 0 (d 2 0) = some 0x50100 ∧ finished (d 2 0) ∧ pub (d 2 0) = false
    ∧ finished (d 0 0x800) ∧ pub (d 0 0x800) = true ∧ (d 0 0x800).hi = 0
    ∧ finished (d 2 0x800) ∧ pub (d 2 0x800) = true ∧ (d 2 0x800).hi ≠ 0 ∧ pa (d 2 0x800) = some 0x50100
    ∧ (∃ u, publish (s (d 2 0x800)) 0x50100 1 (sigOf (s (d 2 0x800)) 0 5) = .ok u)
    ∧ finished (d 1025 0x800) ∧ pa (d 1025 0x800) = some 0x50100
    ∧ ∃ k n, publish (s (d 1025 0x800)) 0x50100 1024 (sigOf (s (d 1025 0x800)) 0 5) = .error (k, n) :=
  ⟨by decide +kernel, by decide +kernel, by decide +kernel, by decide +kernel, by decide +kernel, by decide +kernel, by decide,
   by decide +kernel, by decide +kernel, by decide, by decide +kernel, success_of (by decide +kernel), by decide +kernel, by decide +kernel,
   failure_of (by decide +kernel)⟩

/-- Banks with room, full under policy 0, and with and without a pair to merge; replies with room, quiet, and a poisoned
least distance aside. -/
theorem witness_SorusCommands :
    let i := Instr.srabsReg f0 (opE 8 0 0)
    let x := active i { stage := 1 }
    let y := active (.srmergePair f0 (opE 0 0 0 0 0 1 0x205))
    let full : Sorus := { valid := [(0, true)], count := [(0, 1)], rcp := [(0, 0x3F800000)], cap := 1, dim := 1 }
    let pair : Sorus := { valid := [(2, true), (5, true)], count := [(2, 1), (5, 1)],
                          rcp := [(2, 0x3F800000), (5, 0x3F800000)], dim := 1 }
    let s := fun (a : Active) (b : Sorus) => performing 5 a { eng := { sorus := b } }
    let far : SVec := [(.fin false 5 0, false)]
    (s x full).role = .agent 5 0 ∧ (actsOf (cc (s x full)) 5)[0]? = some x ∧ actE x = opE 8 0 0 ∧ x.skip = false ∧ x.stage = 1
    ∧ Returned x ∧ (cc (s x full)).rq.length < 32 ∧ (gotElem x 0 (keyOf 0 0 0)).poison = false
    ∧ (srAbsorb full far).full ≠ none ∧ (srAbsorb {} far).full = none
    ∧ (actsOf (cc (s y pair)) 5)[0]? = some y ∧ y.stage = 0 ∧ (closestPair pair).1.isSome = true
    ∧ (closestPair full).1 = none ∧ (closestPair full).2 = false
    ∧ field (actE y).mods 8 8 ≠ field (actE y).mods 0 8 ∧ srValid pair 2 = true ∧ srValid pair 5 = true
    ∧ srValid full 5 = false := by
  unfold Returned; decide +kernel

/-! ### Events of the package -/

/-- Function 0 with a pool of four pages from 0x100000, and 15 bytes short of a page of host window at 0x20000. -/
def poolCtx : FuncCtx :=
  { getFctx (mapped {}) 0 with poolbase := 0x100000, poolpages := 4, hostwin := 0x20000, hostwinsize := 0x10, enabled := true }

/-- The mapped state with that function. -/
def pooled : State := { mapped {} with fctx := [(0, poolCtx)] }

/-- Lost granules: 0x8000 is mirrored by frame 0x200000, and its mirror is as said; 0x4000 lies in a lost pool page whose link names
package 1. The leaf of stage 2 has the mirror bit. -/
def lossy (mirror : Pz) : State :=
  let bad : Pz := { poison := true, media := true }
  { pooled with mem := pokeBytes pooled.mem 0x20006 [0x80], poison := [(0x4000, bad), (0x8000, bad), (0x200000 * 1024, mirror)],
                mirrors := [(32, some 0x200000)], lost := [(16, true)], links := [(16, some { pa := 2 ^ 38, inc := 7 })],
                pod := [(1, { up := true, inc := 7 })], quarantine := [(17, true)], errLog := [{ cls := 1, unit := 1 }, { cls := 2, unit := 1 }],
                now := 50000, lastIrq := [(2 ^ 24 + 1, some 17000), (2 ^ 24 + 2, some 17001)], faultDue := true, limits := { irqs := 2 } }

/-- A mirror that is sound, one that is poisoned and one that is lost too. -/
theorem witness_ErrorEvents_mirror :
    let bad : Pz := { poison := true, media := true }
    let s := lossy { poison := true }
    let one := { s with poison := [(0x8000, bad)] }
    let gone := lossy bad
    getPz s 0x8000 = bad ∧ mirrorOf s (0x8000 / 1024) = some 0x200000 ∧ (getPz s (0x200000 * 1024 + 0x8000 % 1024)).media = false
    ∧ mirrorOf gone (0x8000 / 1024) = some 0x200000 ∧ (getPz gone (0x200000 * 1024 + 0x8000 % 1024)).media = true
    ∧ one.poison.filter (fun e => e.2.media && decide (memUnit (e.1 * 64) = 0)) = [(0x8000, bad)] ∧ getPz one 0x8000 = bad
    ∧ mirrorOf one (0x8000 / 1024) = some 0x200000 ∧ (getPz one (0x200000 * 1024 + 0x8000 % 1024)).media = false
    ∧ (∀ e ∈ s.poison, memUnit (e.1 * 64) = 5 → e.2.media = false) ∧ getPz s 0x8001 ≠ bad
    ∧ getPz s 0x4000 = bad ∧ mirrorOf s (0x4000 / 1024) = none ∧ isLost s (0x4000 / 1024) = true
    ∧ linkOf s (0x4000 / 1024) = some { pa := 2 ^ 38, inc := 7 } ∧ (getPod s (farTarget (2 ^ 38))).up = true
    ∧ (getPod s (farTarget (2 ^ 38))).inc = 7
    ∧ Memory.wf s.mem = true ∧ isPackageMem s (2 * 65536) = true ∧ isPackageMem s (0x200000 * 65536) = true
    ∧ memUnit (2 * 65536) ≠ memUnit (0x200000 * 65536) ∧ memUnit (2 * 65536) = memUnit (3 * 65536) := by decide +kernel

/-- Errors in memory of the package and of the pool, clean and beneath a dirty window; at firmware's thresholds. -/
theorem witness_ErrorEvents :
    let dirty := { pooled with cores := [(0, { wins := [{ dirty := [{ off := 3, pa := 0xFFFC0 }] }] })] }
    let s := { pooled with limits := { coreThr := 3, stackThr := 2, pageThr := 1 }, corrected := [(0, 1), (256, 2)] }
    isPackageMem pooled 0xFFFFF = true ∧ heldDirty pooled (0xFFFFF / 64) = false ∧ poolOwner pooled (0xFFFFF / 65536) = none
    ∧ isPackageMem pooled 0x13FFFF = true ∧ poolOwner pooled (0x13FFFF / 65536) = some 0
    ∧ (∀ g, heldDirty pooled g = false) ∧ mirrorOf (loseGranule pooled (0x13FFFF / 64)) (0x13FFFF / 65536) = none
    ∧ isPackageMem dirty 0xFFFFF = true ∧ heldDirty dirty (0xFFFFF / 64) = true ∧ poolOwner dirty (0xFFFFF / 65536) = none
    ∧ (pooled.limits.coreThr = 0 ∧ pooled.limits.stackThr = 0 ∧ pooled.limits.pageThr = 0)
    ∧ (let cnt := fun u : Nat => SMap.get (fun _ => 0) s.corrected u
       s.limits.coreThr ≠ 0 ∧ cnt (256 + 0) + 1 = s.limits.coreThr ∧ s.limits.stackThr ≠ 0 ∧ memUnit 0xFFFFF < 12
       ∧ cnt (memUnit 0xFFFFF) + 1 = s.limits.stackThr ∧ s.limits.pageThr ≠ 0 ∧ cnt (2 ^ 20 + 0xFFFFF / 65536) + 1 = s.limits.pageThr)
    ∧ (getCore (withCore { rq := [{ val := {} }] }) 0).rq[0]? = some { val := {} } ∧ (159 : Nat) < 160 := by
  refine ⟨by decide +kernel, by decide +kernel, by decide +kernel, by decide +kernel, by decide +kernel, ?_, by decide +kernel,
    by decide +kernel, by decide +kernel, by decide +kernel, by decide +kernel, by decide +kernel, by decide +kernel, by decide⟩
  intro g
  show ((pooled.cores.any fun e => _) = false)
  have h : ∀ x ∈ pooled.cores, x.2.wins = [] := by decide
  exact List.any_eq_false.mpr fun x hx => by rw [h x hx]; exact Bool.false_ne_true

/-- Quarantined pages, and interrupts that are due, too soon, told, and of a class that is not set. -/
theorem witness_ErrorEvents_told :
    let s := lossy {}
    SMap.get (fun _ => false) s.quarantine 17 = true ∧ getRef s (17 * 65536) = 0 ∧ SMap.get (fun _ => false) s.savePages 17 = false
    ∧ SMap.get (fun _ => false) s.quarantine 18 = false ∧ irqRecent s (2 ^ 24 + 2) = true ∧ irqRecent s (2 ^ 24 + 1) = false
    ∧ (∃ e ∈ s.errLog, logSource e = 2 ^ 24 + 1 ∧ e.told = false ∧ bit s.limits.irqs e.cls = true)
    ∧ (∀ e ∈ s.errLog, logSource e = 2 ^ 25 + 1 → e.told = true ∨ bit s.limits.irqs e.cls = false)
    ∧ irqRecent s (2 ^ 32) = false ∧ s.faultDue = true := by decide +kernel

theorem witness_LinkAndLimitEvents :
    (3 : Nat) < 4 ∧ (4095 : Nat) < 4096 ∧ (getPod (lossy {}) 0).up = false ∧ (getPod (lossy {}) 1).up = true := by decide

/-- The package at a step of its boot, with entries of its journal. -/
def booting (n : Nat) (kinds : List Nat) : State :=
  { State.reset with boot := { mode := .notReady, step := n, disabled := [(5, true)],
                               journal := kinds.map fun k => { step := n, kind := k } } }

/-- The package is at a step of its boot. -/
abbrev stepping (s : State) : Prop := s.power = true ∧ s.tripped = false ∧ s.boot.mode = .notReady ∧ s.boot.step ≤ 70
/-- The part of the step is disabled, and not to be attempted again. -/
abbrev stepOff (s : State) : Prop :=
  partOff s s.boot.step = true ∧ ¬ SMap.get (fun _ => false) s.boot.retry s.boot.step = true
/-- The step has failed twice. -/
abbrev stepAgain (s : State) : Prop :=
  partOff s s.boot.step = false ∧ ¬ SMap.get (fun _ => false) s.boot.retry s.boot.step = true
    ∧ 2 ≤ startsOf s.boot.step (s.boot.journal.drop (SMap.get (fun _ => 0) s.boot.since s.boot.step)).reverse

/-- Powered, unpowered and tripped; a disabled part, and one that is attempted again; one START and two, of which some stood before
a re-enabling. -/
theorem witness_ResetsAndBoot :
    let unpowered : State := { State.reset with power := false }
    let retry := { booting 5 [1, 1] with boot := { (booting 5 [1, 1]).boot with retry := [(5, true)] } }
    let since := { booting 68 [1, 1] with boot := { (booting 68 [1, 1]).boot with since := [(68, 1)] } }
    State.reset.power = true ∧ State.reset.tripped = false ∧ unpowered.power = false ∧ ¬ stepping State.reset ∧ ¬ stepping (booting 71 [])
    ∧ stepping (booting 5 []) ∧ stepOff (booting 5 []) ∧ stepping retry ∧ ¬ stepOff retry ∧ ¬ stepAgain retry
    ∧ stepping (booting 70 [1]) ∧ ¬ stepOff (booting 70 [1]) ∧ ¬ stepAgain (booting 70 [1]) ∧ stepping since ∧ ¬ stepAgain since := by
  decide +kernel

/-- Steps that have failed twice, with an alternative, with another image, the kept memory's, and without. -/
theorem witness_ResetsAndBoot_again :
    let second := { booting 0 [1, 1] with boot := { (booting 0 [1, 1]).boot with imageB := true } }
    stepping (booting 68 [1, 1]) ∧ stepAgain (booting 68 [1, 1]) ∧ hasAlternative 68 = true
    ∧ stepping (booting 69 [1, 1]) ∧ stepAgain (booting 69 [1, 1]) ∧ stepping (booting 0 [1, 1]) ∧ stepAgain (booting 0 [1, 1])
    ∧ (booting 0 [1, 1]).boot.imageB = false ∧ stepping (booting 70 [1, 1]) ∧ stepAgain (booting 70 [1, 1])
    ∧ stepping second ∧ stepAgain second ∧ second.boot.imageB = true := by decide +kernel

/-- Fenced and running cores, a barred one, and the counter's own value as a cycle to stop at. -/
theorem witness_CoreEvents :
    let s := withCore { phase := .running, counters := [(0, 5)] }
    let f := withCore { fenced := true, frozen := true }
    let b := { f with boot := { disabled := [(47, true)] } }
    (159 : Nat) < 160 ∧ (getCore s 0).fenced = false ∧ (getCore f 0).fenced = true
    ∧ ¬ (partOff f (47 + 0 / 8) = true ∨ (40 ≤ 0 ∧ partOff f (1 + 0 / 40) = true)) ∧ partOff b (47 + 0 / 8) = true
    ∧ (getCounter (getCore s 0) 0).toNat ≤ 5 ∧ 4 < (getCounter (getCore s 0) 0).toNat ∧ (getCore f 0).phase = .idle
    ∧ (getCore s 0).phase ≠ .idle ∧ (getCore f 0).frozen = true ∧ (getCore s 0).frozen = false ∧ 0 ≤ s.ltime ∧ s.ltime < 1 := by
  decide +kernel

/-- A context that is refused and one that is not; enabled and disabled functions; queues with and without an owner. -/
theorem witness_FunctionEvents :
    let s := { pooled with sqs := [(1023, { vf := some 0, st := .error })], tqs := [(255, { vf := some 0 })] }
    (getTQ s 255).vf = some 0 ∧ (getTQ s 254).vf ≠ some 0 ∧ (getSQ s 1023).vf = some 0 ∧ (getSQ s 1022).vf ≠ some 0
    ∧ (63 : Nat) < 64 ∧ contextStatus s 63 { asidcount := 1, edgering := 0x9000000000000000 } = 5
    ∧ contextStatus s 63 { asidcount := 1 } = 0 ∧ (getFctx s 0).enabled = true ∧ (getFctx s 63).enabled = false
    ∧ (255 : Nat) < 256 ∧ (1023 : Nat) < 1024 ∧ ownsQueue s 0 255 = true ∧ ownsQueue s 0 254 = false
    ∧ (getSQ s 1022).vf = none ∧ (getSQ s 1023).vf ≠ none := by decide +kernel

/-- Entry 511 of the export table exports a page of function 0 for reads and writes under key 9. -/
def exporting : State :=
  { pooled with exports := [(511, { base := 0x20000, func := 0, w := true, r := true, tkey := 9, limit := 1 })],
                devHost := [(2 ^ 44, true)], pod := [(1, { up := true })] }

/-- The last 8 bytes of that page. -/
def farReq (k : ExtKind) : FarReq :=
  { source := 1, inc := 0, tkey := 9, offset := 511 * 2 ^ 29 + 0xFFF8, size := 8, kind := k, poison := false }

/-- The last 8 bytes of function 0's host window. -/
def hostAcc (k : ExtKind) : HostAcc :=
  { link := 0, vf := 0, cxl := false, bar0 := false, offset := 8, size := 8, kind := k, poison := false }

/-- Reads of the BAR0 of the PF and of a function that fit there, and one that does not; one on a link that is down. -/
theorem witness_OutsideAccesses_bar0 :
    let a : HostAcc := { hostAcc .read with bar0 := true, vf := 64, offset := 0 }
    let reached := fun (s : State) (a : HostAcc) => a.link < 2 ∧ (SMap.get (fun _ => {}) s.hostLinks a.link : HostLink).up = true
      ∧ s.power = true ∧ s.tripped = false ∧ (a.vf = 64 ∨ s.boot.mode = .ready)
    reached exporting a ∧ barFits 64 (2 ^ 22 - 8) 8 .read = true ∧ reached exporting { a with vf := 0 }
    ∧ barFits 0 (2 ^ 20 - 8) 8 .read = true ∧ barFits 64 (2 ^ 22 - 7) 8 .read = false ∧ ¬ reached exporting { a with link := 2 } := by decide +kernel

/-- The request is refused. -/
def refusedBy (s : State) (r : FarReq) (rd wr : Bool) : Bool :=
  let e := getExport s (r.offset / 2 ^ 29)
  decide (r.inc ≠ s.ownInc ∨ (getPod s r.source).up = false ∨ 512 ≤ r.offset / 2 ^ 29 ∨ e.tkey ≠ r.tkey
    ∨ e.limit * 65536 < r.offset % 2 ^ 29 + r.size ∨ (rd = true ∧ e.r = false) ∨ (wr = true ∧ e.w = false))

theorem witness_OutsideAccesses :
    let e := getExport exporting 511
    let far := e.base + (farReq .read).offset % 2 ^ 29
    let place := fun (pa size : Nat) => isPackageMem exporting pa = true ∧ needsRepair exporting pa = false ∧ 0 < size ∧ size ≤ 16
      ∧ pa % 32 + size ≤ 32
    let x : Trans := { pa := 0x2FFF8, level := 1, e1 := none, e2 := 0x20000 }
    let h : Trans := { x with pa := 0x20008 }
    let link : HostLink := SMap.get (fun _ => {}) exporting.hostLinks 0
    (farReq .read).offset / 2 ^ 29 = 511 ∧ refusedBy exporting (farReq .read) true false = false ∧ refusedBy exporting (farReq (.write 1)) false true = false
    ∧ refusedBy exporting { farReq .read with size := 16 } true false = true ∧ xlatIpa exporting e.func far true false false [] = .ok x
    ∧ xlatIpa exporting e.func far false true false [] = .ok x ∧ place x.pa 8
    ∧ (getExport exporting 511).func = 0 ∧ (getExport exporting 0).r = false ∧ (getExport exporting 0).w = false
    ∧ (1 ≤ 8192 ∧ 8192 ≤ 8192) ∧ ¬ (512 < 512) ∧ ((0 : Nat) < 2 ∧ exporting.power = true ∧ exporting.tripped = false
        ∧ exporting.boot.mode = .ready ∧ link.up = true) ∧ (hostAcc .read).cxl = false
    ∧ hostPlace exporting { hostAcc .read with offset := 9 } = none ∧ hostPlace exporting (hostAcc .read) = some (0, 0x20008)
    ∧ xlatIpa exporting 0 0x20008 true false false [] = .ok h ∧ xlatIpa exporting 0 0x20008 false true false [] = .ok h
    ∧ place h.pa 8 ∧ ¬ ((2 : Nat) < 2) ∧ SMap.get (fun _ => false) exporting.devHost 0 = false
    ∧ SMap.get (fun _ => false) exporting.devHost (2 ^ 44) = true := by decide +kernel

/-- That page is lost, with a link to a mirror that is up. -/
theorem witness_OutsideAccesses_lost :
    let s := { exporting with lost := [(2, true)], links := [(2, some { pa := 2 ^ 51 + 2 ^ 38, inc := 7 })],
                              pod := [(1, { up := true, inc := 7 })] }
    let e := getExport s 511
    let x : Trans := { pa := 0x2FFF8, level := 1, e1 := none, e2 := 0x20000 }
    let h : Trans := { x with pa := 0x20008 }
    exportAllows s (farReq .read) = true ∧ xlatIpa s e.func (e.base + 0xFFF8) true false false [] = .ok x
    ∧ needsRepair s x.pa = true ∧ xlatIpa s 0 0x20008 true false false [] = .ok h ∧ needsRepair s h.pa = true
    ∧ hostPlace s (hostAcc .read) = some (0, 0x20008) ∧ (SMap.get (fun _ => {}) s.hostLinks 0 : HostLink).up = true
    ∧ s.power = true ∧ s.tripped = false ∧ s.boot.mode = .ready := by decide +kernel

theorem witness_OutsideAccesses_source :
    (getPod exporting { farReq .read with source := 2 }.source).up = false ∧ (getPod exporting (farReq .read).source).up = true := by decide

theorem witness_OutsideAccesses_noMirrors : NoMirrors exporting := fun _ => rfl

/-! ### Packets, tasks, runs and waits -/

/-- A chain of two answers. -/
def both {α β ε : Type} (x : Except ε α) (f : α → Except ε β) : Bool := match x with
  | .ok t => succeeds (f t)
  | .error _ => false

theorem both_of {α β ε : Type} {x : Except ε α} {f : α → Except ε β} (h : both x f = true) :
    ∃ t, x = .ok t ∧ ∃ r, f t = .ok r := by
  cases x with
  | ok t => exact ⟨t, rfl, success_of h⟩
  | error e => cases h

/-- A packet: its type and the bits of its other fields. -/
def packet (ty : Nat) (fields : List (Nat × Nat)) : W512 :=
  BitVec.ofNat 512 ((fields.map fun e => e.2 * 2 ^ e.1).sum + ty)

/-- Submission queue 1023 of function 0 with a parsed packet; task queue 2 is full and 3 has room for one. -/
def serves (p : W512) : State :=
  { pooled with sqs := [(1023, { vf := some 0, st := .run, tail := 1, pkt := some p })],
                tqs := [(2, { vf := some 0, ring := 0x90000, tail := 1 }), (3, { vf := some 0, ring := 0x91000 })] }

/-- The slot 0 of task queue 3. -/
def slot3 : Trans := { pa := 0x91000, level := 1, e2 := 0x20000 }

/-- The packet is what the queue parses, and nothing else changes. -/
abbrev parses (p : W512) (ty : Nat) : Prop :=
  parsePacket (serves p) 1023 = (serves p, some p) ∧ (getSQ (serves p) 1023).vf = some 0 ∧ field p 0 8 = ty

theorem parses_of {p : W512} {ty : Nat} (h : field p 0 8 = ty) : parses p ty := ⟨rfl, rfl, h⟩

/-- Where no page is lost, no access of a link waits for a repair. -/
theorem calm_of {s : State} (h : s.lost = []) (v a m : Nat) (wr : Bool) : linkWaits s v a m wr = false := by
  have n : ∀ pa, needsRepair s pa = false := fun pa => by simp [needsRepair, isLost, h, SMap.get]
  unfold linkWaits
  exact List.any_eq_false.mpr fun p _ => by split <;> simp [n]

theorem witness_PacketEvents :
    let stopped := { pooled with sqs := [(1023, { vf := some 0 })] }
    (1023 : Nat) < 1024 ∧ (getSQ stopped 1023).vf ≠ none ∧ (getSQ stopped 1022).vf = none ∧ (getSQ stopped 1023).st ≠ .run
    ∧ (getSQ stopped 1023).st ≠ .wait := by decide +kernel

/-- A FENCE and a SIGNAL that meet a lost page of a link that is up. -/
theorem witness_PacketEvents_lost :
    let lost := fun p : W512 => { serves p with lost := [(9, true)], links := [(9, some { pa := 2 ^ 51 + 2 ^ 38, inc := 7 })],
                                                pod := [(1, { up := true, inc := 7 })] }
    let f := packet 2 [(64, 1), (128, 0x92000)]
    let g := packet 3 [(64, 0x9FFFC), (128, 5)]
    parsePacket (lost f) 1023 = (lost f, some f) ∧ linkWaits (lost f) 0 0x92000 16 false = true
    ∧ parsePacket (lost g) 1023 = (lost g, some g) ∧ linkWaits (lost g) 0 0x9FFFC 4 true = true :=
  ⟨rfl, by decide +kernel, rfl, by decide +kernel⟩

/-- LAUNCH into a full queue and into one with room. -/
theorem witness_PacketEvents_launch :
    let full := packet 1 [(320, 2), (224, 1)]
    let room := packet 1 [(320, 3), (224, 1)]
    parses full 1 ∧ tqFull (getTQ (serves full) (field full 320 16)) = true
    ∧ parses room 1 ∧ tqFull (getTQ (serves room) (field room 320 16)) = false
    ∧ tqSlot (serves room) (getTQ (serves room) 3) 0 true = some slot3 := by
  exact ⟨parses_of (by decide +kernel), by decide +kernel, parses_of (by decide +kernel), by decide +kernel,
    by decide +kernel⟩

/-- An answer with a property. -/
theorem okAnd {α ε : Type} {x : Except ε α} (p : α → Prop) [DecidablePred p]
    (h : (match x with | .ok t => decide (p t) | .error _ => false) = true) : ∃ t, x = .ok t ∧ p t := by
  cases x with
  | ok t => exact ⟨t, rfl, of_decide_eq_true h⟩
  | error e => cases h

/-- A FENCE of one condition, whose table is good; another whose comparison code is 4; one that waits. -/
theorem witness_PacketEvents_fence :
    let p := packet 2 [(64, 1), (128, 0x92000)]
    let bad := { serves p with mem := (serves p).mem ++ [(0x92007, 8)] }
    let waiting := { pooled with sqs := [(1023, { vf := some 0, st := .wait, pkt := some p, conds := some [0] })] }
    parses p 2 ∧ (∃ r, linkReadAll 1 (serves p) 0 0x92000 = .ok r ∧ (r.1.lost = [] ∧ (condTable 1 r.2).any condBad = false
      ∧ succeeds (condsHold (condTable 1 r.2) r.1 0) = true))
    ∧ parsePacket bad 1023 = (bad, some p)
    ∧ (∃ r, linkReadAll 1 bad 0 0x92000 = .ok r ∧ (condTable 1 r.2).any condBad = true)
    ∧ (∀ a m wr, linkWaits (serves p) 0 a m wr = false) ∧ (∀ a m wr, linkWaits bad 0 a m wr = false)
    ∧ (∀ a m wr, linkWaits waiting 0 a m wr = false)
    ∧ (getSQ waiting 1023).st = .wait ∧ (getSQ waiting 1023).conds = some [0] ∧ serving waiting = true
    ∧ sqEnabled waiting (getSQ waiting 1023) = true ∧ ∃ z, condsHold [0] waiting 0 = .ok z :=
  ⟨parses_of (by decide +kernel), okAnd _ (by decide +kernel), rfl, okAnd _ (by decide +kernel), calm_of rfl 0, calm_of rfl 0,
   calm_of rfl 0, by decide, by decide, by decide, by decide, success_of (by decide +kernel)⟩

/-- SIGNAL to an address that no table maps. -/
theorem witness_PacketEvents_signal :
    let p := packet 3 [(64, 2 ^ 44), (128, 5)]
    parses p 3 ∧ field p 192 8 = 0 ∧ (∀ a m wr, linkWaits (serves p) 0 a m wr = false)
    ∧ succeeds (linkWrite (serves p) 0 (2 ^ 44) (toBytes 4 (BitVec.ofNat 64 5)) false) = false :=
  ⟨parses_of (by decide +kernel), by decide +kernel, calm_of rfl 0, by decide +kernel⟩

/-- SIGNAL writes and adds at the last word of a page, COPY of one byte, MARK. -/
theorem witness_PacketEvents_writes :
    let wr := packet 3 [(64, 0x9FFFC), (128, 5)]
    let add := packet 3 [(64, 0x9FFFC), (128, 5), (192, 1)]
    let cp := packet 4 [(64, 0x93000), (128, 0x94000), (192, 1)]
    let mk := packet 5 [(64, 7), (128, 0x95000)]
    let stamp := maxW ((SMap.get (fun _ => ({} : HostLink)) (serves mk).hostLinks 0).hlc + 1) (phys (serves mk))
    parses wr 3 ∧ field wr 192 8 = 0
    ∧ (∃ u, linkWrite (serves wr) 0 0x9FFFC (toBytes 4 (BitVec.ofNat 64 (field wr 128 64 % 2 ^ 32))) false = .ok u)
    ∧ parses add 3 ∧ field add 192 8 = 1
    ∧ (∃ r, linkRead (serves add) 0 0x9FFFC 4 = .ok r ∧ ∃ u, linkWrite r.1 0 0x9FFFC
        (toBytes 4 (BitVec.ofNat 64 ((natOfBytes r.2.1 + field add 128 64) % 2 ^ 32))) r.2.2 = .ok u)
    ∧ parses cp 4 ∧ (getSQ (serves cp) 1023).copied < field cp 192 64
    ∧ (∃ r, linkRead (serves cp) 0 0x94000 1 = .ok r ∧ ∃ u, linkWrite r.1 0 0x93000 r.2.1 r.2.2 = .ok u)
    ∧ parses mk 5 ∧ ∃ u, linkWrite (linkLocal (serves mk)).2 0 0x95000 (toBytes 8 (bits mk 64 64) ++ toBytes 8 stamp) false = .ok u :=
  ⟨parses_of (by decide +kernel), by decide +kernel, success_of (by decide +kernel), parses_of (by decide +kernel),
   by decide +kernel, both_of (by decide +kernel), parses_of (by decide +kernel), by decide +kernel, both_of (by decide +kernel),
   parses_of (by decide +kernel), success_of (by decide +kernel)⟩

/-- A SPAWN that waits in core 0 for room in task queue 3, or in the full queue 2. -/
def spawnsInto (q waited : Nat) (tag : Tag) : State :=
  { onCore (serves 0) 0 (fun k => { k with
      phase := .running,
      regs := { k.regs with cr := { k.regs.cr with spawnwait := 9 } },
      buf := [{ ev := .spawn false 0x96000 q 5 (List.replicate 64 0) false (some 1), waited := waited }] }) with
    tags := [(0, tag)] }

/-- SPAWN with room, without, and at and below its limit of cycles. -/
theorem witness_TagsAndBarriers_spawn :
    let s := spawnsInto 3 0 { live := true }
    let f := spawnsInto 2 9 { live := true }
    let b := fun (q w : Nat) => ({ ev := .spawn false 0x96000 q 5 (List.replicate 64 0) false (some 1), waited := w } : BufItem)
    let u := { spawnsInto 3 0 { live := true } with tqs := [(3, { vf := some 0, ring := 2 ^ 50 })] }
    performStops (getCore s 0) = false ∧ performStops (getCore f 0) = false ∧ performStops (getCore u 0) = false
    ∧ tqFull (getTQ u 3) = false ∧ spawnFault u 0 0x96000 3 (List.replicate 64 0) false = none
    ∧ (tqReach u (getTQ u 3) (getTQ u 3).tail true).toBool = false
    ∧ (getCore s 0).buf = [b 3 0] ∧ tqFull (getTQ s 3) = false ∧ spawnFault s 0 0x96000 3 (List.replicate 64 0) false = none
    ∧ tqSlot s (getTQ s 3) (getTQ s 3).tail true = some slot3 ∧ (getCore f 0).buf = [b 2 9] ∧ tqFull (getTQ f 2) = true
    ∧ (getCore f 0).regs.cr.spawnwait.toNat ≤ 9 ∧ 8 < (getCore f 0).regs.cr.spawnwait.toNat := by decide +kernel

/-- Continuations, records of a cancelled tag, cancelled runs, and tags that are and are not cancelling. -/
theorem witness_TagsAndBarriers :
    let s := { serves 0 with conts := [{ queue := 2 }, { queue := 3 }] }
    let q : TaskQ := { vf := some 0, ring := 0x91000, tail := 1 }
    let d := { pooled with tqs := [(3, q)], tags := [(0, { live := true, cancelling := true })] }
    let run := fun (c : Bool) => withCore { phase := .running, cancelled := c }
    let g := { pooled with tags := [(7, { live := true, cancelling := true })] }
    s.conts[2]? = none ∧ s.conts[0]? = some { queue := 2 } ∧ tqFull (getTQ s 2) = true ∧ s.conts[1]? = some { queue := 3 }
    ∧ tqFull (getTQ s 3) = false ∧ tqSlot s (getTQ s 3) (getTQ s 3).tail true = some slot3
    ∧ d.held = [] ∧ (getTQ d 3).vf = some 0 ∧ (getTQ d 3).heldFor = [] ∧ (getTQ d 3).tail = (getTQ d 3).head + 1
    ∧ readTask d q 0 = some 0 ∧ tqSlot d q 0 false = some slot3 ∧ (tqSlot d q 0 true).isSome = true ∧ (getTag d (recTag 0)).cancelling = true ∧ recJoin 0 = 0 ∧ recCtx 0 = 0
    ∧ runCancelled (run false) (getCore (run false) 0) = false ∧ runCancelled (run true) (getCore (run true) 0) = true
    ∧ (getCore (run true) 0).frozen = false ∧ (getCore (withCore { frozen := true }) 0).frozen = true
    ∧ canStop (getCore (run true) 0) = true ∧ pastDecrement (getCore (run true) 0) = false
    ∧ (getTag g 6).cancelling = false ∧ (getTag g 7).cancelling = true ∧ cancelDone g 7 = true
    ∧ (∀ e ∈ g.tags, e.2.live = true → e.2.parent ≠ some 7) := by decide +kernel

/-- A barrier that one core waits for, complete, not complete and broken; records of each state. -/
theorem witness_TagsAndBarriers_barriers :
    let b : BufItem := { ev := .bar 0 0x97000 5 (some 4) [] }
    let all := { pooled with barriers := (List.range 256).map fun i => { slot := i } }
    let y : Barrier := { pmask := 1, arrived := [0], slot := 4 }
    let s := { onCore pooled 0 (fun k => { k with buf := [b] }) with barriers := [y, { pmask := 1, slot := 5 }, { broken := true, slot := 6 }] }
    let o := { pooled with ots := [(0x50100, { st := 2 }), (0x50200, { st := 1, owner := 7 })],
                           tags := [(7, { live := true, cancelling := true })] }
    s.barriers.find? (fun z => decide (z.slot = 4)) = some y ∧ barrierDone s y = true ∧ y.arrived.Nodup ∧ y.broken = false
    ∧ (getCore s 0).parked = [] ∧ (getCore s 0).buf = [b] ∧ (getCore s 0).frozen = false ∧ (getCore s 0).fenced = false
    ∧ s.podWaits = [] ∧ freeBarrierSlot all = none ∧ (∀ y ∈ all.barriers, ¬ y.level = 3)
    ∧ s.barriers.find? (fun z => decide (z.slot = 5)) = some { pmask := 1, slot := 5 } ∧ barrierDone s { pmask := 1, slot := 5 } = false
    ∧ s.barriers.find? (fun z => decide (z.slot = 6)) = some { broken := true, slot := 6 }
    ∧ (freeBarrierSlot s).isSome = true ∧ ownerCancelled o (getOT o 0) = false ∧ (getOT o 0).st ≠ 2
    ∧ (getOT o 0x50100).st = 2 ∧ rulesOn o 0x50100 = [] ∧ restRules o 0x50100 = [] ∧ ownerCancelled o (getOT o 0x50200) = true := by decide +kernel

theorem witness_TagsAndBarriers_noMirrors (tqs : SMap TaskQ) (tags : SMap Tag) :
    NoMirrors { pooled with tqs := tqs, tags := tags } := fun _ => rfl

/-- Pages of a pool of which none is used are all found, wherever the search starts. -/
theorem poolPages_length (s : State) (v n : Nat)
    (h : ∀ i, i < (getFctx s v).poolpages → pageFree s ((getFctx s v).poolbase + i * 65536) = true) :
    (poolPages s v n).length = min n (getFctx s v).poolpages := by
  unfold poolPages
  simp only
  rw [List.filter_eq_self.mpr]
  · simp only [List.length_take, List.length_append, List.length_drop, List.length_map, List.length_range]
    omega
  · intro a ha
    have : a ∈ (List.range (getFctx s v).poolpages).map fun i => (getFctx s v).poolbase + i * 65536 := by
      rcases List.mem_append.mp ha with h1 | h1
      · exact List.mem_of_mem_drop h1
      · exact List.mem_of_mem_take h1
    obtain ⟨i, hi, rfl⟩ := List.mem_map.mp this
    exact h i (List.mem_range.mp hi)

/-- Core 0 in this state, the pool of function 0 with as many pages. -/
def running (pages : Nat) (k : Core → Core) (tqs : SMap TaskQ) (tag : Tag := { live := true }) : State :=
  { onCore pooled 0 (fun x => k { x with phase := .running, pc := 0 }) with
    fctx := [(0, { poolCtx with poolpages := pages, asidcount := 1, slice := 1 })], tqs := tqs, tags := [(0, tag)] }

/-- An idle core whose queue has a record of a live tag, and of a dead one. -/
theorem witness_RunEvents_pop :
    let q : TaskQ := { vf := some 0, ring := 0x91000, tail := 1, enabled := true, coremask := 1, stagemask := 1 }
    let s := running 4 (fun k => { k with phase := .idle }) [(3, q)]
    let d := running 4 (fun k => { k with phase := .idle }) [(3, q)] {}
    mayPop s 0 = true ∧ chooseQueue s 0 = some 3 ∧ takeRecord s 0 3 = some ({ q with head := 1 }, 0, 0, {}) ∧ (getTQ s 3).vf = some 0
    ∧ recordDead s 0 0 = false ∧ recCtx 0 = 0 ∧ mayPop d 0 = true ∧ chooseQueue d 0 = some 3
    ∧ takeRecord d 0 3 = some ({ q with head := 1 }, 0, 0, {}) ∧ recordDead d 0 0 = true ∧ recJoin 0 = 0 ∧ d.held = []
    ∧ s.held = [] ∧ tqSlot d (getTQ d 3) (getTQ d 3).head false = some slot3
    ∧ mayPop State.reset 160 = false ∧ chooseQueue State.reset 0 = none := by decide +kernel

theorem witness_RunEvents_noMirrors (n : Nat) (k : Core → Core) (tqs : SMap TaskQ) (tag : Tag) :
    NoMirrors (running n k tqs tag) := fun _ => rfl

/-- A core that starts a saved context, with its pages, without and with a destroyed one; a run that a queue pre-empts, one that its
own full queue keeps, and one that is leaving; a slice that has just
passed and one that has not. -/
theorem witness_RunEvents :
    let r : W512 := BitVec.ofNat 512 (0x100000 * 2 ^ 256)
    let start := running 4 (fun k => { k with phase := .starting, run := { k.run with record := r } }) []
    let area := { start with ctxPages := [(16, ([0x100000], 1))],
                             mem := start.mem ++ [(0x100000, 1), (0x100009, 0xA0), (0x10000A, 0x0B)] }
    let e := fun (s : State) => (SMap.get (fun _ => (([], 0) : List Nat × Nat)) s.ctxPages (recCtx (getCore s 0).run.record / 65536)).1
    let restores := fun (s : State) => (getCore s 0).phase = .starting ∧ (getCore s 0).fenced = false ∧ (getCore s 0).save = none
      ∧ runCancelled s (getCore s 0) = false
    let q : TaskQ := { vf := some 0, ring := 0x91000, tail := 1, enabled := true, preempt := true, coremask := 1, stagemask := 1 }
    let pre := running 4 (fun k => { k with run := { k.run with queue := 4 } }) [(3, q), (4, { vf := some 0, prio := 1 })]
    let shut := { pre with tqs := [(3, q), (4, { vf := some 0, prio := 1, tail := 1 })] }
    let leaving := onCore pre 0 fun k => { k with save := some .slice }
    let free := fun s : State => (List.range 160).any fun d => admits d (getCore s d) (getTQ s 3)
      && (decide ((getCore s d).phase = .idle) || [some .preempt, some .slice, some .yield].contains (getCore s d).save)
    let lost := { area with poison := [(0x100000 / 64, { poison := true })] }
    let sound := fun s : State => areaPoisoned (repairArea s (e s)) (e s) = false
      ∧ areaOk (repairArea s (e s)) 0 (readArea (repairArea s (e s)) (e s)) = true
    let timed := fun (n : Nat) => running 4 (fun k => { k with sliceTime := n }) []
    restores area ∧ e area ≠ [] ∧ sound area ∧ restores start ∧ e start = [] ∧ ¬ restores State.reset
    ∧ restores lost ∧ e lost ≠ [] ∧ ¬ sound lost ∧ SMap.get (fun _ => false) pre.preemptWait 3 = false
    ∧ serving shut = true ∧ free shut = false ∧ SMap.get (fun _ => false) shut.preemptWait 3 = false
    ∧ victim shut (getTQ shut 3) = none ∧ outranked shut (getTQ shut 3) ≠ [] ∧ free leaving = true
    ∧ SMap.get (fun _ => false) { pre with preemptWait := [(3, true)] }.preemptWait 3 = true
    ∧ outranked State.reset (getTQ State.reset 3) = []
    ∧ serving pre = true ∧ (getTQ pre 3).preempt = true ∧ (getTQ pre 3).enabled = true ∧ (getTQ pre 3).head < (getTQ pre 3).tail
    ∧ (getFctx pre ((getTQ pre 3).vf.getD 0)).enabled = true
    ∧ free pre = false
    ∧ victim pre (getTQ pre 3) = some 0 ∧ victim State.reset (getTQ State.reset 3) = none
    ∧ (getCore (timed 3300) 0).phase ≠ .idle ∧ (getFctx (timed 3300) 0).slice ≠ 0
    ∧ (getFctx (timed 3300) 0).slice * 3300 ≤ (getCore (timed 3300) 0).sliceTime
    ∧ (getCore (timed 3299) 0).sliceTime < (getFctx (timed 3299) 0).slice * 3300 := by decide +kernel

/-- A save with 12 pages, with 11, and one whose queue is full. -/
theorem witness_RunEvents_save :
    let s := fun (n : Nat) (full : Bool) => running n (fun k => { k with save := some .slice })
      [(0, { vf := some 0, ring := 0x91000, tail := if full then 1 else 0 })]
    let saves := fun (t : State) => (getCore t 0).save = some .slice ∧ (getCore t 0).fenced = false ∧ (getCore t 0).frozen = false
      ∧ runCancelled t (getCore t 0) = false ∧ pastDecrement (getCore t 0) = false ∧ (getCore t 0).phase ≠ .starting
      ∧ atSave (getCore t 0) = true
    let room := fun (t : State) => pinned (getCore t 0) = true ∨ tqFull (getTQ t (getCore t 0).run.queue) = false
    saves (s 12 false) ∧ room (s 12 false) ∧ (getCore (s 12 false) 0).s2fault = none ∧ (poolPages (s 12 false) 0 12).length = 12
    ∧ saves (s 11 false) ∧ room (s 11 false) ∧ (poolPages (s 11 false) 0 12).length < 12
    ∧ saves (s 12 true) ∧ ¬ room (s 12 true) ∧ (getCore State.reset 0).save = none := by
  refine ⟨by decide +kernel, by decide +kernel, by decide, ?_, by decide +kernel, by decide +kernel, ?_, by decide +kernel,
    by decide +kernel, by decide⟩
  · rw [poolPages_length _ _ _ (by decide +kernel)]; decide
  · rw [poolPages_length _ _ _ (by decide +kernel)]; decide

/-- A WAITF whose condition holds at once, after a stall, and not yet; one whose time is up and one whose is not. -/
theorem witness_WaitEvents :
    let b := fun (w : W32) (waited el : Nat) =>
      ({ ev := .waitf 3 0 w (some 9) 5 el, began := true, waited := waited } : BufItem)
    let s := fun (x : BufItem) => withCore { phase := .running, buf := [x], f := [(3, { bits := 2 })] }
    let wfi := fun (w : Bool) => withCore { buf := [{ ev := .wfi }], wake := w }
    let v := (getFlag (getCore (s (b 2 0 0)) 0) 3).bits
    (getCore (s (b 2 0 0)) 0).buf = [b 2 0 0] ∧ (b 2 0 0).began = true ∧ performStops (getCore (s (b 2 0 0)) 0) = false ∧ (2 : W32).toNat ≤ v.toNat ∧ (b 2 0 0).waited = 0 ∧ (b 2 1 0).waited ≠ 0
    ∧ (getCore (s (b 3 1 9)) 0).buf = [b 3 1 9] ∧ ¬ (3 : W32).toNat ≤ v.toNat ∧ (9 : Nat) ≤ 9 ∧ (8 : Nat) < 9
    ∧ (getCore (s { b 3 0 0 with began := false }) 0).buf = [{ b 3 0 0 with began := false }] ∧ (b 3 0 0).waited = 0
    ∧ performStops (getCore (s { b 3 0 0 with began := false }) 0) = false
    ∧ (getCore (wfi true) 0).frozen = false ∧ (getCore (wfi true) 0).fenced = false
    ∧ (getCore (wfi true) 0).wake = true ∧ (getCore (wfi false) 0).wake = false ∧ (getCore (wfi true) 0).buf = [{ ev := .wfi }] := by
  decide +kernel

theorem witness_WaitEvents_nothingLost (k : Core) (h : k.far = []) : NothingLost (withCore k) 0 := fun _ _ _ => by
  rw [show getCore (withCore k) 0 = k from rfl, h]; rfl

/-- A core that may fetch a bundle, and returned values with and without a trap. -/
theorem witness_WaitEvents_header :
    let s := { mapped {} with tags := [(0, { live := true })] }
    let r := fetchBundle s 0
    let t := withCore { rets := [{ dest := .s 5 }, { trap := some { cause := 6 } }] }
    mayFetch s (getCore s 0) = true ∧ (getCore s 0).buf = [] ∧ (getCore r.1 0).hdrOk ≠ some (getCore r.1 0).pc
    ∧ (∃ x, r.2 = .ok x ∧ ∃ z, (decodeSlots (beginBundle r.1 0 (headerOf x)) (presentSlots x)).mapError (fun e => e.2.2) = .ok z)
    ∧ mayFetch State.reset (getCore State.reset 0) = false ∧ (getCore t 0).rets[2]? = none
    ∧ (getCore t 0).frozen = false ∧ (getCore t 0).fenced = false ∧ (getCore (withCore { frozen := true }) 0).frozen = true
    ∧ (getCore t 0).rets[0]? = some { dest := .s 5 } ∧ (getCore t 0).rets[1]? = some { trap := some { cause := 6 } } :=
  ⟨by decide +kernel, by decide, by decide +kernel, both_of (by decide +kernel), by decide, by decide, by decide, by decide, by decide,
   by decide +kernel, by decide +kernel⟩

/-- Far accesses of core 0 to a target that is up and to one that is down: a whole load, one that goes on in another page, a
store. -/
theorem witness_WaitEvents_far :
    let ld : Access := { kind := .ld false, ea := 0x98000, size := 8, dst := 5 }
    let cross : Access := { ld with ea := 0x9FFFC }
    let st : Access := { kind := .st, ea := 0x98000, size := 8 }
    let b := fun a : Access => ({ slot := 1, ev := .access a } : BufItem)
    let it : FarItem := { va := 0x98000, size := 8, inc := 7, who := .core (b ld) ld }
    let part : FarItem := { it with va := 0x9FFFC, size := 4, who := .core (b cross) cross }
    let wr : FarItem := { it with write := true, who := .core (b st) st }
    let s := fun (x : FarItem) (up : Bool) => { withCore { far := [(1, [x])] } with pod := [(1, { up := up, inc := 7 })] }
    let load := fun (x : FarItem) (a : Access) => x.who = .core (b a) a ∧ a.kind = .ld false ∧ a.size ≠ 16 ∧ a.acc = [] ∧ a.done = 0
      ∧ a.poison = false ∧ x.write = false ∧ x.atomic = false
    let m := fun x : FarItem => ((eventsOf x.va x.size).headD (x.va, x.size)).2
    let queue := fun (t : State) (q : Nat) => SMap.get (fun _ => ([] : List FarItem)) (getCore t 0).far q
    queue (s it true) 1 = [it] ∧ (getCore (s it true) 0).fenced = false ∧ farUp (s it true) 1 = true
    ∧ (1 < 4096 → it.inc = (getPod (s it true) 1).inc) ∧ load it ld ∧ ld.size ≤ m it
    ∧ (getCore (onCore (s part true) 0 fun k => { k with buf := [b { cross with out := true }] }) 0).buf = [b { cross with out := true }]
    ∧ queue (s part true) 1 = [part] ∧ load part cross ∧ m part < cross.size ∧ part.size ≤ m part
    ∧ queue (s it false) 1 = [it] ∧ farUp (s it false) 1 = false
    ∧ queue (s wr true) 1 = [wr] ∧ farUp (s wr true) 1 = true ∧ wr.who = .core (b st) st ∧ st.kind = .st ∧ wr.write = true
    ∧ queue (s it true) 2 = [] ∧ (getCore (withCore { fenced := true }) 0).fenced = true := by decide +kernel

/-! ### The program buffer, the engines, firings and traps -/

/-- Core 0's program buffer holds one entry. -/
def acting (s : State) (e : Ev) : State := onCore s 0 fun k => { k with buf := [{ ev := e }] }

/-- The entry of a running core is at the head, and nothing stops it. -/
theorem head_acting (s : State) (e : Ev) (h : performStops (getCore s 0) = false) :
    (getCore (acting s e) 0).buf = [{ ev := e }] ∧ performStops (getCore (acting s e) 0) = false := by
  unfold acting
  rw [getCore_onCore_self]
  exact ⟨rfl, h⟩

/-- The translation of 0x98000 in the mapped state. -/
def at98 : Trans := { pa := 0x98000, shift := 42, level := 1, e1 := some 0x40000, e2 := 0x20000 }

/-- Nothing is under way to any package. -/
theorem nothingLost_mapped (r : Regs) (e : Ev) : NothingLost (acting (mapped r) e) 0 := fun _ _ _ => by
  unfold acting; rw [getCore_onCore_self]; rfl

/-- Every entry at the head of a running core; an access of 8 bytes to memory of this package, and a flag with and without
poison. -/
theorem witness_PerformEvents :
    let s := mapped {}
    let a : Access := { kind := .ld false, ea := 0x98000, size := 8, dst := 5 }
    let u := stampEvent (acting s (.access a)) 0
    (∀ e : Ev, (getCore (acting s e) 0).buf = [{ ev := e }] ∧ performStops (getCore (acting s e) 0) = false
      ∧ NothingLost (acting s e) 0 ∧ (acting s e).ltime + 1 < 2 ^ 48)
    ∧ (getCore State.reset 0).buf = [] ∧ eventsOf a.ea a.size = [(a.ea, a.size)] ∧ 0 < a.size ∧ a.done = 0 ∧ a.acc = []
    ∧ a.poison = false ∧ a.out = false ∧ translate u 0 0 a.ea true false false [0] = .ok at98
    ∧ translate u 0 0 a.ea false true false [0] = .ok at98 ∧ translate u 0 0 a.ea true true false [0] = .ok at98
    ∧ isPackageMem u at98.pa = true ∧ needsRepair u at98.pa = false ∧ NoMirrors (acting s (.access a))
    ∧ (∀ i, i < a.size → OffLeaves at98 (at98.pa + i)) ∧ poisonedAt (acting s (.access a)) at98.pa 8 = false := by
  refine ⟨fun e => ⟨(head_acting _ e (by decide)).1, (head_acting _ e (by decide)).2, nothingLost_mapped _ e,
    by show (0 : Nat) + 1 < 2 ^ 48; decide⟩, by decide,
    by decide, by decide, by decide, by decide, by decide, by decide, by decide +kernel,
    by decide +kernel, by decide +kernel, by decide +kernel, by decide, fun _ => rfl, ?_, by decide +kernel⟩
  intro i hi
  have hi' : i < 8 := hi
  refine ⟨?_, fun b hb => ?_⟩
  · simp only [Apart, at98]; omega
  · cases hb; simp only [Apart, at98]; omega

/-- The mapped state whose second 4 TiB are far memory of package 0, which is up. -/
def outer : State :=
  let s := mapped {}
  { s with mem := pokeBytes (pokeBytes s.mem 0x20008 (toBytes 8 (0xFF0800000000001F : W64))) 0x40008 (toBytes 8 (0xFF0004000000001F : W64)),
           pod := [(0, { up := true, inc := 7 })] }

/-- Accesses that go to another package, and a page whose bias changes. -/
theorem witness_PerformEvents_outward :
    let a : Access := { kind := .ld false, ea := 2 ^ 42, size := 8, dst := 5 }
    let u := stampEvent (acting outer (.access a)) 0
    let t : Trans := { at98 with pa := 2 ^ 51, e1 := some 0x40008, e2 := 0x20008 }
    let v := stampEvent (acting (mapped {}) (.biasflip true 0x98000)) 0
    translate u 0 0 a.ea true false false [0] = .ok t ∧ translate u 0 0 a.ea false true false [0] = .ok t
    ∧ translate u 0 0 a.ea true true false [0] = .ok t ∧ goesOut t = true ∧ needsRepair u t.pa = false
    ∧ (farQueue t.pa < 4096 → (getPod outer (farQueue t.pa)).up = true) ∧ eventsOf a.ea a.size = [(a.ea, a.size)]
    ∧ translate v 0 0 0x98000 false false false [] = .ok at98 ∧ isPackageMem v 0x40000 = true
    ∧ v.devHost = [] ∧ (∀ e ∈ v.cores, e.2.far = []) := by decide +kernel

/-- Function 0 with one node, quotas and records; tags 0 (live), 1 (cancelling) and 2 (another function's). -/
def tasked (ots : SMap OT) (more : List Host.Cell) : State :=
  let s := serves 0
  { s with fctx := [(0, { poolCtx with nodebase := 0xA0000, nodecount := 1, tagquota := 3 })], ots := ots,
           tags := [(0, { live := true, depth := 31 }), (1, { live := true, cancelling := true }), (2, { live := true, vf := 5 })],
           mem := s.mem ++ more }

/-- A join block at 0x50080 whose count is 2^32 − 2. -/
def joinCells : List Host.Cell := [(0x50080, 0xFE), (0x50081, 0xFF), (0x50082, 0xFF), (0x50083, 0xFF)]

theorem witness_PerformTasks_joins :
    let s := tasked [] joinCells
    let z := tasked [] []
    let p := { s with poison := [(0x50080 / 64, { poison := true })] }
    let count := natOfBytes (memBytes s 0x50080 4)
    let names := fun (s : State) => match blockXl (stampEvent s 0) 0 0 0x50080 128 (fun m => decide (m ≠ 2)) true true with
      | .ok t => decide (t.pa = 0x50080 ∧ t.e1 = some 0x40000 ∧ t.e2 = 0x20000)
      | .error _ => false
    (∀ e : Ev, (getCore (acting s e) 0).buf = [{ ev := e }] ∧ performStops (getCore (acting s e) 0) = false)
    ∧ NoMirrors s ∧ names (acting s (.joinadd 0x50080 1)) = true ∧ poisonedAt p 0x50080 4 = true ∧ poisonedAt s 0x50080 4 = false
    ∧ natOfBytes (memBytes z 0x50080 4) = 0 ∧ count ≠ 0 ∧ count + 1 < 2 ^ 32 ∧ 2 ^ 32 ≤ count + 2 :=
  ⟨fun e => head_acting _ e (by decide), fun _ => rfl, by decide +kernel, by decide +kernel, by decide +kernel,
   by decide +kernel, by decide +kernel, by decide +kernel, by decide +kernel⟩

/-- A tag that is free, cancelling, another function's or usable, quotas with room and without, and a free tag. -/
theorem witness_PerformTasks_tags :
    let s := tasked [] []
    let f := { s with fctx := [(0, { getFctx s 0 with tagquota := 2 })] }
    cancelPending s [0, 1] = true ∧ cancelPending s [0, 2] = false ∧ (getTag s 0).group = 0 ∧
    (getTag s 3).live = false ∧ (getTag s 2).live = true ∧ (getTag s 2).vf ≠ 0 ∧ (getTag s 1).live = true ∧ (getTag s 1).vf = 0
    ∧ (getTag s 1).cancelling = true ∧ tagLive (getTag s 0) = true ∧ (getTag s 0).vf = 0 ∧ (getTag s 0).depth < 32
    ∧ tagCount s 0 < (getFctx s 0).tagquota ∧ (getFctx f 0).tagquota ≤ tagCount f 0 ∧ freeTag s < 65536 := by
  refine ⟨by decide, by decide, by decide, by decide, by decide, by decide, by decide, by decide, by decide, by decide, by decide,
    by decide, by decide, by decide, ?_⟩
  unfold freeTag
  simp only
  split
  · assumption
  · decide

/-- A record's address, and its translation by the slice instructions. -/
def sliceAt (s : State) (opening : Bool) : Bool :=
  match sliceRecord (stampEvent s 0) 0 0 opening 0x50100 with
  | .ok pa => decide (pa = 0x50100)
  | .error _ => false

/-- Records that are free, live, fed and releasing; slices at and above the counters; storage that is there and is not. -/
theorem witness_PerformTasks_slices :
    let leaf := ((List.range 8).zip (toBytes 8 (leafEnt 0x80000 false))).map fun e => (0x70000 + e.1, e.2)
    let live := tasked [(0x50100, openRec)] (leaf.filter fun e => decide (e.2 ≠ 0))
    let at_ := fun (o : OT) => tasked [(0x50100, o)] []
    let fed := at_ { openRec with feed := some (1, 2) }
    let gone := at_ { openRec with st := 2 }
    let bare := { at_ { openRec with q := 1024 } with fctx := [(0, { poolCtx with quota := 0 })] }
    sliceAt (acting live .ifence) false = true ∧ sliceAt (acting (tasked [] []) .ifence) true = true
    ∧ (getOT gone 0x50100).st ≠ 1 ∧ (getOT fed 0x50100).st = 1 ∧ (getOT fed 0x50100).feed ≠ none
    ∧ (getOT live 0x50100).st = 1 ∧ (getOT live 0x50100).feed = none
    ∧ (∃ u, claim (stampEvent live 0) 0x50100 2 = .ok u ∧ feedsOf u 0x50100 = [])
    ∧ (∃ i n, claim (stampEvent bare 0) 0x50100 1024 = .error (i, n)) ∧ (getOT live 0x50100).t ≤ 2 ∧ 1 < (getOT live 0x50100).t
    ∧ feedsOf live 0x50100 = [] ∧ (getOT (tasked [] []) 0x50100).st = 0 ∧ (getOT live 0x50100).st ≠ 0 :=
  ⟨by decide +kernel, by decide +kernel, by decide, by decide, by decide, by decide, by decide, okAnd _ (by decide +kernel),
   failure_of (by decide +kernel), by decide, by decide, by decide +kernel, by decide, by decide⟩

/-- A record of 4 × 4 elements, ready to be opened, and one that is all zeros; the one node of the function. -/
theorem witness_PerformTasks_open :
    let cells : List Host.Cell := [(0x50130, 0x40), (0x50138, 4), (0x5013A, 4), (0x5013C, 1)]
    let s := stampEvent (tasked [] cells) 0
    recordOk (readRecord s 0x50100 0 0) = true ∧ recordOk (readRecord (tasked [] []) 0x50100 0 0) = false
    ∧ ∃ r, takeNode s 0 = .ok r := by
  refine ⟨by decide +kernel, by decide +kernel, ?_⟩
  apply success_of
  have h : ∀ t, freeStart t 1 = 0 := fun t => by simp [freeStart, Nat.mod_one]
  unfold takeNode
  have n : (getFctx (stampEvent (tasked [] [(0x50130, 0x40), (0x50138, 4), (0x5013A, 4), (0x5013C, 1)]) 0) 0).nodecount = 1 := by
    decide +kernel
  simp only [n, h]
  decide +kernel

/-- Bindings of records that are live and are not; SPAWN with an image into a full queue and into one with room. -/
theorem witness_PerformTasks_spawn :
    let s := tasked [(0x50100, openRec)] []
    let img := List.replicate 64 (0 : Byte)
    let u := { s with tqs := [(3, { vf := some 0, ring := 2 ^ 50 })] }
    let names := match recordAt (stampEvent s 0) 0 0 0x50100 (fun _ => true) with
      | .ok pa => decide (pa = 0x50100)
      | .error _ => false
    tqFull (getTQ u 3) = false ∧ spawnFault (stampEvent u 0) 0 0x96000 3 img false = none
    ∧ (tqReach (stampEvent u 0) (getTQ u 3) (getTQ u 3).tail true).toBool = false
    ∧ names = true ∧ (getOT s 0x50100).st = 1 ∧ (getOT (tasked [] []) 0x50100).st ≠ 1 ∧ 64 ≤ img.length
    ∧ imagePending (getCore s 0) = false ∧ spawnFault (stampEvent s 0) 0 0x96000 3 img false = none
    ∧ tqFull (getTQ s 3) = false ∧ tqSlot (stampEvent s 0) (getTQ s 3) (getTQ s 3).tail true = some slot3
    ∧ spawnFault (stampEvent { s with tqs := [(2, { vf := some 0, tail := 1 })] } 0) 0 0x96000 2 img false = none
    ∧ tqFull (getTQ s 2) = true ∧ (getCore s 0).regs.cr.spawnwait.toNat ≠ 0 := by decide +kernel

/-- Where no page is lost, no entry waits for a repair. -/
theorem headWaits_none {s : State} (h : s.lost = []) (c : Nat) (b : BufItem) : headWaits s c b = false := by
  have n : ∀ pa, needsRepair s pa = false := fun pa => by simp [needsRepair, isLost, h, SMap.get]
  unfold headWaits
  split <;> simp [n]

/-- A block in a lost page that is to be repaired. -/
theorem witness_PerformTasks_lost :
    let s := { tasked [] [] with lost := [(5, true)], links := [(5, some { pa := 2 ^ 51 + 2 ^ 38, inc := 7 })],
                                 pod := [(1, { up := true, inc := 7 })] }
    headWaits (acting s (.joinadd 0x50080 1)) 0 { ev := .joinadd 0x50080 1 } = true
    ∧ (∀ e b, headWaits (acting (tasked [] []) e) 0 b = false) :=
  ⟨by decide +kernel, fun _ _ => headWaits_none rfl 0 _⟩

/-- Rejections with a page to cut, with no node to copy a shared root into; forks of a live record into a free one and a live one, with
a free node and without; records that are poisoned, and slots that can feed a tensor and cannot. -/
theorem witness_PerformTasks_reject :
    let leaf := ((List.range 8).zip (toBytes 8 (leafEnt 0x80000 false))).map fun e => (0x70000 + e.1, e.2)
    let live := tasked [(0x50100, openRec)] (leaf.filter fun e => decide (e.2 ≠ 0))
    let bare := { live with fctx := [(0, { poolCtx with nodebase := 0xA0000 })] }
    let shared := { bare with refs := [(0x70, 2)] }
    let bad := { tasked [] [] with poison := [(0x50100 / 64, { poison := true })] }
    let cmd : Cmd := { word := wordOf (.vadd fi (opV 6 4 4)), descs := [tileO, tileM, tileM] }
    let r : Rule := { st := .armed, srcPa := 0x50100, cmd := cmd }
    max 2 (getOT live 0x50100).c = 2
    ∧ (∃ u, reject (stampEvent live 0) 0x50100 2 (sigOf (stampEvent live 0) 0 0) = .ok u)
    ∧ feedsOf live 0x50100 = [] ∧ succeeds (reject (stampEvent shared 0) 0x50100 2 (sigOf (stampEvent shared 0) 0 0)) = false
    ∧ (match recordAt (stampEvent live 0) 0 0 (BitVec.ofNat 64 0x50200) cacheable with
      | .ok pb => decide (pb = 0x50200)
      | .error _ => false) = true
    ∧ (getOT live 0x50200).st = 0 ∧ (getOT live 0x50100).st = 1 ∧ freeNodes (stampEvent live 0) 0 ≠ 0 ∧ freeNodes (stampEvent bare 0) 0 = 0
    ∧ poisonedAt (prepare (stampEvent bad 0) 0x50100 256 {}) 0x50100 256 = true ∧ canFeed r = true ∧ canFeed {} = false
    ∧ succeeds (takeNode (prepare (stampEvent bare 0) 0x50100 256 {}) 0) = false := by
  refine ⟨by decide, success_of (by decide +kernel), ?_⟩
  decide +kernel

/-- STEPEND's two granules; a core that is not idle. -/
theorem witness_PerformTasks_stepend :
    let s := acting (mapped {}) (.stepend 0x98000 5 none)
    let u := stampEvent s 0
    let t := fun a : Nat => { at98 with pa := a }
    coreIdle (getCore s 0) = true ∧ translate (hlcLocal u 0) 0 0 0x98000 false true false [0] = .ok (t 0x98000)
    ∧ translate u 0 0 0x98010 false true false [0] = .ok (t 0x98010) ∧ isPackageMem (hlcLocal u 0) 0x98000 = true
    ∧ isPackageMem u 0x98010 = true ∧ needsRepair (hlcLocal u 0) 0x98000 = false ∧ needsRepair u 0x98010 = false
    ∧ coreIdle (setEng (getCore s 0) 1 { queue := [{}] }) = false := by decide +kernel

theorem witness_PerformTasks_noMirrors (s : State) (h : s.mirrors = []) : NoMirrors s := fun _ => by
  unfold mirrorReg; rw [h]; rfl

/-- A reference that core 0 can name, of sequence 7, and its fields. -/
def ref7 : W64 := BitVec.ofNat 64 (Config.pkg.toNat * 2 ^ 52 + 7)

theorem ref7_fields : field ref7 52 12 = Config.pkg.toNat ∧ field ref7 44 8 = 0 ∧ field ref7 40 4 = 0 ∧ field ref7 0 40 = 7 := by
  unfold ref7
  generalize Config.pkg = p
  revert p
  decide +kernel

/-- A ring at 0x90000 whose record 7 is whole, one that is not mapped, one that is poisoned, and one that has been overwritten. -/
theorem witness_PerformTasks_edgerd :
    let core : Core := { getCore (mapped {}) 0 with regs := { cr := { edgebase := 0x90000 } } }
    let s := { onCore (mapped {}) 0 (fun _ => core) with mem := pokeBytes (mapped {}).mem (0x900E8) [7] }
    let at_ := ringSlot 0x90000 7
    let bad := { s with poison := [(at_ / 64, { poison := true })] }
    let far_ := onCore (mapped {}) 0 fun k => { k with regs := { cr := { edgebase := 0x40000000000 } } }
    let rd := fun (s : State) => readPhys (touchLeaves (stampEvent s 0) { at98 with pa := at_ } false) at_ 16 {}
    let word := fun (s : State) => (ofBytes 64 ((rd s).2.1.drop 8) : W64)
    160 ≤ field (0x000FF00000000001 : W64) 44 8
    ∧ (if (getCore s 0).phase = .idle then (getCore s 0).prevVf else some (getCore s 0).run.vf) = some 0
    ∧ field (0 : W64) 0 40 = 0 ∧ (ringTarget (stampEvent s 0) 0 at_ false).isSome = true
    ∧ (ringTarget (stampEvent far_ 0) 0 (ringSlot 0x40000000000 7) false).isNone = true
    ∧ (rd bad).2.2 = true ∧ (rd s).2.2 = false ∧ field (word s) 60 4 = 0 ∧ field (word s) 0 40 = 7
    ∧ field (word (mapped {})) 0 40 ≠ 7 := by decide +kernel

/-- A block whose participant is core 0, and blocks whose participants are core 1 and, in another team, core 8 too. -/
def blockOf3 (b0 b1 : Byte) : List Byte := b0 :: b1 :: List.replicate 62 0

/-- BAR: its granules, sound and poisoned; arrivals at a new barrier, at one that stands and at one that is broken; participants that
are missing, or of another team; a pod arrival that waits for a far access; a release that is owed and one that is not. -/
theorem witness_PerformTasks_bar :
    let s := mapped {}
    let ok := fun (s : State) => match blockXl (stampEvent s 0) 0 0 0x97000 64 (fun m => decide (m ≠ 2)) true false with
      | .ok t => decide (t.pa = 0x97000)
      | .error _ => false
    let rd := fun (s : State) => readPhys (touchLeaves (stampEvent s 0) { at98 with pa := 0x97000 } false) 0x97000 16 {}
    let bad := { s with poison := [(0x97000 / 64, { poison := true })] }
    let pmask := fun b : List Byte => (ofBytes 160 (b.take 20) : BitVec 160)
    let x : Barrier := { pa := 0x97000, slot := 4 }
    let with_ := fun (x : Barrier) => { s with barriers := [x] }
    let far_ := onCore s 0 fun k => { k with far := [(1, [{}])], farSeq := 1 }
    let b : BufItem := { ev := .bar 3 0x97000 5 none [] }
    ok (acting s .ifence) = true ∧ (rd s).2.2 = false ∧ (rd bad).2.2 = true ∧ (blockOf3 1 0).length = 64
    ∧ (pmask (blockOf3 1 0)).getLsbD 0 = true ∧ levelLeaves 0 0 (pmask (blockOf3 1 0)) = false
    ∧ (pmask (blockOf3 2 0)).getLsbD 0 = false ∧ levelLeaves 0 0 (pmask (blockOf3 1 1)) = true
    ∧ (stampEvent s 0).barriers.find? (sameBarrier 0x97000 0 0) = none ∧ freeBarrierSlot (stampEvent s 0) = some 0
    ∧ (stampEvent (with_ x) 0).barriers.find? (sameBarrier 0x97000 0 0) = some x ∧ x.broken = false
    ∧ (stampEvent (with_ { x with broken := true }) 0).barriers.find? (sameBarrier 0x97000 0 0) = some { x with broken := true }
    ∧ farPending (getCore far_ 0) (tried (getCore far_ 0) b).farMark = true
    ∧ farPending (getCore s 0) (tried (getCore s 0) b).farMark = false ∧ copyPending (getCore s 0) (tried (getCore s 0) b).mark none = false
    ∧ (takeOwed [(4, 1, {})] 4).isSome = true ∧ takeOwed [] 4 = none := by decide +kernel

/-- The first cells of an area of function 0 without commands or rules. -/
def areaCells : Img := [(0, 1), (9, 0xA0), (10, 0x0B)]

/-- Contexts that are held and not, engines that have stopped and have not; the last granule of an area, written and read, and its
end; an area that may be loaded and one that may not. -/
theorem witness_PerformTasks_context :
    let s := running 4 (fun k => { k with held := true }) []
    let u := stampEvent s 0
    let a := 0x300000 + areaSize - 16
    let t := { at98 with pa := a }
    let bad := { s with poison := [(a / 64, { poison := true })] }
    let rd := fun s : State => readPhys (touchLeaves (stampEvent s 0) t false) t.pa 16 {}
    (getCore (mapped {}) 0).held = false ∧ (getCore s 0).held = true ∧ enginesStopped (getCore s 0) = true
    ∧ accessesDone (getCore s 0) = true
    ∧ accessesDone { getCore s 0 with rets := [{}] } = false ∧ areaSize - 16 < areaSize
    ∧ translate u 0 0 a false true false [0] = .ok t ∧ translate u 0 0 a true false false [0] = .ok t ∧ isPackageMem u a = true
    ∧ goesOut t = false ∧ needsRepair u a = false ∧ imagePending (getCore s 0) = false ∧ (rd s).2.2 = false ∧ (rd bad).2.2 = true
    ∧ areaOk u 0 areaCells = true ∧ areaOk u 0 [] = false := by decide +kernel

/-- Steps, fences, drains with copies and without, and the last step of FINISH. -/
theorem witness_PerformTasks_waits :
    let k : Core := getCore (mapped {}) 0
    let x := active (.cpy f0 (opE 4 5 0 0 1))
    let d := { setActs k 9 [x] with actSeq := 1 }
    let b : BufItem := { ev := .drain (some 1) }
    let f : Core := { k with phase := .finishing 4 false 0 }
    let far_ : Core := { k with far := [(1, [{}])], farSeq := 1 }
    performStops k = false ∧ coreIdle k = true ∧ coreIdle d = false ∧ farPending k k.farSeq = false ∧ farPending far_ far_.farSeq = true
    ∧ copyPending k (tried k b).mark none = false ∧ copyPending d (tried d b).mark none = true
    ∧ copyPending k (tried k b).mark (some 1) = false ∧ squashWaits (setActs k 2 [{ x with stage := 1 }]) = true
    ∧ copyPending d (tried d b).mark (some 1) = true ∧ copyPending d (tried d b).mark (some 2) = false ∧ squashWaits k = false
    ∧ performStops f = false ∧ f.ptraps = [] ∧ recJoin f.run.record = 0 ∧ workWaits (mapped {}) 0 = false := by decide +kernel

/-- A tile seen through a window of the stash. -/
def tileW : W512 := tile 1 0x60000 4 4 1 4 16 64 (2 ^ 300 + 3 * 2 ^ 272)
/-- MMA of it with itself. -/
def mmaCmd (f : Frame) : Cmd := { word := wordOf (.mma f (opE 4 4 0 2)), descs := [tileW, tileW] }

/-- Core 0 with a window as given and an entry at the head of its buffer. -/
def windowed (e : Ev) (dirty : List Dirty) (eng : Engine := {}) : State :=
  onCore (mapped {}) 0 fun k => setEng { k with wins := [{ desc := tileW, dirty := dirty }], buf := [{ ev := e }] } 1 eng

/-- Windows that are not there, busy, clean and dirty. -/
theorem witness_PerformEvents_windows :
    let clean := getCore (windowed (.sflush true tileW) []) 0
    let busy := getCore (windowed (.sflush true tileW) [] { queue := [mmaCmd f0] }) 0
    let g : Dirty := { pa := 0x60000 }
    let dirty := getCore (windowed (.sdrop tileW none) [g]) 0
    let b : BufItem := { ev := .sflush true tileW }
    windowOf clean tileM = none ∧ windowOf clean tileW = some { desc := tileW } ∧ windowBusy clean (tried clean b).mark tileW = false
    ∧ windowBusy busy (tried busy b).mark tileW = true ∧ windowOf busy tileW = some { desc := tileW } ∧ performStops busy = false
    ∧ performStops dirty = false ∧ windowOf dirty tileW = some { desc := tileW, dirty := [g] } ∧ lowestDirty [g] = some g
    ∧ windowBusy dirty (tried dirty b).mark tileW = false ∧ performStops clean = false := by decide +kernel

/-- Core 0 with an engine as given and one window, in a state with stash-allowed memory. -/
def engined (q : Nat) (e : Engine) (k : Core → Core := id) : State :=
  onCore { placeWord State.reset 0 with agenda := [] } 0 fun x => setEng (k { x with wins := [{ desc := tileW }] }) q e

/-- Empty queues, a command with its takes, predicated off and not, and its decoding. -/
theorem witness_EngineEvents_issue :
    let s := fun (t : Bool) => engined 1 { queue := [{ mmaCmd f0 with tokenOnly := t }] }
    let e := engined 1 {}
    (1 : Nat) < 6 ∧ canIssue 0 (getCore e 0) 1 = false ∧ (getEng (getCore e 0) 4).again = []
    ∧ canIssue (s true).now (getCore (s true) 0) 1 = true ∧ laneFirst (s true) 0 1 = false
    ∧ canIssue (s false).now (getCore (s false) 0) 1 = true ∧ laneFirst (s false) 0 1 = false
    ∧ (getEng (getCore (s false) 0) 1).queue = [mmaCmd f0]
    ∧ isCopyWord (mmaCmd f0).word = false ∧ (pick (mmaCmd f0).word).isSome = true := by decide +kernel

/-- A command that writes no record and reads no page that is lost. -/
theorem witness_EngineEvents_unfed :
    let s := engined 1 { queue := [mmaCmd f0] }
    (getEng (getCore s 0) 1).refused = [] ∧ fedRecord s 0 (mmaCmd f0) = none ∧ lostRecord s 0 { cmd := mmaCmd f0 } = none := by
  decide +kernel

/-- A command that has done everything, without gives and with one; FIFOs with 14 and with 15 tokens. -/
theorem witness_EngineEvents_retire :
    let x := fun (f : Frame) => ({ cmd := mmaCmd f, stage := 2, ran := true } : Active)
    let s := fun (f : Frame) (n : Nat) => engined 1 { active := [x f] } fun k =>
      { k with tokens := [(fifoGiveR 1, List.replicate n {})] }
    let g : Frame := { f0 with giveR := true }
    let plain := fun (f : Frame) (n : Nat) => retireIndex (getCore (s f n) 0) 2 = some 0 ∧ actsOf (getCore (s f n) 0) 2 = [x f]
      ∧ mayRetire (getCore (s f n) 0) 2 (x f) = true ∧ opcodeOf (x f).cmd.word ≠ 0xB5 ∧ (x f).pubs = [] ∧ (x f).rq = []
      ∧ (x f).traps = [] ∧ (x f).fpN = 0 ∧ (x f).holds = []
    let y : Active := { cmd := mmaCmd g, stage := 2, ran := true, retiring := true, giveR := true }
    let held := engined 1 { active := [y] }
    plain f0 0 ∧ (x f0).cmd.word.getLsbD 52 = false ∧ (x f0).cmd.word.getLsbD 53 = false ∧ plain g 14 ∧ plain g 15
    ∧ (x g).cmd.word.getLsbD 52 = true ∧ (x g).cmd.word.getLsbD 53 = false
    ∧ (getTok (getCore (s g 14) 0) (fifoGiveR 1)).length ≤ 14 ∧ ¬ (getTok (getCore (s g 15) 0) (fifoGiveR 1)).length ≤ 14
    ∧ (∀ b ∈ agentList, ∀ z ∈ actsOf (getCore (s g 14) 0) b, z.retiring = false)
    ∧ (∀ b ∈ agentList, b ≠ 2 → ∀ z ∈ actsOf (getCore held 0) b, z.retiring = false) ∧ actsOf (getCore held 0) 2 = [y]
    ∧ y.retiring = true ∧ y.giveR = true ∧ y.giveL = false ∧ (getCore held 0).frozen = false ∧ (getCore held 0).fenced = false := by
  decide +kernel

/-- Core 0's LDQ with one read. -/
def readsOne (it : Item) : State := engined 0 { active := [{ stage := 1, reads := [it] }] }

/-- A read of the last 8 bytes of a granule of the pool; deadlocks of 4,096 cycles and of 4,095. -/
theorem witness_EngineEvents_access :
    let e : Elem := { addr := 0x100038, size := 8 }
    let it : Item := { space := .pa, elems := [e] }
    let x : Active := { stage := 1, reads := [it] }
    let s := { readsOne it with fctx := [(0, poolCtx)] }
    (accessPairs (getCore s 0) 1 true)[0]? = none ∧ (accessPairs (getCore s 0) 1 false)[0]? = some (0, 0)
    ∧ (actsOf (getCore s 0) 1)[0]? = some x ∧ x.reads[0]? = some it ∧ mayAccess (getCore s 0) 1 false (0, 0) = true
    ∧ it.space = .pa ∧ it.win = none ∧ it.elems = [e] ∧ e.nib = 0 ∧ poolOwns s (vmid (getCore s 0)) e.addr = true
    ∧ isPackageMem s e.addr = true ∧ needsRepair s e.addr = false ∧ e.addr % 64 + e.size ≤ 64
    ∧ 4096 ≤ (getCore (withCore { deadlock := 4096 }) 0).deadlock ∧ (getCore (withCore { deadlock := 4095 }) 0).deadlock < 4096 := by
  decide +kernel

theorem witness_EngineEvents_noMirrors (it : Item) : NoMirrors { readsOne it with fctx := [(0, poolCtx)] } := fun _ => rfl

/-- The next event of the fetcher is the fill of a granule, which succeeds, or the read of block bytes, which does. -/
def fetches (s : State) (port : Nat) (fill : Bool) : Bool := match fetchNext s 0 port with
  | some (_, x, it, some (i, g)) => fill && succeeds (fillGranule (stampEvent s 0) { c := 0, x := x, port := it.port, inWin := true } i g)
  | some (some _, x, it, none) => !fill && succeeds (readItem (stampEvent s 0) { c := 0, x := x, port := it.port } it)
  | _ => false

/-- A 4 × 4 tile of cb4 in memory. -/
def tileB : W512 := tile 1 0x60000 4 4 1 1 4 16 (5 * 2 ^ 112)

/-- A granule that a read waits for, and one that an MMA will read; block bytes that it will read; a core without
accesses. -/
theorem witness_EngineEvents_windows :
    let it : Item := { port := 3, space := .stash, elems := [{ size := 4 }] }
    let x : Active := { stage := 1, reads := [it] }
    let s := readsOne it
    let m := engined 1 { queue := [mmaCmd f0] }
    let b := engined 1 { queue := [{ mmaCmd f0 with descs := [tileB, tileB] }] }
    (∀ b ∈ agentList, waitsFor (getCore State.reset 0) b 0 = none) ∧ waitsFor (getCore s 0) 1 0 = some (x, it, 0)
    ∧ succeeds (fillGranule (stampEvent s 0) { c := 0, x := x, port := 3, inWin := true } 0 0) = true
    ∧ (fetchNext State.reset 0 1).isNone = true ∧ fetchStops (getCore m 0) 1 = false ∧ fetches m 1 true = true
    ∧ fetchStops (getCore b 0) 1 = false ∧ fetches b 1 false = true
    ∧ (∀ b ∈ agentList, ∀ (wr : Bool) (n : Nat), (accessPairs (getCore State.reset 0) b wr)[n]? = none) ∧ portAccess (getCore State.reset 0) 1 = none := by
  refine ⟨by decide +kernel, by decide +kernel, by decide +kernel, by decide +kernel, by decide +kernel, by decide +kernel,
    by decide +kernel, by decide +kernel, ?_, by decide +kernel⟩
  intro b hb wr n
  have h : ∀ b ∈ agentList, ∀ w : Bool, accessPairs (getCore State.reset 0) b w = [] := by decide +kernel
  rw [h b hb wr]; rfl

/-- A read of an address that no table maps, and one that its window is filled for. -/
theorem witness_EngineEvents_fault :
    let it := fun a : Nat => ({ port := 3, elems := [{ addr := a, size := 4 }] } : Item)
    let x := fun a : Nat => ({ stage := 1, reads := [it a] } : Active)
    let s := fun a : Nat => readsOne (it a)
    let r := fun a : Nat => makeItem (s a) 0 1 (x a) (it a)
    portAccess (getCore (s (2 ^ 44)) 0) 3 = some (1, false, 0, 0) ∧ getAct (getCore (s (2 ^ 44)) 0) 1 0 = x (2 ^ 44)
    ∧ (x (2 ^ 44)).reads[0]? = some (it (2 ^ 44)) ∧ (r (2 ^ 44)).2.2 = false ∧ haltedAt (r (2 ^ 44)).2.1 3 = true
    ∧ (let i : Item := { port := 3, space := .stash, elems := [{ size := 4 }] }
       let y : Active := { stage := 1, reads := [i] }
       let q := makeItem (readsOne i) 0 1 y i
       portAccess (getCore (readsOne i) 0) 3 = some (1, false, 0, 0) ∧ q.2.2 = false ∧ haltedAt q.2.1 3 = false ∧ q.2.1.s2 = false) := by
  decide +kernel

/-- A rule at slice 0 of the open record, in slot 2, as given. -/
def ruledAt (f : Rule → Rule) (e : Engine := {}) : State :=
  let c : Cmd := { word := wordOf (.vadd fi (opV 4 6 4)), descs := [tileM, tileO, tileM] }
  let r : Rule := { st := .armed, srcPa := 0x50100, src := 0x50100, cmd := c }
  onCore (opened 0) 0 fun k => setEng (setRule k 2 (f r)) 3 e

/-- Firings that are ready, of a page that is lost, to be repaired or not, and of one that is not, of a skipped slice and of a tile that EPQ holds; firings
that end well and with a trap. -/
theorem witness_FiringEvents :
    let s := ruledAt id
    let r := getRule (getCore s 0) 2
    let lost := { s with lost := [(8, true)] }
    let linked := { lost with links := [(8, some { pa := 2 ^ 51 + 2 ^ 38, inc := 7 })], pod := [(1, { up := true, inc := 7 })] }
    let x : Active := { rule := some 2, stage := 2, ran := true, cmd := r.cmd }
    let ends := ruledAt (fun r => { r with st := .firing }) { active := [x] }
    let y := { x with traps := [{ cause := 0x10 }] }
    let bad := ruledAt (fun r => { r with st := .firing }) { active := [y] }
    let skips := ruledAt fun r => { r with st := .firing, skip := true, skipAt := 0 }
    let mma : Cmd := { word := wordOf (.mma fi (opE 6 4 0 2)), descs := [tileO, tileM] }
    let epi : Cmd := { word := wordOf (.epi f0 (opE 4 0 0 2)), descs := [tileM] }
    let held := onCore (opened 0) 0 fun k => setEng (setRule k 2 { st := .armed, srcPa := 0x50100, src := 0x50100, cmd := mma }) 2
      { active := [{ cmd := epi, stage := 1 }] }
    tileHeld (getCore s 0) 3 r.cmd = false ∧ nextFiring held 0 1 = some 2 ∧ tileHeld (getCore held 0) 1 mma = true
    ∧ nextFiring skips 0 3 = some 2 ∧ (getRule (getCore skips 0) 2).skip = true ∧ x.halted2 = none ∧ x.s2 = false ∧ x.void = false
    ∧ nextFiring (opened 0) 0 3 = none ∧ laneOpen (getCore s 0) 3 = true ∧ (getEng (getCore s 0) 3).streak < 16
    ∧ nextFiring s 0 3 = some 2 ∧ r.skip = false ∧ lostSource s r = none ∧ (pick r.cmd.word).isSome = true
    ∧ nextFiring lost 0 3 = some 2 ∧ tileHeld (getCore lost 0) 3 r.cmd = false
    ∧ lostSource lost (getRule (getCore lost 0) 2) = some 0x80000 ∧ needsRepair lost 0x80000 = false
    ∧ nextFiring linked 0 3 = some 2 ∧ tileHeld (getCore linked 0) 3 r.cmd = false
    ∧ lostSource linked (getRule (getCore linked 0) 2) = some 0x80000 ∧ needsRepair linked 0x80000 = true
    ∧ (getRule (getCore ends 0) 2).st = .firing ∧ x.holds = [] ∧ (getRule (getCore bad 0) 2).pend = .none ∧ y.farOut = 0
    ∧ (getEng (getCore s 0) 3).active.findIdx? (fun y => y.rule.isSome) = none
    ∧ (getEng (getCore ends 0) 3).active.findIdx? (fun y => y.rule.isSome) = some 0 ∧ actsOf (getCore ends 0) 4 = [x]
    ∧ (getCore ends 0).rq.length ≤ 32 ∧ actDone x = true ∧ (getRule (getCore ends 0) 2).feed = none
    ∧ (getRule (getCore ends 0) 2).pend = .none ∧ (getRule (getCore ends 0) 2).revokeAt = none
    ∧ actsOf (getCore bad 0) 4 = [y] ∧ y.traps = [{ cause := 0x10 }] := by decide +kernel

/-- A failing decode, as a computation. -/
def failsAt (x : Except (Nat × W64 × Block) (List (Nat × W64 × Instr))) : Bool := match x with
  | .error (_, _, .trap _) => true
  | _ => false

theorem fails_of {x : Except (Nat × W64 × Block) (List (Nat × W64 × Instr))} (h : failsAt x = true) :
    ∃ n w t, x = .error (n, w, .trap t) := by
  match x, h with
  | .error (n, w, .trap t), _ => exact ⟨n, w, t, rfl⟩

/-- Core 0 with a trap vector and a pending trap. -/
def trapped (buf : List BufItem) : State :=
  onCore (mapped {}) 0 fun k => { k with ptraps := [{ cause := 0x10 }], buf := buf, regs := { cr := { tvec := 0x40 } } }

/-- A trap that is due at a boundary, ones that wait for it and for an engine, and none; returns to the task and to an outer
handler; stage-2 faults before and after their report. -/
theorem witness_TrapEvents :
    let s := trapped []
    let w := trapped [{ ev := .access { done := 1 }, holds := true }]
    let busy := onCore s 0 fun k => setEng k 1 { active := [{ cmd := mmaCmd f0, stage := 1 }] }
    let back := fun st : W64 => { s with ctx := { s.ctx with eret := true, old := { cr := { status := st } } } }
    let f : S2Fault := { port := 1, va := 0x98000 }
    let held := { withCore { phase := .running, s2fault := some { f with handle := 5 } } with nextHandle := 6 }
    let fresh := withCore { phase := .running, s2fault := some f }
    let run : HeldRun := { record := BitVec.ofNat 512 (0x100000 * 2 ^ 256), why := .stage2 { f with handle := 5 }, handle := 5 }
    let away := { State.reset with held := [run], nextHandle := 6, ctxPages := [(16, ([0x100000], 3))] }
    away.held.filter (fun y => decide (y.handle = 5)) = [run] ∧ run.why = .stage2 { f with handle := 5 }
    ∧ (SMap.get (fun _ => (([], 0) : List Nat × Nat)) away.ctxPages (recCtx run.record / 65536)).2 = 3
    ∧ dueTrap (getCore s 0) = some { cause := 0x10 } ∧ coreStops s (getCore s 0) = false ∧ atBoundary (getCore s 0) 0x10 = true
    ∧ field (getCore s 0).regs.cr.tvec 5 50 ≠ 0 ∧ dueTrap (getCore State.reset 0) = none ∧ stopsDone (getCore s 0) = true
    ∧ dueTrap (getCore busy 0) = some { cause := 0x10 } ∧ stopsDone (getCore busy 0) = false
    ∧ (back 0).ctx.eret = true ∧ stPPL (back 0).ctx.old.cr.status ≠ 1 ∧ stPPL (back 4).ctx.old.cr.status = 1
    ∧ dueTrap (getCore w 0) = some { cause := 0x10 } ∧ atBoundary (getCore w 0) 0x10 = false
    ∧ (getCore State.reset 0).s2fault = none ∧ (getCore fresh 0).s2fault = some f ∧ f.handle = 0 ∧ (getCore fresh 0).fenced = false
    ∧ (getCore held 0).s2fault = some { f with handle := 5 } ∧ (∀ y ∈ held.held, y.handle ≠ 5)
    ∧ (∀ d, d < 160 → d ≠ 0 → (getCore held d).s2fault.map (fun f => f.handle) ≠ some 5) := by decide +kernel

/-- A bundle whose slot 3 has a free opcode. -/
theorem witness_TrapEvents_decode :
    let s := onCore { placeWord State.reset 0xFF00000000000000 with agenda := [], tags := [(0, { live := true })] } 0 fun k =>
      { k with regs := { cr := { tvec := 0x40 } } }
    let r := fetchBundle s 0
    mayFetch s (getCore s 0) = true ∧ (getCore s 0).buf = [] ∧ accessesDone (getCore s 0) = true ∧ vectorQuiet (getCore s 0) = true
    ∧ field (getCore s 0).regs.cr.tvec 5 50 ≠ 0 ∧ stopsDone (getCore s 0) = true ∧ (getCore s 0).waited = 0
    ∧ ∃ w, r.2 = .ok w ∧ ∃ n wd x, decodeSlots (beginBundle r.1 0 (headerOf w)) (presentSlots w) = .error (n, wd, .trap x) := by
  refine ⟨by decide +kernel, by decide, by decide, by decide +kernel, by decide, by decide +kernel, by decide, ?_⟩
  obtain ⟨w, h, q⟩ := okAnd (x := (fetchBundle (onCore { placeWord State.reset 0xFF00000000000000 with
      agenda := [], tags := [(0, { live := true })] } 0 fun k => { k with regs := { cr := { tvec := 0x40 } } }) 0).2)
    (fun w => failsAt (decodeSlots (beginBundle (fetchBundle (onCore { placeWord State.reset 0xFF00000000000000 with
      agenda := [], tags := [(0, { live := true })] } 0 fun k => { k with regs := { cr := { tvec := 0x40 } } }) 0).1 0 (headerOf w))
      (presentSlots w)) = true) (by decide +kernel)
  exact ⟨w, h, fails_of q⟩

/-! ### The step and the encoding -/

/-- The state after reset with a word placed; its bundle issues, and nothing holds it. -/
theorem witness_StepRunsDecoded :
    let s := State.reset.withFetchWord 64 0x01000A30E0000000
    let q := { s with agenda := [] }
    let r := fetchBundle q 0
    s.agenda = [.ev 0 (.bundleIssue 0)] ∧ stopped q = false ∧ mayFetch q (getCore q 0) = true
    ∧ (∃ w, r.2 = .ok w ∧ (field (headerOf w) 56 2 = 0 ∧
        succeeds (decodeSlots (beginBundle r.1 0 (headerOf w)) (presentSlots w)) = true)) := by
  refine ⟨rfl, by decide, by decide +kernel, okAnd _ (by decide +kernel)⟩

/-- The bundle of that state is one that nothing stalls. -/
theorem witness_StepRunsDecoded_unheld :
    let q := { State.reset.withFetchWord 64 0x01000A30E0000000 with agenda := [] }
    let l := [(3, (0x01000A30E0000000 : W64), Instr.add f0 (opA 5 6 7))]
    ∃ w, (fetchBundle q 0).2 = .ok w ∧ (presentSlots w = [(3, 0x01000A30E0000000)]
      ∧ (let v := readHeader (beginBundle (fetchBundle q 0).1 0 (headerOf w)) 0 (headerOf w)
         stallOf v (getCore v 0) l = .none ∧ (pushChecks v (getCore v 0) l).isNone = true)) :=
  okAnd _ (by decide +kernel)

/-- Events for a stopped package, and packages without power and tripped. -/
theorem witness_StepRunsDecoded_stopped :
    stopped State.reset = false ∧ stopped { State.reset with power := false } = true ∧ reachesStopped .powerOn = true
    ∧ reachesStopped (.perform 0) = false ∧ State.reset.agenda = [] := by decide

/-- A state in canonical form that steps. -/
theorem witness_MemoryForm : Memory.wf State.reset.mem = true ∧ ∃ t, step State.reset = .next t := ⟨rfl, _, rfl⟩

theorem witness_DecodeEncode :
    let i := Instr.add f0 (opA 5 6 7)
    wellFormed i = true ∧ encode i = some 0x01000A30E0000000 ∧ reads 0x01000A30E0000000 i = true := by decide

end Sys2Proof.Tests
end

section
/-! SUPPORT. Proofs: the bit group (R108), selection, compare and predicates (R110, R111), and the fields of descriptors
(R117, R118): first what each shared operation does, then the statements. -/

namespace Sys2Proof.Proofs

open Sys2Proof Sys2Proof.Machine Sys2Proof.Claim

/-! ### Results formed on the selected width (R106) -/

/-- `as_signed` on 32 bits is what sign extension from 32 bits reads. -/
theorem asSigned_ofInt_32 (r : Int) : asSigned 32 (BitVec.ofInt 64 r) = (BitVec.ofInt 32 r).toInt := by
  simp only [asSigned, asNatural, BitVec.toNat_ofInt, BitVec.toInt_ofInt, Int.bmod]
  omega

/-- A result formed on the selected width is what `write_scalar` writes. -/
theorem atWidth_eq_writeScalar {width : BitVec 2} {g : (w : Nat) → BitVec w → BitVec w → BitVec w} {x y : W64} {r : Int}
    (h : g (opWidth width) (x.setWidth _) (y.setWidth _) = BitVec.ofInt _ r) :
    atWidth width g x y = writeScalar (opWidth width) r := by
  by_cases hw : width = 1
  · subst hw
    change g 32 (x.setWidth 32) (y.setWidth 32) = BitVec.ofInt 32 r at h
    change (g 32 (x.setWidth 32) (y.setWidth 32)).signExtend 64 = BitVec.ofInt 64 (asSigned 32 (BitVec.ofInt 64 r))
    rw [h, asSigned_ofInt_32, BitVec.signExtend]
  · have h64 : opWidth width = 64 := if_neg hw
    rw [h64, BitVec.setWidth_eq, BitVec.setWidth_eq] at h
    rw [h64, atWidth, if_neg hw, h, writeScalar, if_neg (by decide)]

/-- A form on the selected width gives `write_scalar` of the integer that its result stands for. -/
theorem givesScalar_aluA {i : Instr} {s : State} {f : Frame} {o : OpA} {r : Int}
    {g : (w : Nat) → BitVec w → BitVec w → BitVec w} (hp : predOk s f = true) (hi : exec i s = .next (aluA g f o s))
    (hg : g (opWidth o.width) ((srcS s o.a).setWidth _) ((srcS s o.b).setWidth _) = BitVec.ofInt _ r) :
    GivesScalar i s o.dst (writeScalar (opWidth o.width) r) :=
  givesScalar_putS hp hi (atWidth_eq_writeScalar hg)

/-- The two widths. -/
theorem opWidth_cases (width : BitVec 2) : opWidth width = 32 ∨ opWidth width = 64 := by
  unfold opWidth
  split
  · exact .inl rfl
  · exact .inr rfl

theorem opWidth_le (width : BitVec 2) : opWidth width ≤ 64 := by
  have := opWidth_cases width
  omega

/-- Below the width, an operand's bits are those of its source. -/
theorem getLsbD_setWidth_of_lt (x : W64) {w i : Nat} (h : i < w) : (x.setWidth w).getLsbD i = x.getLsbD i := by
  simp [h]

/-- A form on the selected width, told by its result's bits. -/
theorem givesScalar_aluA_bits {i : Instr} {s : State} {f : Frame} {o : OpA} {b : Nat → Bool}
    {g : (w : Nat) → BitVec w → BitVec w → BitVec w} (hp : predOk s f = true) (hi : exec i s = .next (aluA g f o s))
    (hb : ∀ j, j < opWidth o.width →
      (g (opWidth o.width) ((srcS s o.a).setWidth _) ((srcS s o.b).setWidth _)).getLsbD j = b j) :
    ∃ r : Int, GivesScalar i s o.dst (writeScalar (opWidth o.width) r)
      ∧ ∀ j, j < opWidth o.width → (BitVec.ofInt 64 r).getLsbD j = b j := by
  refine ⟨((g (opWidth o.width) ((srcS s o.a).setWidth _) ((srcS s o.b).setWidth _)).toNat : Int),
    givesScalar_aluA hp hi (by simp), fun j hj => ?_⟩
  have h64 : j < 64 := Nat.lt_of_lt_of_le hj (opWidth_le _)
  rw [BitVec.ofInt_natCast, BitVec.getLsbD_ofNat, ← hb j hj, BitVec.testBit_toNat]
  simp [h64]

/-! ### Counts (R108) -/

/-- The length of the run of indices from 0 on which `p` holds, below `w`: `p` holds on all of them, and fails at the next
one unless the run is the whole. -/
theorem length_takeWhile_range {p : Nat → Bool} {w n : Nat} (hn : n = ((List.range w).takeWhile p).length) :
    n ≤ w ∧ (∀ i, i < n → p i = true) ∧ (n < w → p n = false) := by
  have hle : (List.range w).findIdx (fun i => !p i) ≤ w := by
    simpa using List.findIdx_le_length (p := fun i => !p i) (xs := List.range w)
  rw [List.takeWhile_eq_take_findIdx_not, List.length_take, List.length_range, Nat.min_eq_left hle] at hn
  subst hn
  refine ⟨hle, fun i hi => ?_, fun hlt => ?_⟩
  · simpa using List.not_of_lt_findIdx hi
  · have h := List.findIdx_getElem (p := fun i => !p i) (xs := List.range w) (w := by simpa using hlt)
    rw [List.getElem_range] at h
    simpa using h

/-- CLZ counts the zero bits above the highest set bit. -/
theorem countLead_spec (x : W64) (w : Nat) :
    countLead w (x.setWidth w) ≤ w
      ∧ (∀ i, w - countLead w (x.setWidth w) ≤ i → i < w → x.getLsbD i = false)
      ∧ (countLead w (x.setWidth w) < w → x.getLsbD (w - 1 - countLead w (x.setWidth w)) = true) := by
  obtain ⟨hle, hrun, hnext⟩ := length_takeWhile_range (n := countLead w (x.setWidth w)) rfl
  refine ⟨hle, fun i hlo hi => ?_, fun hlt => ?_⟩
  · have h := hrun (w - 1 - i) (by omega)
    rw [show w - 1 - (w - 1 - i) = i by omega, getLsbD_setWidth_of_lt x hi] at h
    simpa using h
  · have h := hnext hlt
    rw [getLsbD_setWidth_of_lt x (by omega)] at h
    simpa using h

/-- CTZ counts the zero bits below the lowest set bit. -/
theorem countTrail_spec (x : W64) (w : Nat) :
    countTrail w (x.setWidth w) ≤ w ∧ (∀ i, i < countTrail w (x.setWidth w) → x.getLsbD i = false)
      ∧ (countTrail w (x.setWidth w) < w → x.getLsbD (countTrail w (x.setWidth w)) = true) := by
  obtain ⟨hle, hrun, hnext⟩ := length_takeWhile_range (n := countTrail w (x.setWidth w)) rfl
  refine ⟨hle, fun i hi => ?_, fun hlt => ?_⟩
  · have h := hrun i hi
    rw [getLsbD_setWidth_of_lt x (Nat.lt_of_lt_of_le hi hle)] at h
    simpa using h
  · have h := hnext hlt
    rw [getLsbD_setWidth_of_lt x hlt] at h
    simpa using h

/-- POPC counts the set bits below the width. -/
theorem popCount_setWidth (x : W64) (w : Nat) :
    popCount w (x.setWidth w) = (List.range w).countP fun i => x.getLsbD i := by
  rw [popCount, ← List.countP_eq_length_filter]
  refine List.countP_congr fun i hi => ?_
  rw [getLsbD_setWidth_of_lt x (List.mem_range.mp hi)]

/-! ### Bit and byte orders (R108, R2) -/

/-- A factor of two leaves a sum. -/
theorem sum_map_two_mul (f : Nat → Nat) (l : List Nat) : (l.map fun i => 2 * f i).sum = 2 * (l.map f).sum := by
  induction l with
  | nil => rfl
  | cons i t ih => rw [List.map_cons, List.sum_cons, ih, List.map_cons, List.sum_cons, Nat.mul_add]

/-- The sum that BREV forms, for any bits `p`: bit j is p (w − 1 − j). -/
theorem testBit_reversedSum (p : Nat → Bool) (w j : Nat) :
    (((List.range w).map fun i => if p i then 2 ^ (w - 1 - i) else 0).sum).testBit j
      = (decide (j < w) && p (w - 1 - j)) := by
  induction w generalizing j with
  | zero => simp
  | succ w ih =>
    have hdouble : ((List.range w).map fun i => if p i then 2 ^ (w + 1 - 1 - i) else 0)
        = (List.range w).map fun i => 2 * if p i then 2 ^ (w - 1 - i) else 0 := by
      refine List.map_congr_left fun i hi => ?_
      have hi : i < w := List.mem_range.mp hi
      rw [show w + 1 - 1 - i = w - 1 - i + 1 by omega, Nat.pow_succ]
      split <;> omega
    have hbit : ((List.range (w + 1)).map fun i => if p i then 2 ^ (w + 1 - 1 - i) else 0).sum
        = 2 ^ 1 * ((List.range w).map fun i => if p i then 2 ^ (w - 1 - i) else 0).sum + (p w).toNat := by
      rw [List.range_succ, List.map_append, List.sum_append, hdouble, sum_map_two_mul]
      cases hw : p w <;> simp [hw]
    rw [hbit, Nat.testBit_two_pow_mul_add _ (Bool.toNat_lt _)]
    cases j with
    | zero => cases hw : p w <;> simp [hw]
    | succ j => simp [ih, show w - (j + 1) = w - 1 - j by omega]

/-- BREV moves bit w − 1 − j to bit j. -/
theorem getLsbD_bitReverse {w j : Nat} (x : BitVec w) (h : j < w) :
    (bitReverse w x).getLsbD j = x.getLsbD (w - 1 - j) := by
  rw [bitReverse, BitVec.getLsbD_ofNat, testBit_reversedSum]
  simp [h]

/-- Bit j of the number that bytes make, least significant first, stands in byte j / 8. -/
theorem testBit_natOfBytes (l : List Byte) (j : Nat) :
    (natOfBytes l).testBit j = (l.getD (j / 8) 0).getLsbD (j % 8) := by
  induction l generalizing j with
  | nil => simp [natOfBytes]
  | cons b t ih =>
    rw [natOfBytes, Nat.add_comm, show (256 : Nat) = 2 ^ 8 from rfl, Nat.testBit_two_pow_mul_add _ b.isLt]
    by_cases h : j < 8
    · simp [h, Nat.div_eq_of_lt h, Nat.mod_eq_of_lt h, BitVec.testBit_toNat]
    · rw [if_neg h, ih, show j / 8 = (j - 8) / 8 + 1 by omega, show j % 8 = (j - 8) % 8 by omega]
      rfl

/-- Byte k of `toBytes`, counted from the most significant. -/
theorem getD_reverse_toBytes {n k m : Nat} (x : BitVec n) (h : k < m) :
    (toBytes m x).reverse.getD k 0 = byteOf x (m - 1 - k) := by
  have hk : k < (toBytes m x).reverse.length := by simpa [toBytes] using h
  rw [List.getD_eq_getElem?_getD, List.getElem?_eq_getElem hk, Option.getD_some, List.getElem_reverse]
  simp [toBytes]

/-- BSWAP moves byte w/8 − 1 − k to byte k. -/
theorem getLsbD_byteSwap {w j : Nat} (x : BitVec w) (hw : 8 ∣ w) (h : j < w) :
    (ofBytes w (toBytes (w / 8) x).reverse).getLsbD j = x.getLsbD (8 * (w / 8 - 1 - j / 8) + j % 8) := by
  have hk : j / 8 < w / 8 := by omega
  have hm : j % 8 < 8 := Nat.mod_lt _ (by decide)
  rw [ofBytes, BitVec.getLsbD_ofNat, testBit_natOfBytes, getD_reverse_toBytes x hk, byteOf, BitVec.getLsbD_extractLsb']
  simp [h, hm]

/-- Settles O3: each form is one on the selected width, whose result has the counts or the bits that R108 gives. -/
theorem bitGroup : Obligations.BitGroup := by
  intro f o s hp w x
  have hw := opWidth_cases o.width
  refine ⟨?clz, ?ctz, ?popc, ?brev, ?bswap⟩
  case clz => exact ⟨_, givesScalar_aluA hp rfl (BitVec.ofInt_natCast _ _).symm, countLead_spec x w⟩
  case ctz => exact ⟨_, givesScalar_aluA hp rfl (BitVec.ofInt_natCast _ _).symm, countTrail_spec x w⟩
  case popc =>
    rw [← popCount_setWidth x w]
    exact givesScalar_aluA hp rfl (BitVec.ofInt_natCast _ _).symm
  case brev =>
    refine givesScalar_aluA_bits hp rfl fun j hj => ?_
    rw [getLsbD_bitReverse _ hj, getLsbD_setWidth_of_lt _ (by omega)]
  case bswap =>
    refine givesScalar_aluA_bits hp rfl fun j hj => ?_
    rw [getLsbD_byteSwap _ (by omega) hj, getLsbD_setWidth_of_lt _ (by omega)]

/-! ### Selection, compare and predicates (R110, R111) -/

/-- A field that reaches the top of its word is a quotient. -/
theorem field_29_3 (x : BitVec 32) : field x 29 3 = x.toNat / 2 ^ 29 := by
  rw [field, BitVec.extractLsb'_toNat, Nat.shiftRight_eq_div_pow]
  omega

/-- Settles O4: SEL and SETC write the scalar, and CMP and the predicate group the predicate, that R110 and R111 give. -/
theorem selectCompareAndPredicates : Obligations.SelectCompareAndPredicates := by
  intro f o k s hp
  refine ⟨?sel, ?setc, ?cmp, ?pand, ?por, ?pxor, ?pnot⟩
  case sel => exact givesScalar_putS hp rfl rfl
  case setc => exact givesScalar_putS hp rfl rfl
  case cmp =>
    rw [← field_29_3]
    exact givesPredicate_putP hp rfl rfl
  case pand => exact givesPredicate_putP hp rfl rfl
  case por => exact givesPredicate_putP hp rfl rfl
  case pxor => exact givesPredicate_putP hp rfl rfl
  case pnot => exact givesPredicate_putP hp rfl rfl

/-! ### Fields of descriptors (R117, R118) -/

/-- `setField` writes the field and no other bit. -/
theorem fieldWritten_setField (d : W512) {lo w v : Nat} (hw : w ≤ 512) : FieldWritten d (setField d lo w v) lo w v := by
  intro i hi
  simp only [setField, BitVec.getLsbD_or, BitVec.getLsbD_and, BitVec.getLsbD_not, BitVec.getLsbD_shiftLeft,
    BitVec.getLsbD_ushiftRight, BitVec.getLsbD_allOnes, BitVec.getLsbD_ofNat, Nat.testBit_mod_two_pow]
  by_cases hlo : lo ≤ i
  · by_cases hhi : i < lo + w
    · simp [hi, hlo, hhi, Nat.not_lt.mpr hlo, show i - lo < 512 by omega, show i - lo < w by omega,
        show 512 - w + (i - lo) < 512 by omega]
    · simp [hi, hlo, hhi, show ¬ i - lo < w by omega, show ¬ 512 - w + (i - lo) < 512 by omega]
  · simp [hi, hlo, show i < lo by omega]

/-- Every field of R117 lies in one word, and the signed ones do not fill it. -/
theorem descField_width (fn : Nat) : (descField fn).2.1 ≤ 64 ∧ ((descField fn).2.2 = true → (descField fn).2.1 ≠ 64) := by
  unfold descField
  split <;> simp

/-- The W_FALLBACK events of a DSET: one where the value is not representable in the field, in two's complement for a
signed one. -/
theorem toNat_not_fits (v : W64) {w : Nat} {signed : Bool} (hs : signed = true → w ≠ 64) :
    (!fits v w signed).toNat
      = if signed then (if -(2 ^ (w - 1)) ≤ v.toInt ∧ v.toInt < 2 ^ (w - 1) then 0 else 1)
        else if v.toNat < 2 ^ w then 0 else 1 := by
  cases signed with
  | true =>
    rw [fits, if_neg (hs rfl), if_pos rfl, if_pos rfl, ← Bool.decide_and]
    split
    · next h => rw [decide_eq_true h]; rfl
    · next h => rw [decide_eq_false h]; rfl
  | false =>
    by_cases h : w = 64
    · subst h
      simp [fits, v.isLt]
    · rw [fits, if_neg h]
      by_cases hv : v.toNat < 2 ^ w <;> simp [hv]

/-- A W_FALLBACK event or none. -/
theorem coreOnly_warnIf_fallback (s : State) (p : Bool) :
    CoreOnly s.cur s (warnIf s p wFallback) fun k =>
      { k with regs := { k.regs with cr := fallbacks p.toNat k.regs.cr } } := by
  cases p with
  | true => exact coreOnly_onCore s s.cur fun k => { k with regs := { k.regs with cr := crWarn k.regs.cr wFallback } }
  | false => exact ⟨rfl, fun _ => rfl, fun _ _ => rfl, rfl⟩

@[simp] theorem warnIf_cur (s : State) (p : Bool) (b : Nat) : (warnIf s p b).cur = s.cur := by
  cases p <;> rfl

/-- `putD` writes one descriptor and nothing else. -/
theorem coreOnly_putD (s : State) (n : Nat) (v : W512) :
    CoreOnly s.cur s (putD s n v) fun k => { k with regs := wrD k.regs n v } :=
  coreOnly_noteWrite (coreOnly_onCore s s.cur _) 2 n

/-- A descriptor write after the W_FALLBACK event of its slot, if any. -/
theorem coreOnly_putD_warnIf (s : State) (p : Bool) (n : Nat) (v : W512) :
    CoreOnly s.cur s (putD (warnIf s p wFallback) n v) fun k =>
      { k with regs := { wrD k.regs n v with cr := fallbacks p.toNat k.regs.cr } } := by
  have h := coreOnly_putD (warnIf s p wFallback) n v
  rw [warnIf_cur] at h
  exact coreOnly_trans (coreOnly_warnIf_fallback s p) h

/-- A change of the current core under a true predicate. -/
theorem changesCore_whenPred {i : Instr} {s t : State} {f : Frame} {g : Core → Core} (hp : predOk s f = true)
    (hi : exec i s = .next (whenPred f s t)) (ht : CoreOnly s.cur s t g) : ChangesCore i s g :=
  ⟨t, by rw [hi, whenPred, if_pos hp], ht⟩

/-- DSET on the field that it names. -/
theorem changesCore_dset {f : Frame} {s : State} (o : OpY) (hp : predOk s f = true) {lo w : Nat} {signed : Bool}
    (hd : descField o.fn.toNat = (lo, w, signed)) :
    ChangesCore (.dset f o) s fun k =>
      { k with regs := { wrD k.regs (dReg o.x) (setField (srcD s (dReg o.x)) lo w (srcS s o.y).toNat) with
                         cr := fallbacks (!fits (srcS s o.y) w signed).toNat k.regs.cr } } := by
  refine changesCore_whenPred hp ?_ (coreOnly_putD_warnIf s _ _ _)
  change execDset f o s = _
  simp only [execDset, hd]

/-- DGET on the field that it names. -/
theorem givesScalar_dget {f : Frame} {s : State} (o : OpY) (hp : predOk s f = true) {lo w : Nat} {signed : Bool}
    (hd : descField o.fn.toNat = (lo, w, signed)) :
    GivesScalar (.dget f o) s o.x
      (if signed then BitVec.ofInt 64 (sfield (srcD s (dReg o.y)) lo w)
       else BitVec.ofNat 64 (field (srcD s (dReg o.y)) lo w)) := by
  refine givesScalar_putS hp ?_ rfl
  change execDget f o s = _
  simp only [execDget, hd]

/-- Settles O15: DSET and DADV write the register with `setField`, DSET after a warning where the value does not fit, and
DGET reads the field. -/
theorem descriptorFields : Obligations.DescriptorFields := by
  intro f o s hp
  rcases hd : descField o.fn.toNat with ⟨lo, w, signed⟩
  obtain ⟨hw, hs⟩ := descField_width o.fn.toNat
  rw [hd] at hw hs
  refine ⟨?dset, ?dget, ?dadv⟩
  case dset =>
    rw [← toNat_not_fits (srcS s o.y) hs]
    exact ⟨_, fieldWritten_setField _ (Nat.le_trans hw (by decide)), changesCore_dset o hp hd⟩
  case dget => exact givesScalar_dget o hp hd
  case dadv =>
    exact ⟨_, fieldWritten_setField _ (by decide), changesCore_whenPred hp rfl (coreOnly_putD s _ _)⟩

end Sys2Proof.Proofs
end

section
/-! SUPPORT. Proofs: SELF's facts of the run (R304) and RQUERY's word of a rule slot (R309). -/

namespace Sys2Proof.Proofs

open Sys2Proof Sys2Proof.Machine Sys2Proof.Claim

/-! ### SELF (R304) -/

/-- A field written into a scalar is the field's bits, extended with zeros. -/
theorem ofNat_field {n : Nat} (x : BitVec n) (lo w : Nat) :
    BitVec.ofNat 64 (field x lo w) = (x.extractLsb' lo w).setWidth 64 := by
  rw [field, BitVec.ofNat_toNat]

/-- Fact 1 is the tag of the run's record, bits 207:192. -/
theorem selfFact_tag (s : State) (c : Nat) (k : Core) :
    selfFact s c k 1 = (k.run.record.extractLsb' 192 16).setWidth 64 :=
  ofNat_field k.run.record 192 16

/-- Fact 4 is the join of the run's record, bits 191:128: the field is as wide as the scalar. -/
theorem selfFact_join (s : State) (c : Nat) (k : Core) : selfFact s c k 4 = k.run.record.extractLsb' 128 64 :=
  (ofNat_field k.run.record 128 64).trans (BitVec.setWidth_eq _)

/-- SELF with selector `n` gives the fact that `n` names. -/
theorem givesScalar_self {f : Frame} {o : OpY} {s : State} {n : BitVec 9} {v : W64} (hp : predOk s f = true)
    (hn : o.fn = n) (hv : selfFact s s.cur (cc s) n.toNat = v) : GivesScalar (.self f o) s o.x v :=
  givesScalar_putS hp rfl (hn ▸ hv)

/-! ### RQUERY (R309) -/

/-- The word of a slot: 0 when it is free, else its state's code from bit 61, the cause of a faulted rule from bit 40, and
its cursor below. -/
theorem ruleWord_eq (r : Rule) :
    ruleWord r = if r.st = .free then 0
      else BitVec.ofNat 64 (ruleCode r.st * 2 ^ 61 + (if r.st = .faulted then r.cause.toNat * 2 ^ 40 else 0)
        + r.cursor % 2 ^ 40) := by
  have hcause : (if r.st = .faulted then r.cause.toNat else 0) * 2 ^ 40
      = if r.st = .faulted then r.cause.toNat * 2 ^ 40 else 0 := by
    split
    · rfl
    · exact Nat.zero_mul _
  rw [ruleWord, hcause]

/-- RQUERY gives the word of the slot that its immediate names, as the lower slots of the bundle left it (log entry 76). -/
theorem givesScalar_rquery {f : Frame} (o : OpY) {s : State} (hp : predOk s f = true) :
    GivesScalar (.rquery f o) s o.x (ruleWord (getRule (cc s) (ruleN o))) :=
  givesScalar_putS hp rfl rfl

/-- Settles O16: SELF gives the fact that fn selects, and RQUERY the word of its slot in the codes of R309. -/
theorem selfAndRuleQuery : Obligations.SelfAndRuleQuery := by
  intro f o s hp run r code
  have hcode : ruleCode r.st = code := rfl
  refine ⟨?recordCopy, ?tag, ?queue, ?function, ?join, ?rquery⟩
  case recordCopy => exact fun hn => givesScalar_self hp hn rfl
  case tag => exact fun hn => givesScalar_self hp hn (selfFact_tag s s.cur (cc s))
  case queue => exact fun hn => givesScalar_self hp hn rfl
  case function => exact fun hn => givesScalar_self hp hn rfl
  case join => exact fun hn => givesScalar_self hp hn (selfFact_join s s.cur (cc s))
  case rquery =>
    rw [← hcode, ← ruleWord_eq]
    exact givesScalar_rquery o hp

end Sys2Proof.Proofs
end
